-- ==== Sys2Proof/Word.lean ====
section
/-! DEFINITION. The word types of the VT2 and nothing else: bytes, 32-bit registers, and the sparse table that holds
registers, memories and every other numbered collection of like things. -/

namespace Sys2Proof

/-- One byte of device or host memory. -/
abbrev Byte := BitVec 8

/-- One 32-bit register (R45). -/
abbrev W32 := BitVec 32

/-- A numbered collection of like things, kept sparse: pairs of a number and a value, the numbers rising, and no pair
whose value is the one an unlisted number has. -/
abbrev Tab (α : Type) := List (Nat × α)

end Sys2Proof
end

