-- ==== Sys2Proof/Names.lean ====
section
/-! DEFINITION. The names the commands use: the registers of the spec's register maps, and the small records of what an
event brings with it (a temperature, a boot strap, a measured level). -/

namespace Sys2Proof

/-- The registers of the spec, under the spec's names. An index of the name (a ring group, a cell, a port) is carried
beside it in `RegId`. -/
inductive RegName where
  -- The Transom and the Address Map
  | hubBar4BaseLo | hubBar4BaseHi | hubClken | hubClkst | hubMmuRootLo | hubMmuRootHi
  | hubMmuInvCtl | hubMmuInvAddrLo | hubMmuInvAddrHi
  -- Rings, Doorbells and Descriptors
  | matrixRow
  | hubVfRing | hubRctBaseLo | hubRctBaseHi | hubRgrpCfg | hubRingCmd | hubRingStat | hubRingHead
  -- Number Formats and Training Numerics
  | numGrpBaseLo | numGrpBaseHi | numStepCfg | numStep | numZsCtl | numZsStat | numNormStat
  | numOasisBaseLo | numOasisBaseHi | numOasisSize | numOasisQuota | numOasisUsed
  -- Analogue Cells and Their Leaves
  | cellLeafStat | cellGainSel | cellWadiCfg | cellWearALo | cellWearAHi | cellWearBLo | cellWearBHi
  | cellEvalCnt | cellSatCnt | cellWadiCnt | cellFbCnt | cellEvtStat | blkActBaseLo | blkActBaseHi
  -- Analogue Accuracy, Calibration and Repair
  | cellCalStat | cellCalCmd | cellCheckCfg | cellCheckStat | cellRepairStat
  -- Digital Matrix Units
  | dmuCfg | dmuStat | dmuTileCnt | dmuStallCnt | dmuErrCnt
  -- Block Programs, Schedulers and Vector Engines
  | blkSbStat | blkSramStat | blkResLo | blkResHi | blkResCtl | blkCarCfg | blkCarOvfLo | blkCarOvfHi | blkCarStat
  | hubSlewCfg | rgnSlewStat
  -- Memory System
  | memMapLocalLo | memMapLocalHi | memMapStat | memCacheHit | memCacheMiss | memCacheErr | memTagStat
  | memEccCnt | memEccAddrLo | memEccAddrHi | memScrubCfg | memThermStat | memMargCtl | memMargRes
  -- Fused Update Unit
  | updGrpBaseLo | updGrpBaseHi | rgnUpdStat | rgnUpdCnt
  -- Optical Fabric Ports
  | fabNodeId | fabNodeEpoch | fabAdopt | fabRtAddr | fabRtData | fabCarWin
  | portCtl | portStat | portPeer | portPeerEpoch | portLanemap | portClassCfg | portLinkCnt
  | portLaneStat | portFeedStat | portOeTemp
  -- Gradient Reduction and Collectives
  | colGrpBaseLo | colGrpBaseHi | colStageLo | colStageHi | colDigLo | colDigHi | colDigIdx | colCnt
  -- Faults, Replay and Checkpoints
  | rgnShutterCtl | fltRecStat | fltStepCtl | fltStepTime | fltUndoLo | fltUndoHi | fltLogLo | fltLogHi
  | snapDirtyLo | snapDirtyHi | snapAreaCtl | snapAreaLoc
  | hubAlarmStat | hubAlarmMask | hubAlarmFwd | hubAlarmCnt
  | fltMaintReq | fltMaintRes | fltMaintSlot | fltMaintLease | fltCtl
  -- Power, Clocks and Telemetry
  | pwrVinCfg | pwrIccCfg | pwrAvsStat | clkStretchCfg | clkSscCmp | clkSscNet | clkPllStat | thmCfg | thmStat
  | tadcCtl | tadcPer | tadcStat | tadcSeq | tadcUrg | tadcScal | tadcCalOfs | tadcCalGain | tadcRes
  -- Staged Start
  | hubStartCtl | hubStartStat | memTestCtl | memTestStat
  -- Security and Identity
  | secCmd | secStat | secFuseStat | secXferLo | secXferHi | secXferLen | secDbgNonceLo | secDbgNonceHi | secIdPub
  -- Signals
  | hubStrapStat | hubGpio
  deriving DecidableEq, Repr

/-- One register: its name, its index (function, group, cell, block, region, stack, port, converter, …) and, where the
spec gives it two, its second index. -/
structure RegId where
  name : RegName
  i : Nat := 0
  j : Nat := 0
  deriving DecidableEq, Repr

/-- The two leaves of a cell (Table 5-1). -/
inductive Leaf where
  | a | b
  deriving DecidableEq, Repr

/-- The straps at PERST# release (Table 17-2). -/
structure Straps where
  pllSettle : BitVec 3
  smbAddr : BitVec 2
  testEn : Bool
  deriving DecidableEq, Repr

/-- What a host access asks for: a read of some bytes, or a write of the bytes given. -/
inductive Access where
  | read (len : Nat)
  | write (bytes : List Byte)
  deriving DecidableEq, Repr

/-- The outcome of a memory test of one stack (R572, R573). -/
structure StackTest where
  stack : Nat
  repaired : Nat
  failed : Nat
  lost : Bool
  deriving DecidableEq, Repr

/-- What a readback of a leaf measures (R222, R223): for each row the pair levels in units of 2^−16 level, and the sums of
the known-sum vectors, first run and repeat (R255), in product units. -/
structure Readback where
  levels : List (List Int)
  sums : List (List Int)
  repeated : List (List Int)
  deriving DecidableEq, Repr

/-- How the comparison of a clone or a restored leaf with its image came out (R267): the square of the RMS difference in
units of 2^−16 level², the largest difference in levels, and whether the known-sum check passed. -/
structure CloneCheck where
  rmsSq : Nat
  maxDiff : Nat
  sumsPass : Bool
  deriving DecidableEq, Repr

/-- What a full calibration of one cell measured (R240, Table 6-3): the codes, 0–64 of the converters and 65 + 256 × leaf +
column of the columns, and the spares that failed their test pattern. A code that the list does not hold is 0. -/
structure CalResult where
  codes : List Int
  badSpares : Nat
  deriving DecidableEq, Repr

/-- What a port learns by training (R402, R406–R409, R420, R435): the powers measured of its two laser feeds in 0.01 dBm, the
receive lanes locked by t2, the pre-FEC bit error ratio of each lane in units of 10⁻⁷, the feeds that the partner reports low, and what
the partner says of itself. -/
structure Training where
  feeds : List Int
  locked : List Nat
  ber : List Nat
  lowFeeds : List Nat
  peerCapability : Nat
  peerMap : List Nat
  peerNode : Nat
  peerEpoch : Nat
  peerPort : Nat
  credits : List Nat
  deriving DecidableEq, Repr

/-- The laser feed that supplies a physical lane (Table 11-1). -/
def feedOf (lane : Nat) : Nat := if lane < 9 then 0 else 1

/-- The good receive lanes: locked, at most 2.4 × 10⁻⁴ errors, and on a feed not reported low (R406). -/
def Training.goodRx (x : Training) : List Nat :=
  (List.range 18).filter fun l => decide (l ∈ x.locked ∧ x.ber.getD l 0 ≤ 2400 ∧ feedOf l ∉ x.lowFeeds)

/-- A laser feed measured below +12.0 dBm is low (R402). -/
def feedLow (power : Int) : Bool := decide (power < 1200)

/-- Why a port trains (R404, R406). -/
inductive TrainCause where
  | stage2 | retrain | linkLoss | signalDetect
  deriving DecidableEq, Repr

/-- Why a region reset starts (Table 13-18, event 0x0901). -/
inductive ResetCause where
  | software | block | regionUnit
  deriving DecidableEq, Repr

/-- An error that strikes a unit of the device: the unit meets it at its next work (DESIGN CHOICE, log entry 71). -/
inductive Upset where
  /-- A single-bit error in the stager or the hinge buffer of a DMU; a double-bit error there, with the chunk slot and the output
  tile that uses it (R305). -/
  | stagerBit (dmu : Nat)
  | stagerDouble (dmu slot tile : Nat)
  /-- A residue or parity mismatch at the drain of an output tile of a DMU (R306). -/
  | residue (dmu tile : Nat)
  /-- A lane residue or register parity error of a vector engine (R339). -/
  | lane (block : Nat)
  /-- A single-bit error in a block's SRAM; a double-bit error in a page of it, in a descriptor copy, or in a caravan queue, with
  the SRAM offset (R339). -/
  | sramBit (block : Nat)
  | sramPage (block window page offset : Nat)
  | sramCopy (block offset : Nat)
  | sramQueue (block offset : Nat)
  /-- A failed lane residue check, and a failed commit, of an update unit (R398). -/
  | update (region : Nat)
  | commit (region : Nat)
  /-- A single-bit error in a cache slice (R353). -/
  | sliceBit (stack : Nat)
  /-- A single-bit error in the record store of a region (R480). -/
  | recordBit (region : Nat)
  /-- Bytes of a sector of device memory become erroneous (R366). -/
  | sector (stack sector bytes : Nat)
  deriving DecidableEq, Repr

/-- Who asks for a maintenance token (R511). -/
inductive Holder where
  | host | firmware
  deriving DecidableEq, Repr

/-- The seven PLLs in the order of CLK_PLL_STAT.LOCK (Table 14-10). -/
inductive Pll where
  | host | mgt | cmp | net | arr | mem | fab
  deriving DecidableEq, Repr

/-- The instructions of the test access port (R616, Table 16-7). -/
inductive JtagOp where
  | idcode | bypass | samplePreload | extest | internalScan | memory | coreDebug
  deriving DecidableEq, Repr

/-- Which SPDM transport a request came over (R597). -/
inductive SpdmPath where
  | doe | mctp
  deriving DecidableEq, Repr

/-- A fabric packet: the header of Table 11-4 and the bytes after it. -/
structure Packet where
  dst : Nat
  src : Nat
  srcEpoch : Nat
  type : Nat
  hops : Nat
  retried : Bool
  txn : Nat
  gen : Nat
  typeWord : Nat
  payload : List Byte
  deriving DecidableEq, Repr

end Sys2Proof
end

