-- ==== Sys2Proof/Syntax.lean ====
section
/-! DEFINITION. The commands of the VT2: one constructor for each row of the table of operations and events, with what the
command brings along (an address, a register value, a physical reading). Where a row is the running of an opcode, the
operands name the descriptor: its submission ring and its index in that ring. -/

namespace Sys2Proof

/-- One command. The docstring of each constructor is its row of the table. -/
inductive Instr where
  /-- Assertion of PERST# stops every stage and engine and resets the whole device except fuses, flash, resistive rows and the thermal trip. (R556) -/
  | perstAssert
  /-- Release of PERST# samples the straps, zeroes the update sequence and device time, and begins Stage 0. (R558) -/
  | perstRelease (straps : Straps) (nonce : List Byte)
  /-- Stage 0 completes: configuration space becomes ready, the board section is applied, HOLD0 and MTEST are loaded, and Stage 1 begins unless held. (R560) -/
  | stage0Complete
  /-- A PF write of GO releases a start held at the end of Stage 0 and begins Stage 1. (R564) -/
  | startGo (fn : Nat)
  /-- Stage 1 completes after fuses, journals and repair record are applied and logical resources are mapped; Stage 2 begins. (R567) -/
  | stage1Complete (fuseOk flashOk : Bool)
  /-- A stack's interface training ends, passing, being retried once, or leaving the stack lost. (R570) -/
  | stackTrainingDone (stack : Nat) (pass : Bool)
  /-- Stage 2 completes once every stack has trained or is lost and every port has reached UP or DOWN. (R571) -/
  | stage2Complete
  /-- The memory test of every stack ends, with repairs, and the stacks become PRESENT or lost. (R572) -/
  | stage3Complete (tests : List StackTest) (imageOk : Bool)
  /-- The firmware broadcast to every core class ends with each core's digest checked and failed sections resent or their units retired. (R577) -/
  | firmwareBroadcastDone (resent failed : List Nat)
  /-- The start-time full calibration ends, usable entries become PRESENT, stage reached becomes 4 and the start token is released. (R580) -/
  | stage4Complete (results : List (Nat × CalResult))
  /-- A Hot Reset on the host link stops and resets the rings, counters, records and windows of every function. (R557) -/
  | hotReset
  /-- A Function Level Reset of the PF acts on every function as a Hot Reset does. (R557) -/
  | pfFunctionLevelReset
  /-- A Function Level Reset of one VF stops its work, disables its rings, zeroes its counters and invalidates its address space. (R604) -/
  | vfFunctionLevelReset (v : Nat)
  /-- Setting VF Enable hands the enabled VF ring ranges to the VFs, zeroing their counters and aborting PF rings still in them. (R631) -/
  | vfEnableSet (numVfs : Nat)
  /-- A host write to a register that has no behaviour of its own sets its fields by their access codes. (R3) -/
  | registerWrite (fn : Nat) (reg : RegId) (value : W32)
  /-- A read of a register with an RC field returns its value and clears the field. (R3) -/
  | rcRegisterRead (fn : Nat) (reg : RegId)
  /-- A read of the low half of a 64-bit register copies the high half into a shadow, clearing its RC fields. (R46) -/
  | reg64LowRead (fn : Nat) (reg : RegId)
  /-- A BAR0 access of another width or alignment completes with Unsupported Request and writes an event. (R47) -/
  | unsupportedAccessWidth (fn offset length : Nat) (write : Bool) (window : Option (Nat × Nat))
  /-- A BAR0 access to an offset no window covers, or a write to the Transom, is discarded or reads 0 and writes an unmapped-access event. (R48) -/
  | unmappedAccess (fn offset : Nat) (write transom : Bool)
  /-- A host access to a window whose clock enable reads 0 completes with Completer Abort and writes a gated-access event. (R65) -/
  | gatedAccess (fn offset : Nat) (write : Bool) (entryType entryInst : Nat)
  /-- A BAR4 access reaches device physical memory or the VF's virtual space, or completes with Completer Abort under R43. (R41) -/
  | bar4Access (fn addr : Nat) (access : Access)
  /-- Writing 1 to a clock-enable bit starts the resource's clock, sets RUN and clears GATED within 2 µs. (R63) -/
  | clockEnableSet (index : Nat)
  /-- Writing 0 to a clock-enable bit refuses new work and access to the resource at once. (R64) -/
  | clockEnableClear (index : Nat)
  /-- Once accepted work on a disabled resource has finished, its clock stops, RUN clears and GATED sets. (R64) -/
  | clockStopped (index : Nat)
  /-- A write to HUB_MMU_ROOT invalidates every cached translation of its address space in all 17 MMUs. (R76) -/
  | mmuRootWrite (space : Nat) (high : Bool) (value : W32)
  /-- Writing START to HUB_MMU_INV_CTL starts an invalidation of a range or of a whole address space in all MMUs. (R74) -/
  | mmuInvalidate (value : W32)
  /-- The invalidation ends once no MMU holds an invalidated translation and accesses using one are complete; START reads 0. (R74) -/
  | mmuInvalidationComplete
  /-- An ATS invalidation request from the host completes after every access using the invalidated translation has finished. (R78) -/
  | atsInvalidationRequest (fn addr : Nat)
  /-- A write to HUB_VF_RING_v sets a VF's ring range or is discarded with a ring-configuration event. (R81) -/
  | vfRingRangeWrite (v : Nat) (value : W32)
  /-- A PF write to HUB_RGRP_CFG_g sets a group's weight and owner or is discarded with a ring-configuration event. (R85) -/
  | ringGroupConfigWrite (fn group : Nat) (value : W32)
  /-- The LOAD command reads and checks a ring context and makes the ring ACTIVE, or fails with an event. (R82) -/
  | ringLoad (fn ring : Nat) (context : List Byte)
  /-- The STOP command takes a ring to DRAINING, or an event ring straight to DISABLED. (R633) -/
  | ringStop (fn ring : Nat)
  /-- The ABORT command drains a ring, completing its fetched undispatched descriptors with ABORTED. (R633) -/
  | ringAbort (fn ring : Nat)
  /-- The RESUME command returns a HALTED ring to ACTIVE, rereads its shadow tail and re-dispatches a pending step log. (R99) -/
  | ringResume (fn ring : Nat)
  /-- The QUERY command fills HUB_RING_STAT and HUB_RING_HEAD for a ring. (R99) -/
  | ringQuery (fn ring : Nat)
  /-- A DRAINING ring with nothing left undispatched, in flight or owed writes its index and becomes DISABLED. (R633) -/
  | ringDrained (ring : Nat)
  /-- A doorbell write makes the VT2 read a submission ring's shadow tail, or reread a completion or event ring's consumer index, or is discarded. (R95) -/
  | doorbell (fn offset length : Nat) (value : W32)
  /-- A shadow-tail read returns, and the ring's new descriptors are fetched, or the ring halts on overflow or read failure. (R89) -/
  | shadowTailReadDone (ring : Nat) (tail : Option W32)
  /-- A descriptor read completes and the consumer index is written to DEVIDX_ADDR, or the ring halts after a failed retry. (R91) -/
  | descriptorFetchDone (ring : Nat) (slot : Option (List Byte))
  /-- The poll interval of a polled ring expires and its shadow tail is read. (R96) -/
  | ringPollTimer (ring : Nat)
  /-- The 10 µs timer of a completion or event ring owed space rereads its consumer index. (R98) -/
  | consumerIndexReread (ring : Nat) (index : Option W32)
  /-- A completion-ring stall reaching 1 ms writes a stall event, and its end writes another. (R627) -/
  | completionRingStall (ring : Nat)
  /-- The ring-group arbiter grants a group, which dispatches the next descriptor of its lowest eligible ring after header checks. (R86) -/
  | descriptorDispatch
  /-- A descriptor held in dispatch runs once all its dependency tokens are met, or aborts on a FAILED counter. (R113) -/
  | dependencyMet (ring index : Nat)
  /-- A fenced descriptor dispatches once every earlier descriptor of its ring has completed. (R108) -/
  | fenceRelease (ring : Nat)
  /-- A descriptor's work ends: its writes become visible, its counter is updated, its completion record is posted and its record freed. (R117) -/
  | descriptorComplete (ring index : Nat)
  /-- MOD_US expires after a ring's first unsignalled record and its vector is signalled. (R125) -/
  | interruptModerationTimer (ring : Nat)
  /-- A source's 1 ms rate window ends and an events-lost record for its rate-limit discards is written when space allows. (R123) -/
  | eventRateWindowEnd (ring srcType srcInst : Nat)
  /-- The NOP opcode does nothing but complete. (R110) -/
  | nop (ring index : Nat)
  /-- The CTR_WRITE opcode sets or adds to a completion counter and may clear its FAILED flag. (R112) -/
  | ctrWrite (ring index : Nat)
  /-- The EVENT_MARK opcode writes a user event record to the ring's event ring. (R121) -/
  | eventMark (ring index : Nat)
  /-- The RING_KICK opcode writes a device-memory ring's shadow tail and acts as a doorbell on it. (R111) -/
  | ringKick (ring index : Nat)
  /-- The LEAF_PROGRAM opcode quantises a master tile and writes it row by row into a cell leaf by coarse write. (R219) -/
  | leafProgram (ring index : Nat)
  /-- The LEAF_READBACK opcode reads a leaf back, runs the known-sum check, repairs faults and writes the as-programmed image. (R222) -/
  | leafReadback (ring index : Nat) (read : Readback)
  /-- The TILE_EVALUATE opcode runs input vectors through a VALID leaf, adding wadi entries, activation, pooling and output. (R196) -/
  | tileEvaluate (ring index : Nat)
  /-- The DMU_PRODUCT opcode computes a matrix product or element-wise operation on one DMU with epilogue. (R285) -/
  | dmuProduct (ring index : Nat)
  /-- The DMU_PAIR opcode forms dX and dW from one dY on both DMUs of a block. (R296) -/
  | dmuPair (ring index : Nat)
  /-- The VECTOR_PROGRAM opcode runs a micro-program on a block's vector engine for a number of iterations. (R322) -/
  | vectorProgram (ring index : Nat)
  /-- The MEM_COPY opcode copies or converts bytes, gathers sectors on the narrow path, or sends a caravan. (R354) -/
  | memCopy (ring index : Nat)
  /-- The MEM_ATOMIC opcode applies add, min or max to target elements at the memory-side adders, exactly once under its tag. (R359) -/
  | memAtomic (ring index : Nat)
  /-- The COLLECTIVE_STEP opcode opens a bucket and runs its reduce and gather on a concurrent ring. (R443) -/
  | collectiveStep (ring index : Nat)
  /-- The UPDATE_STEP opcode applies an element rule or the inverse-root primitive to parameter blocks in the fused update unit. (R382) -/
  | updateStep (ring index : Nat)
  /-- The SNAPSHOT opcode writes a full or incremental checkpoint of the manifest's ranges to memory or a buddy. (R501) -/
  | snapshot (ring index : Nat)
  /-- The SNAPSHOT_RESTORE opcode reads a checkpoint chain and restores ranges, counters and NUM_STEP, possibly completing an adoption. (R505) -/
  | snapshotRestore (ring index : Nat)
  /-- Writing 1 to TRIPPED clears TRIPPED, HOLD and STREAK and releases dispatch. (R171) -/
  | zeroStreakClear (fn : Nat)
  /-- A write of LIMIT stores a value clamped to 16–4,096. (R170) -/
  | zeroStreakLimitWrite (fn limit : Nat)
  /-- A write to the oasis base or size takes effect, or is refused with an event while units are held. (R180) -/
  | oasisConfigWrite (reg : RegName) (value : W32)
  /-- Each array period is granted as an evaluation, readback or calibration period of a cell. (R200) -/
  | arrayPeriod (cell : Nat) (codes : List Int)
  /-- A fallback product of up to 128 evaluations starts on the DMU that first reaches an output-tile boundary. (R320) -/
  | fallbackProductStart (block : Nat)
  /-- A suspect column gets a known-sum check at the next evaluation boundary. (R257) -/
  | suspectColumnCheck (cell : Nat) (sums : List (List Int))
  /-- A clone of a retired leaf finishes programming and readback and is accepted or rejected for the replay. (R267) -/
  | cloneReady (cell : Nat) (check : CloneCheck)
  /-- The 1 ms block sensor sample recomputes the interpolated correction codes. (R242) -/
  | junctionSample (block : Nat) (t16 : Int)
  /-- Each 40 ms slot moves a converter's columns to the spare, measures it and moves them back. (R243) -/
  | converterCalibrationSlot (cell : Nat) (measured : Int)
  /-- CELL_CAL_CMD START begins a full calibration of a cell, or is refused. (R246) -/
  | fullCalibrationStart (fn cell : Nat)
  /-- A full calibration ends, setting PASS or retiring the cell and resetting FULL_AGE. (R249) -/
  | fullCalibrationEnd (cell : Nat) (result : CalResult)
  /-- FULL_AGE reaching 744 hours writes a calibration-due event. (R251) -/
  | calibrationDue (cell : Nat)
  /-- A scoreboard parity mismatch stops issue and starts a rebuild, or escalates a second time. (R319) -/
  | scoreboardParityError (block : Nat)
  /-- The scoreboard rebuild ends, a rebuilt event is written and issue resumes. (R319) -/
  | scoreboardRebuildDone (block : Nat)
  /-- The block engine-class arbiter grants an issuable scoreboard entry to its engine. (R318) -/
  | blockIssue (block : Nat)
  /-- A start or stop waiting for slew credit takes place once its region's credit covers its step. (R337) -/
  | slewCreditStart (ring index : Nat)
  /-- The LD vector operation loads lanes from an argument. (R324) -/
  | vecLd (block : Nat)
  /-- The ST vector operation stores lanes to an argument through the iteration store buffer. (R327) -/
  | vecSt (block : Nat)
  /-- The ADD vector operation adds two vector registers. (R325) -/
  | vecAdd (block : Nat)
  /-- The MUL vector operation multiplies two vector registers. (R325) -/
  | vecMul (block : Nat)
  /-- The FMA vector operation forms a fused multiply-add. (R325) -/
  | vecFma (block : Nat)
  /-- The MIN vector operation takes the lane minimum with NaN winning. (R324) -/
  | vecMin (block : Nat)
  /-- The MAX vector operation takes the lane maximum with NaN winning. (R324) -/
  | vecMax (block : Nat)
  /-- The SEL vector operation selects per lane on a condition register. (R324) -/
  | vecSel (block : Nat)
  /-- The CMPLT vector operation compares lanes for less-than. (R324) -/
  | vecCmplt (block : Nat)
  /-- The SPLAT vector operation fills every lane with an immediate. (R324) -/
  | vecSplat (block : Nat)
  /-- The RCP vector operation forms the correctly rounded reciprocal. (R325) -/
  | vecRcp (block : Nat)
  /-- The RSQRT vector operation forms the correctly rounded reciprocal square root. (R325) -/
  | vecRsqrt (block : Nat)
  /-- The EXP2 vector operation forms the correctly rounded power of two. (R325) -/
  | vecExp2 (block : Nat)
  /-- The LOG2 vector operation forms the correctly rounded base-2 logarithm. (R325) -/
  | vecLog2 (block : Nat)
  /-- The SUM vector operation reduces lanes by a fixed pairwise tree. (R326) -/
  | vecSum (block : Nat)
  /-- The MAXR vector operation reduces lanes to their maximum by the same tree. (R326) -/
  | vecMaxr (block : Nat)
  /-- The SADD vector operation adds scalar registers and an immediate. (R324) -/
  | vecSadd (block : Nat)
  /-- The BRNZ vector operation branches when a scalar is non-zero. (R324) -/
  | vecBrnz (block : Nat)
  /-- The BR vector operation branches unconditionally. (R324) -/
  | vecBr (block : Nat)
  /-- The CPOP vector operation pops a caravan slot's packets into an argument. (R334) -/
  | cpop (block : Nat)
  /-- The END vector operation ends an iteration and writes its held stores and releases its pops. (R328) -/
  | vecEnd (block : Nat)
  /-- The ADD rule operation adds two operands. (R391) -/
  | ruleAdd (region : Nat)
  /-- The SUB rule operation subtracts two operands. (R391) -/
  | ruleSub (region : Nat)
  /-- The MUL rule operation multiplies two operands. (R391) -/
  | ruleMul (region : Nat)
  /-- The FMA rule operation forms a fused multiply-add. (R391) -/
  | ruleFma (region : Nat)
  /-- The MIN rule operation takes the minimum with NaN winning. (R391) -/
  | ruleMin (region : Nat)
  /-- The MAX rule operation takes the maximum with NaN winning. (R391) -/
  | ruleMax (region : Nat)
  /-- The SQRT rule operation forms the square root. (R391) -/
  | ruleSqrt (region : Nat)
  /-- The RCP rule operation forms the reciprocal. (R391) -/
  | ruleRcp (region : Nat)
  /-- The RSQRT rule operation forms the reciprocal square root. (R391) -/
  | ruleRsqrt (region : Nat)
  /-- The DIV rule operation divides two operands. (R391) -/
  | ruleDiv (region : Nat)
  /-- The LERP rule operation interpolates with one rounding. (R391) -/
  | ruleLerp (region : Nat)
  /-- The CLAMP rule operation clips an operand to a symmetric bound. (R391) -/
  | ruleClamp (region : Nat)
  /-- The CLIPB rule operation scales an operand by the block norm clip factor. (R391) -/
  | ruleClipb (region : Nat)
  /-- The SEL rule operation selects on a condition operand. (R391) -/
  | ruleSel (region : Nat)
  /-- The CMPLT rule operation compares for less-than. (R391) -/
  | ruleCmplt (region : Nat)
  /-- The END rule operation ends the program and takes r1, r2 and r3 as the element's results. (R389) -/
  | ruleEnd (region : Nat)
  /-- A write to BLK_RES_CTL enables a window, starts its flush, or is refused with an event. (R332) -/
  | residencyWindowWrite (fn block window : Nat) (value : W32)
  /-- A disabled window's dirty pages are written back, its pages freed and FLUSHING cleared. (R332) -/
  | residencyFlushDone (block window : Nat)
  /-- The first touch of a window page fills it from memory, evicting the oldest page if needed. (R330) -/
  | residencyPageFill (block window page : Nat)
  /-- An arriving caravan packet is stored in its slot's queue or overflow, its tokens counted, or held or refused. (R333) -/
  | caravan (packet : Packet)
  /-- Class 4 moves packets from a slot's overflow queue back to its on-die queue. (R334) -/
  | caravanRefill (block slot : Nat)
  /-- A caravan hold packet makes the sender keep its packets for that slot. (R335) -/
  | caravanHold (packet : Packet)
  /-- A caravan resume packet makes the sender resend its held packets. (R335) -/
  | caravanResume (packet : Packet)
  /-- A caravan-stored packet completes the sending MEM_COPY with OK. (R432) -/
  | caravanStored (packet : Packet)
  /-- A write to BLK_CAR_CFG_s configures a slot or is refused with an event. (R340) -/
  | caravanConfigWrite (fn block slot : Nat) (value : W32)
  /-- A write to MEM_MAP_LOCAL starts a segment mode change or is refused. (R344) -/
  | mapLocalWrite (high : Bool) (value : W32)
  /-- The changed segments' lines are written back and invalidated, the new modes applied and BUSY cleared. (R344) -/
  | mapChangeDone
  /-- A slice double-bit or tag error invalidates a clean line or marks dirty sectors lost. (R353) -/
  | cacheSliceError (stack granule : Nat) (sectors : List Nat) (tagError : Bool)
  /-- The patrol scrub checks and corrects sectors and spares rows with repeated errors. (R369) -/
  | patrolScrub (stack sector badBytes : Nat)
  /-- The 1 ms stack temperature reading moves the stack among normal, hot and critical states. (R370) -/
  | stackTemperatureSample (stack celsius : Nat)
  /-- A stack critical for 10 s is declared lost, its accesses time out and its collectives are withdrawn. (R373) -/
  | stackLost (stack : Nat)
  /-- MEM_MARG_CTL START begins a margin scan on one channel, or is refused. (R374) -/
  | marginScanStart (stack : Nat) (value : W32)
  /-- A margin scan tests its next point after the traffic gap, ending at a failure, 32 points or an abort. (R375) -/
  | marginPoint (stack : Nat) (pass : Bool)
  /-- MEM_TEST_CTL START begins a destructive field test of a stack, or is refused. (R575) -/
  | memTestStart (stack : Nat) (value : W32)
  /-- A field memory test ends, returning the stack to PRESENT or making it lost. (R575) -/
  | memTestDone (test : StackTest)
  /-- A port begins training at Stage 2, retrain, link loss or signal detect. (R404) -/
  | portTraining (port : Nat) (cause : TrainCause)
  /-- Training completes: width agreed, identities exchanged, credits set and the port goes UP. (R409) -/
  | portUp (port : Nat) (training : Training)
  /-- A port not UP within 500 ms goes DOWN and latches the port-down alarm. (R405) -/
  | portTrainingTimeout (port step goodLanes : Nat)
  /-- Light on at least four receive lanes of a DOWN port starts training, at most once per second. (R410) -/
  | signalDetect (port lanes : Nat)
  /-- A PORT_CTL RETRAIN write retrains the port under the maintenance token or is refused. (R411) -/
  | retrain (port : Nat)
  /-- A PORT_CTL DISABLE write takes the port to DISABLED under the token or is refused. (R411) -/
  | disable (port : Nat) (disable : Bool)
  /-- A receive lane in service fails and is swapped to a spare or left degraded. (R412) -/
  | laneFail (port lane : Nat)
  /-- Loss of lanes or the retry limit retrains the port, keeping its replay state. (R414) -/
  | linkLoss (port : Nat) (retryLimit : Bool)
  /-- A received flit is accepted or discarded, triggering NAKs, acknowledgements, credits and link control. (R418) -/
  | flitReceive (port : Nat) (flit : List Byte)
  /-- A received NAK makes the sender resend from the named sequence number. (R419) -/
  | nak (port seq : Nat)
  /-- A NAK is repeated after 2 µs with no accepted flit. (R418) -/
  | nakRepeatTimer (port : Nat)
  /-- The 200 ns acknowledgement timer sends an acknowledgement. (R418) -/
  | ackTimer (port : Nat)
  /-- No acknowledgement for 4 µs resends from the oldest unacknowledged flit, losing the link after 9 sends. (R419) -/
  | resendTimeout (port : Nat)
  /-- A packet is delivered locally, forwarded with HOPS decremented, or discarded with an unreachable notice. (R427) -/
  | packetRoute (packet : Packet) (arrived : Option Nat)
  /-- An arriving remote descriptor packet executes in the sender's assigned address space. (R105) -/
  | remoteDescriptor (packet : Packet)
  /-- A remote completion packet completes the issuing descriptor and frees its fabric record. (R105) -/
  | remoteCompletion (packet : Packet)
  /-- A memory read request packet reads local memory and returns memory data. (R358) -/
  | memoryReadRequest (packet : Packet)
  /-- A memory data packet writes its bytes, including checkpoint data into a buddy area. (R504) -/
  | memoryData (packet : Packet)
  /-- A write to FAB_RT_DATA updates a route entry in every copy within 1 µs. (R429) -/
  | routeTableWrite (value : W32)
  /-- A write to FAB_NODE_ID sets the node identifier once or is refused. (R434) -/
  | nodeIdWrite (value : W32)
  /-- A write to FAB_ADOPT arms adoption of a failed node's identity at the next restore. (R436) -/
  | adoptWrite (value : W32)
  /-- An adoption notice updates the partner's recorded peer and epoch or is refused. (R437) -/
  | adoptionNotice (port : Nat) (node epoch : Nat)
  /-- A slow-peer notice extends the deadlines of the group's open buckets. (R440) -/
  | slowPeerNotice (packet : Packet)
  /-- An unreachable notice makes the fabric record resend once after 1 ms or fail. (R481) -/
  | unreachableNotice (txn : Nat)
  /-- A fabric transaction without remote completion for 100 ms is resent, failing after three resends. (R481) -/
  | fabricRecordTimeout (txn : Nat)
  /-- A received alarm packet latches the peer-alarm class and writes an event. (R508) -/
  | peerAlarm (packet : Packet)
  /-- A collective chunk packet is matched to its bucket, staged, added, forwarded or discarded. (R462) -/
  | collectiveChunk (packet : Packet)
  /-- A withdraw packet fails or closes its bucket and is forwarded once. (R471) -/
  | withdraw (packet : Packet)
  /-- An open bucket's deadline passes, completing it with TIMEOUT and withdrawing it. (R469) -/
  | bucketWatchdog (fn group bucket : Nat)
  /-- A write to COL_GRP_BASE, COL_STAGE or COL_DIG takes effect or is refused while buckets are open. (R473) -/
  | collectiveConfigWrite (fn : Nat) (reg : RegName) (value : W32)
  /-- Writing 1 to a HUB_ALARM_STAT bit clears the latch and its count. (R507) -/
  | alarmClear (word : Nat) (value : W32)
  /-- Clearing a mask bit of a latched class sends one alarm MSI-X message. (R13) -/
  | alarmMaskWrite (word : Nat) (value : W32)
  /-- Unmasking an MSI-X vector sends its pending message. (R13) -/
  | msixVectorUnmask (fn vector : Nat)
  /-- A region reset begins on escalation or a RGN_SHUTTER_CTL.RESET write, isolating and resetting the region. (R487) -/
  | regionReset (region : Nat) (cause : ResetCause)
  /-- At t5 shutters open and work in flight is replayed, withdrawn or rolled back, or the region is retired. (R488) -/
  | regionResetComplete (region : Nat) (checkOk : Bool)
  /-- A leaf restored from its image after a region reset passes its acceptance test or stays EMPTY. (R489) -/
  | leafRestoreDone (cell : Nat) (leaf : Leaf) (check : CloneCheck)
  /-- After a rollback the step log is re-dispatched in order. (R496) -/
  | logRedispatch (fn : Nat)
  /-- An engine waiting over 1 ms for a free record latches the record-wait alarm. (R479) -/
  | recordWaitTimeout (region : Nat)
  /-- An uncorrectable record-store error leads to fail-stop. (R480) -/
  | recordStoreError (region : Nat)
  /-- A FLT_CTL.FAILSTOP write forces fail-stop: buckets withdrawn, alarm forwarded, descriptors completed with DEVICE_FAILED. (R506) -/
  | failStop
  /-- An acquire request for a maintenance token is granted or refused with BUSY_CONFLICT. (R510) -/
  | maintAcquire (activity target : Nat) (holder : Holder)
  /-- A release request frees a maintenance token slot. (R510) -/
  | maintRelease (slot : Nat) (holder : Holder)
  /-- A token held beyond LEASE is released at the end of its current operation and the alarm latched. (R511) -/
  | maintLeaseExpiry (slot : Nat)
  /-- A write to FLT_UNDO, FLT_LOG or FLT_STEP_CTL.EN takes effect or is refused. (R513) -/
  | stepRecordConfigWrite (fn : Nat) (reg : RegName) (value : W32)
  /-- A falling VR_ALERT# sets the stretch fraction to 4/8 within 1 µs. (R520) -/
  | vrAlertFall
  /-- A rising VR_ALERT# starts the HOLD period at 4/8. (R520) -/
  | vrAlertRise
  /-- After HOLD, each 2 µs raises the stretch fraction by one eighth until 8/8. (R520) -/
  | stretchRampStep
  /-- Every 100 ms the hub sets the core voltage targets over AVSBus. (R517) -/
  | avsUpdate (targetA targetB : Nat) (ackA ackB : Bool)
  /-- An unacknowledged AVSBus write is repeated after 1 ms, latching an alarm on a second failure. (R518) -/
  | avsRetry (railB : Bool) (acked : Bool)
  /-- Every 10 ms STATUS_WORD of each regulator is read and faults are reported. (R519) -/
  | pmbusPoll (rail status : Nat)
  /-- VIN_MON below SAG_THR for SAG_US starts an issue hold and latches the sag alarm. (R526) -/
  | inputSag (code : Nat)
  /-- Every engine has stopped at a unit boundary and every memory request is acknowledged. (R524) -/
  | issueHoldSettled
  /-- VIN_MON above SAG_THR + 1 V for 100 µs ends the hold and restarts stopped descriptors. (R526) -/
  | sagRecovery (code : Nat)
  /-- VIN_MON above SURGE_THR latches the surge alarm. (R527) -/
  | inputSurge (code : Nat)
  /-- Every 1 ms the governor lowers or raises its fraction on thermal and current causes. (R528) -/
  | governorEvaluate (hottest mean100 mean1 : Nat)
  /-- An optical engine reading at 85 °C or 95 °C warns or takes the port down. (R532) -/
  | opticalEngineTemperature (port celsius : Nat)
  /-- A trip comparator at 120 °C asserts THERMTRIP# and stops every PLL. (R533) -/
  | thermtrip
  /-- A PLL losing lock starts an issue hold and relock, or stops the hub or link. (R537) -/
  | pllLossOfLock (pll : Pll)
  /-- A PLL settled after relock ends the issue hold. (R537) -/
  | pllRelocked (pll : Pll)
  /-- A PLL not settled within 10 ms of loss leads to fail-stop. (R537) -/
  | pllRelockTimeout (pll : Pll)
  /-- A spread setting written to CLK_SSC takes effect at the next modulation peak. (R539) -/
  | sscApply (network : Bool)
  /-- A rail below its minimum for 2 µs stops the PLLs and host requests until PERST#. (R621) -/
  | railUndervoltage (rail : Nat)
  /-- A converter's timer trigger starts a pass after its delay or counts an overrun. (R542) -/
  | tadcTimerTrigger (conv : Nat)
  /-- The DIV-th VR_SYNC edge triggers a converter pass or counts an overrun. (R542) -/
  | tadcSyncTrigger (conv : Nat) (rising : Bool)
  /-- The trigger delay expires and a pass of the sequence begins. (R542) -/
  | tadcPassStart (conv : Nat)
  /-- A conversion stores its result in TADC_RES_c and the pass moves on. (R541) -/
  | tadcConversionDone (conv : Nat) (value : Int)
  /-- No VR_SYNC edge for 1 ms sets SYNC_LOST and runs passes on the timer. (R543) -/
  | tadcSyncLost (conv : Nat)
  /-- A TADC_URG write aborts the running conversion and converts the requested channel. (R544) -/
  | tadcUrgentRequest (value : W32)
  /-- TADC4 takes over a converter's passes while it measures its offset and gain, or replaces it. (R547) -/
  | tadcBackgroundCalibration (conv : Nat) (offsetOk gainOk : Bool)
  /-- TADC_SCAL START begins the privileged self-calibration on TADC4. (R548) -/
  | selfCalibrationStart
  /-- The self-calibration ends, storing factors or setting FAIL. (R550) -/
  | selfCalibrationEnd (rext tref0 tref1 : Int) (offsets gains : List Nat)
  /-- The STAGE command writes a verified image to the inactive slot. (R593) -/
  | stage (image : List Byte)
  /-- Staging finishes the write and readback and sets STAGED. (R593) -/
  | stageDone (flashOk : Bool)
  /-- The ACTIVATE command loads and broadcasts the staged runtime sections and updates BOOTSEQ. (R594) -/
  | activate (hubDigestOk : Bool)
  /-- The COMMIT command blows anti-rollback fuses up to the running SVN. (R593) -/
  | commit (blown : Nat)
  /-- The REVOKE command blows a key-slot revocation fuse. (R593) -/
  | revoke (readsBack : Bool)
  /-- The UNLOCK command enters vendor debug state on a valid signed token. (R601) -/
  | unlock (token : List Byte) (nonce : List Byte)
  /-- The LOCK command blows DBG_LOCKED. (R593) -/
  | lock (readsBack : Bool)
  /-- The RETIRE command clears every leaf and blows DBG_RETIRED and the identity seed. (R602) -/
  | retire (failed : Option Nat)
  /-- The SPDM GET_VERSION request is answered. (R597) -/
  | getVersion (path : SpdmPath)
  /-- The SPDM GET_CAPABILITIES request is answered. (R597) -/
  | getCapabilities (path : SpdmPath)
  /-- The SPDM NEGOTIATE_ALGORITHMS request is answered. (R597) -/
  | negotiateAlgorithms (path : SpdmPath)
  /-- The SPDM GET_DIGESTS request is answered. (R597) -/
  | getDigests (path : SpdmPath)
  /-- The SPDM GET_CERTIFICATE request returns the slot 0 chain. (R597) -/
  | getCertificate (path : SpdmPath) (slot offset length : Nat)
  /-- The SPDM CHALLENGE request is answered with an identity-key signature. (R597) -/
  | challenge (path : SpdmPath) (slot : Nat) (nonce : List Byte)
  /-- The SPDM GET_MEASUREMENTS request returns signed measurements, or Busy during ACTIVATE. (R598) -/
  | getMeasurements (path : SpdmPath) (operation : Nat) (nonce : List Byte)
  /-- Any other SPDM request is answered with ERROR UnsupportedRequest. (R597) -/
  | spdmUnsupportedRequest (path : SpdmPath) (code : Nat)
  /-- TRST# low or five TCK cycles with TMS high reset the test access port. (R616) -/
  | tapReset
  /-- A JTAG instruction is accepted only if the debug state and PERST# allow it. (R616) -/
  | jtagInstruction (op : JtagOp)
  /-- The activation of a staged image ends: the hub cores switch section, measurements and BOOTSEQ are updated, STAGED clears, dispatch is released and GO reads 0. (R594) -/
  | activationComplete (failed : List Nat)
  /-- Removal of the supplies, VDD_HUB included, loses every volatile state and releases THERMTRIP#, keeping only fuses, flash and the resistive rows. (R515) -/
  | lossOfPower
  /-- An external laser feed falling below +12.0 dBm in service makes every transmit lane it supplies count as failed. (R402) -/
  | laserFeedLow (port feed : Nat) (power : Int)
  /-- A fault in a hub management core leads the VT2 to fail-stop. (R506) -/
  | hubFault
  /-- A host write clearing VF Enable returns every VF ring range and counter to the PF. (R631) -/
  | vfEnableClear
  /-- The 1 ms limit on forwarding one alarm class on one port expires and the occurrences counted meanwhile are sent in an alarm packet. (R508) -/
  | alarmPacketWindowEnd (cls port : Nat)
  /-- The 1 ms wait after an unreachable notice or a missing route expires and the fabric record resends its packet once. (R481) -/
  | unreachableResendDelay (txn : Nat)
  deriving DecidableEq, Repr

end Sys2Proof
end

