-- ==== Sys2Proof/Decode.lean ====
section
/-! DEFINITION. The word decoder the host asks for. The commands of the VT2 are events and host accesses, and no row of the
table of operations gives its command any bits, so no word spells a command. -/

namespace Sys2Proof

/-- The command that a word spells by the table's bits: none, for the table gives its rows no bits. -/
def decodeTableWord (_nbits _w : Nat) : Option Instr := none

end Sys2Proof
end

