-- ==== Sys2Proof/Config.lean ====
section
/-! DEFINITION. The free values: what the spec leaves open, as constants without a body, so that no proof can see what they
are; and the cryptographic functions the spec names without defining them. -/

namespace Sys2Proof.Config

/-- A byte of memory the spec leaves undefined (R173, R351, R357, R471), one for each draw (DESIGN CHOICE, log entry
3). -/
opaque freeByte : Nat → Byte

/-- A number the spec leaves open, one for each draw (DESIGN CHOICE, log entry 3). -/
opaque freeNat : Nat → Nat

/-- What a lane of a vector register, or a scalar register (its number from 32 on), holds before a micro-program writes it, by
ring and index of the descriptor, register and lane (DESIGN CHOICE, log entry 3). -/
opaque vectorReg : Nat → Nat → Nat → Nat → Nat

/-- The error that strikes the device at a device time, if any (DESIGN CHOICE, log entry 71). -/
opaque upsetAt : Nat → Option Upset

/-- The number of a cause of a rollback in its event, which Table 13-7 does not give (DESIGN CHOICE, log entry 3). -/
opaque rollbackCause : Nat → Nat

/-- SHA-512, which the spec names and does not define (DESIGN CHOICE, log entry 4). -/
opaque sha512 : List Byte → List Byte

/-- The Ed25519 public key of a secret key (R595; DESIGN CHOICE, log entry 4). -/
opaque ed25519Public : List Byte → List Byte

/-- The Ed25519 signature of a message under a secret key (R271, R596; DESIGN CHOICE, log entry 4). -/
opaque ed25519Sign : List Byte → List Byte → List Byte

/-- Whether a signature over a message verifies under a public key (R590, R601; DESIGN CHOICE, log entry 4). -/
opaque ed25519Verify : List Byte → List Byte → List Byte → Bool

/-- The content of the boot ROM, whose digest measurement 1 is (R598; DESIGN CHOICE, log entry 4). -/
opaque bootRom : List Byte

/-- The 32-byte nonce an SPDM response carries, which the spec leaves to the responder (R597; DESIGN CHOICE, log entry
4). -/
opaque spdmNonce : Nat → List Byte

/-- The base-layer step and the metal step of the stepping (Table 2-3, R616), which differ from one part to the next. -/
opaque baseStep : Nat
/-- See `baseStep`. -/
opaque metalStep : Nat

/-- Imoton's JEP106 manufacturer identity in the IDCODE register (R616), which the spec does not give. -/
opaque jep106 : Nat

/-- Whether a read of a sector in the class other than that of its check finds an error (R366), by draw and sector (DESIGN
CHOICE, log entry 13). -/
opaque otherClass : Nat → Nat → Bool

/-- The 4 KiB page that the host translates a page to, by draw, function and page (R77; DESIGN CHOICE, log entry 12). -/
opaque atsPage : Nat → Nat → Nat → Nat

/-- BAR0 offset and size of the register window of an entry, in the PF's BAR0 or a VF's, by type and instance, and the block
version (Table 2-4), which the Transom gives and software must not assume. They hold where they keep R44 (DESIGN CHOICE, log
entry 43). -/
opaque windowBase : Bool → Nat → Nat → Nat
/-- See `windowBase`. -/
opaque windowSize : Bool → Nat → Nat → Nat
/-- See `windowBase`. -/
opaque blockVersion : Nat → Nat

/-- The receive power of a lane in 0.01 dBm in a window of 1 ms: port, lane, window (Table 11-13); measured outside the
machine (DESIGN CHOICE, log entry 96). -/
opaque lanePower : Nat → Nat → Nat → Nat
/-- The corrected FEC symbols of a receive lane in a window of 1 ms: port, lane, window (Table 11-13); measured outside
the machine (DESIGN CHOICE, log entry 96). -/
opaque laneErrors : Nat → Nat → Nat → Nat

/-- The level the board drives on a GPIO pin at a device time (R615). -/
opaque gpioLevel : Nat → Nat → Bool

end Sys2Proof.Config
end

