-- ==== Sys2Proof/Machine/Bits.lean ====
section
/-! DEFINITION. Bit fields, sign extension, byte order (R1: little-endian everywhere) and the operations of the sparse
table `Tab`. -/

namespace Sys2Proof.Machine

/-- Bits [lo + w − 1 : lo] of a number. -/
def field (n lo w : Nat) : Nat := (n >>> lo) % 2 ^ w

/-- One bit of a number. -/
def flag (n b : Nat) : Bool := field n b 1 = 1

/-- A number with bits [lo + w − 1 : lo] replaced by the low bits of `v`. -/
def setField (n lo w v : Nat) : Nat := n - (field n lo w) * 2 ^ lo + (v % 2 ^ w) * 2 ^ lo

/-- A Bool as a bit. -/
def bit (b : Bool) : Nat := if b then 1 else 0

/-- The number whose two's-complement code of width `w` is `n`. -/
def signed (w n : Nat) : Int := if n % 2 ^ w < 2 ^ (w - 1) then (n % 2 ^ w : Nat) else ((n % 2 ^ w : Nat) : Int) - (2 ^ w : Nat)

/-- The two's-complement code of width `w` of an integer. -/
def unsigned (w : Nat) (x : Int) : Nat := (x % (2 ^ w : Nat)).toNat

/-- `n` bytes of a number, least significant first (R1). -/
def leBytes : Nat → Nat → List Byte
  | 0, _ => []
  | k + 1, n => BitVec.ofNat 8 n :: leBytes k (n / 256)

/-- The number some bytes spell, least significant first (R1). -/
def leNat : List Byte → Nat
  | [] => 0
  | b :: bs => b.toNat + 256 * leNat bs

/-- The little-endian field of `n` bytes at an offset of a byte list; bytes past its end read as 0. -/
def leAt (bs : List Byte) (off n : Nat) : Nat := leNat ((bs.drop off).take n)

/-- A saturating sum: `a + b`, at most the largest number of `w` bits. -/
def satAdd (w a b : Nat) : Nat := min (a + b) (2 ^ w - 1)

/-- Quotient rounded up. -/
def ceilDiv (a b : Nat) : Nat := (a + b - 1) / b

/-- Bytes padded with zeros, or cut, to a length. -/
def padTo (n : Nat) (bs : List Byte) : List Byte := (bs ++ List.replicate n 0#8).take n

/-- Cut a list into runs of `n` (the last may be shorter); `fuel` bounds the number of runs. -/
def chunksOf {α : Type} (n : Nat) : Nat → List α → List (List α)
  | 0, _ => []
  | _ + 1, [] => []
  | fuel + 1, x :: xs => (x :: xs).take n :: chunksOf n fuel ((x :: xs).drop n)

/-- All runs of `n` elements of a list. -/
def runs {α : Type} (n : Nat) (xs : List α) : List (List α) := chunksOf n xs.length xs

/-- The first index at or after `p`, wrapping once through `n` requesters, that requests (R31). -/
def grantFrom (req : Nat → Bool) (n p : Nat) : Option Nat :=
  ((List.range n).map fun k => (p + k) % n).find? req

/-- The value at a number; `d` where the table lists none. -/
def Tab.get {α : Type} (d : α) : Tab α → Nat → α
  | [], _ => d
  | (k, v) :: t, n => if n = k then v else Tab.get d t n

/-- Insert a pair in order, replacing one of the same number. -/
def Tab.ins {α : Type} : Tab α → Nat → α → Tab α
  | [], n, v => [(n, v)]
  | (k, w) :: t, n, v =>
    if n < k then (n, v) :: (k, w) :: t
    else if n = k then (n, v) :: t
    else (k, w) :: Tab.ins t n v

/-- Drop every pair of a number. -/
def Tab.del {α : Type} (t : Tab α) (n : Nat) : Tab α := t.filter fun p => p.1 ≠ n

/-- Write a value; writing the default `d` removes the entry, so that equal contents are equal data. -/
def Tab.set {α : Type} [DecidableEq α] (d : α) (t : Tab α) (n : Nat) (v : α) : Tab α :=
  if v = d then Tab.del t n else Tab.ins t n v

/-- The canonical form: numbers strictly rising, and no entry equal to its default. -/
def Tab.wf {α : Type} [DecidableEq α] (d : α) : Tab α → Bool
  | [] => true
  | (_, v) :: [] => decide (v ≠ d)
  | (k, v) :: (k', v') :: t => decide (v ≠ d) && decide (k < k') && Tab.wf d ((k', v') :: t)

/-- The value at a number changed by a function. -/
def Tab.upd {α : Type} [DecidableEq α] (d : α) (t : Tab α) (n : Nat) (f : α → α) : Tab α :=
  Tab.set d t n (f (Tab.get d t n))

/-- `n` consecutive values from a number on. -/
def Tab.getN {α : Type} (d : α) (t : Tab α) (n : Nat) : Nat → List α
  | 0 => []
  | k + 1 => Tab.get d t n :: Tab.getN d t (n + 1) k

/-- Write consecutive values from a number on. -/
def Tab.setN {α : Type} [DecidableEq α] (d : α) (t : Tab α) (n : Nat) : List α → Tab α
  | [] => t
  | v :: vs => Tab.setN d (Tab.set d t n v) (n + 1) vs

end Sys2Proof.Machine
end

