-- ==== Sys2Proof/Machine/Float.lean ====
section
/-! DEFINITION. Floating point: exact values, the binary formats of Tables 4-2 and 4-3, rounding to nearest with ties to
even (R132), and the arithmetic that every engine builds on. A number of a format is held as its code. -/

namespace Sys2Proof.Machine

/-- A value before rounding: a NaN, an infinity, or ±m × 2^e. -/
inductive Val where
  | nan
  | inf (neg : Bool)
  | fin (neg : Bool) (m : Nat) (e : Int)
  deriving DecidableEq, Repr

/-- A binary format: widths of its exponent and mantissa, its bias, its largest finite code, its infinity where it has
one, and its canonical NaN where it has one (Tables 4-2 and 4-3). -/
structure Bin where
  eb : Nat
  mb : Nat
  bias : Nat
  top : Nat
  inf : Option Nat
  nan : Option Nat
  deriving DecidableEq, Repr

/-- FP32. -/
def fp32 : Bin := ⟨8, 23, 127, 0x7F7FFFFF, some 0x7F800000, some 0x7FC00000⟩
/-- FP64, the format of reference mode and of norm sums (R163, R304). -/
def fp64 : Bin := ⟨11, 52, 1023, 0x7FEFFFFFFFFFFFFF, some 0x7FF0000000000000, some 0x7FF8000000000000⟩
/-- BF16. -/
def bf16 : Bin := ⟨8, 7, 127, 0x7F7F, some 0x7F80, some 0x7FC0⟩
/-- FP16. -/
def fp16 : Bin := ⟨5, 10, 15, 0x7BFF, some 0x7C00, some 0x7E00⟩
/-- E4M3: no infinity, one NaN code for each sign. -/
def e4m3 : Bin := ⟨4, 3, 7, 0x7E, none, some 0x7F⟩
/-- E5M2. -/
def e5m2 : Bin := ⟨5, 2, 15, 0x7B, some 0x7C, some 0x7E⟩
/-- E3M2: finite codes only. -/
def e3m2 : Bin := ⟨3, 2, 3, 0x1F, none, none⟩
/-- E2M3: finite codes only. -/
def e2m3 : Bin := ⟨2, 3, 1, 0x1F, none, none⟩
/-- E2M1: finite codes only. -/
def e2m1 : Bin := ⟨2, 1, 1, 0x07, none, none⟩

/-- Width of a format in bits. -/
def Bin.width (f : Bin) : Nat := 1 + f.eb + f.mb

/-- Exponent of the last place of the smallest normal number, which subnormals share. -/
def Bin.low (f : Bin) : Int := 1 - (f.bias : Int) - (f.mb : Int)

/-- The value of a code. -/
def Bin.decode (f : Bin) (code : Nat) : Val :=
  let neg := flag code (f.eb + f.mb)
  let mag := code % 2 ^ (f.eb + f.mb)
  if f.inf = some mag then .inf neg
  else if f.top < mag then .nan
  else
    let e := mag / 2 ^ f.mb
    let m := mag % 2 ^ f.mb
    if e = 0 then .fin neg m f.low else .fin neg (m + 2 ^ f.mb) (f.low + ((e : Int) - 1))

/-- The magnitude code nearest to m × 2^e, ties to even, where `more` says that the value lies strictly between m × 2^e
and (m + 1) × 2^e (R132). The code may lie above the largest finite one. -/
def Bin.roundMag (f : Bin) (m : Nat) (e : Int) (more : Bool) : Nat :=
  if m = 0 then 0
  else
    let q := max ((Nat.log2 m : Int) + e - (f.mb : Int)) f.low
    let k := (q - f.low).toNat
    if q ≤ e then m * 2 ^ (e - q).toNat + k * 2 ^ f.mb
    else
      let sh := (q - e).toNat
      let keep := m / 2 ^ sh
      let rest := m % 2 ^ sh
      let half := 2 ^ (sh - 1)
      let up := half < rest ∨ (rest = half ∧ (more ∨ keep % 2 = 1))
      (if up then keep + 1 else keep) + k * 2 ^ f.mb

/-- A magnitude code with its sign. -/
def Bin.withSign (f : Bin) (neg : Bool) (mag : Nat) : Nat := mag + bit neg * 2 ^ (f.eb + f.mb)

/-- The canonical NaN; 0 in a format that has none (such a format is never asked for one). -/
def Bin.canon (f : Bin) : Nat := f.nan.getD 0

/-- A code, with a NaN made canonical (R325). -/
def Bin.canonical (f : Bin) (a : Nat) : Nat := if f.decode a = .nan then f.canon else a

/-- The code of infinity; in a format without one, the canonical NaN (R134). -/
def Bin.infCode (f : Bin) (neg : Bool) : Nat :=
  match f.inf with
  | some c => f.withSign neg c
  | none => f.canon

/-- The rounding of arithmetic: overflow gives an infinity. -/
def Bin.arith (f : Bin) (neg : Bool) (m : Nat) (e : Int) (more : Bool) : Nat :=
  let mag := f.roundMag m e more
  if f.top < mag then f.infCode neg else f.withSign neg mag

/-- An exact value rounded as arithmetic rounds. -/
def Bin.round (f : Bin) : Val → Nat
  | .nan => f.canon
  | .inf neg => f.infCode neg
  | .fin neg m e => f.arith neg m e false

/-- What a conversion made of a value: its code, and how the census counts it. -/
structure Conv where
  code : Nat
  saturated : Bool
  nonfinite : Bool
  deriving DecidableEq, Repr

/-- A conversion into a format (R132–R134): a finite value above the largest finite one becomes that one. -/
def Bin.convert (f : Bin) : Val → Conv
  | .nan => ⟨f.canon, false, true⟩
  | .inf neg => ⟨f.infCode neg, false, true⟩
  | .fin neg m e =>
    let mag := f.roundMag m e false
    if f.top < mag then ⟨f.withSign neg f.top, true, false⟩ else ⟨f.withSign neg mag, false, false⟩

/-! ## Exact operations -/

/-- The integer x with value x × 2^b, of a finite value whose exponent is at least b. -/
def alignTo (b : Int) (neg : Bool) (m : Nat) (e : Int) : Int :=
  let x : Int := (m * 2 ^ (e - b).toNat : Nat)
  if neg then -x else x

/-- An integer x × 2^e as a value; `zneg` is the sign of a zero. -/
def ofInt (zneg : Bool) (x : Int) (e : Int) : Val :=
  if x = 0 then .fin zneg 0 e else .fin (decide (x < 0)) x.natAbs e

/-- The negative of a value. -/
def Val.neg : Val → Val
  | .nan => .nan
  | .inf n => .inf (!n)
  | .fin n m e => .fin (!n) m e

/-- The magnitude of a value. -/
def Val.abs : Val → Val
  | .nan => .nan
  | .inf _ => .inf false
  | .fin _ m e => .fin false m e

/-- Whether a value is ±0. -/
def Val.isZero : Val → Bool
  | .fin _ m _ => m == 0
  | _ => false

/-- Whether a value is finite. -/
def Val.isFin : Val → Bool
  | .fin _ _ _ => true
  | _ => false

/-- The exact sum. Two zeros of unlike sign, and a sum that cancels, give +0. -/
def Val.add : Val → Val → Val
  | .nan, _ => .nan
  | _, .nan => .nan
  | .inf a, .inf b => if a = b then .inf a else .nan
  | .inf a, _ => .inf a
  | _, .inf b => .inf b
  | .fin na ma ea, .fin nb mb eb =>
    let b := min ea eb
    ofInt (na && nb && ma == 0 && mb == 0) (alignTo b na ma ea + alignTo b nb mb eb) b

/-- The exact product. -/
def Val.mul : Val → Val → Val
  | .nan, _ => .nan
  | _, .nan => .nan
  | .inf a, .inf b => .inf (a != b)
  | .inf a, .fin n m _ => if m = 0 then .nan else .inf (a != n)
  | .fin n m _, .inf b => if m = 0 then .nan else .inf (n != b)
  | .fin na ma ea, .fin nb mb eb => .fin (na != nb) (ma * mb) (ea + eb)

/-- The exact value times a power of two. -/
def Val.scale (k : Int) : Val → Val
  | .fin n m e => .fin n m (e + k)
  | v => v

/-- The integer that orders values: −0 below +0 is left to the caller. -/
def Val.cmp : Val → Val → Option Ordering
  | .nan, _ => none
  | _, .nan => none
  | .inf a, .inf b => some (if a = b then .eq else if a then .lt else .gt)
  | .inf a, _ => some (if a then .lt else .gt)
  | _, .inf b => some (if b then .gt else .lt)
  | .fin na ma ea, .fin nb mb eb =>
    let b := min ea eb
    let x := alignTo b na ma ea
    let y := alignTo b nb mb eb
    some (if x < y then .lt else if x = y then .eq else .gt)

/-- x < y, false when either is a NaN. -/
def Val.lt (x y : Val) : Bool := x.cmp y == some .lt

/-- x ≤ y, false when either is a NaN. -/
def Val.le (x y : Val) : Bool := x.cmp y == some .lt || x.cmp y == some .eq

/-- The quotient floor(a ÷ b × 2^k) of magnitudes with its remainder flag, used for one correctly rounded division. -/
def divMag (ma : Nat) (ea : Int) (mb : Nat) (eb : Int) (bits : Nat) : Nat × Int × Bool :=
  let k := bits + Nat.log2 mb + 1
  let n := ma * 2 ^ k
  (n / mb, ea - eb - (k : Int), n % mb != 0)

/-- The floor of a square root, by bisection from the top bit: `b` counts the bits still to settle. -/
def isqrtAux (n : Nat) : Nat → Nat → Nat
  | 0, r => r
  | b + 1, r =>
    let t := r + 2 ^ b
    isqrtAux n b (if t * t ≤ n then t else r)

/-- The floor of the square root of a natural number. -/
def isqrt (n : Nat) : Nat := isqrtAux n (Nat.log2 n / 2 + 1) 0

/-- floor(sqrt(m × 2^e)) with at least `bits` bits, its exponent, and whether a remainder is left. -/
def sqrtMag (m : Nat) (e : Int) (bits : Nat) : Nat × Int × Bool :=
  let k0 := 2 * bits
  let k := if (e - (k0 : Int)) % 2 = 0 then k0 else k0 + 1
  let n := m * 2 ^ k
  let r := isqrt n
  (r, (e - (k : Int)) / 2, r * r != n)

/-! ## Arithmetic on codes of one format -/

/-- The sum, rounded once. -/
def Bin.add (f : Bin) (a b : Nat) : Nat := f.round ((f.decode a).add (f.decode b))

/-- The difference, rounded once. -/
def Bin.sub (f : Bin) (a b : Nat) : Nat := f.round ((f.decode a).add (f.decode b).neg)

/-- The product, rounded once. -/
def Bin.mul (f : Bin) (a b : Nat) : Nat := f.round ((f.decode a).mul (f.decode b))

/-- a × b + c, rounded once. -/
def Bin.fma (f : Bin) (a b c : Nat) : Nat := f.round (((f.decode a).mul (f.decode b)).add (f.decode c))

/-- The quotient of values, correctly rounded: x ÷ 0 is an infinity, 0 ÷ 0 and ∞ ÷ ∞ are NaN. -/
def Bin.divVal (f : Bin) : Val → Val → Nat
  | .nan, _ => f.canon
  | _, .nan => f.canon
  | .inf _, .inf _ => f.canon
  | .inf a, .fin n _ _ => f.infCode (a != n)
  | .fin n _ _, .inf b => f.withSign (n != b) 0
  | .fin na ma ea, .fin nb mb eb =>
    if mb = 0 then (if ma = 0 then f.canon else f.infCode (na != nb))
    else
      let r := divMag ma ea mb eb (f.mb + 4)
      f.arith (na != nb) r.1 r.2.1 r.2.2

/-- The quotient of codes. -/
def Bin.div (f : Bin) (a b : Nat) : Nat := f.divVal (f.decode a) (f.decode b)

/-- The square root, correctly rounded; a negative operand gives NaN, −0 gives −0. -/
def Bin.sqrt (f : Bin) (a : Nat) : Nat :=
  match f.decode a with
  | .nan => f.canon
  | .inf n => if n then f.canon else f.infCode false
  | .fin n m e =>
    if m = 0 then f.withSign n 0
    else if n then f.canon
    else
      let r := sqrtMag m e (f.mb + 4)
      f.arith false r.1 r.2.1 r.2.2

/-- The reciprocal square root, correctly rounded: ±0 gives an infinity of its sign, a negative operand NaN. -/
def Bin.rsqrt (f : Bin) (a : Nat) : Nat :=
  match f.decode a with
  | .nan => f.canon
  | .inf n => if n then f.canon else f.withSign false 0
  | .fin n m e =>
    if m = 0 then f.infCode n
    else if n then f.canon
    else
      -- sqrt(2^k ÷ m) × 2^(−(k + e) ÷ 2), with k + e even
      let k0 := 2 * (f.mb + 8) + Nat.log2 m
      let k := if ((k0 : Int) + e) % 2 = 0 then k0 else k0 + 1
      let r := isqrt (2 ^ k / m)
      f.arith false r (-(((k : Int) + e) / 2)) (r * r * m != 2 ^ k)

/-- The reciprocal, correctly rounded. -/
def Bin.rcp (f : Bin) (a : Nat) : Nat := f.divVal (.fin false 1 0) (f.decode a)

/-- The smaller of two codes: a NaN wins, and −0 lies below +0 (R324, R360). -/
def Bin.minOf (f : Bin) (a b : Nat) : Nat :=
  let x := f.decode a
  let y := f.decode b
  if x = .nan ∨ y = .nan then f.canon
  else if x.isZero && y.isZero then (if flag a (f.eb + f.mb) then a else b)
  else if x.lt y then a else b

/-- The larger of two codes: a NaN wins, and −0 lies below +0. -/
def Bin.maxOf (f : Bin) (a b : Nat) : Nat :=
  let x := f.decode a
  let y := f.decode b
  if x = .nan ∨ y = .nan then f.canon
  else if x.isZero && y.isZero then (if flag a (f.eb + f.mb) then b else a)
  else if x.lt y then b else a

/-- The magnitude of a code. -/
def Bin.mag (f : Bin) (a : Nat) : Nat := a % 2 ^ (f.eb + f.mb)

/-- A code with its sign flipped; a NaN becomes the canonical one. -/
def Bin.negate (f : Bin) (a : Nat) : Nat :=
  if f.decode a = .nan then f.canon else f.withSign (!flag a (f.eb + f.mb)) (f.mag a)

/-! ## Powers and logarithms of two, by fixed-point arithmetic of 192 bits -/

/-- Fraction bits of the fixed-point work. -/
def fixBits : Nat := 192

/-- The square-root chain of 2: 2^(2^−1), 2^(2^−2), …, as fixed-point numbers. -/
def rootChain : Nat → Nat → List Nat
  | 0, _ => []
  | k + 1, x =>
    let r := isqrt (x * 2 ^ fixBits)
    r :: rootChain k r

/-- 2^x for a fraction 0 ≤ x < 1 given by its bits from 2^−1 down: the product of the roots its bits name. -/
def exp2Frac (bits : List Bool) (roots : List Nat) : Nat :=
  (bits.zip roots).foldl (fun acc p => if p.1 then acc * p.2 / 2 ^ fixBits else acc) (2 ^ fixBits)

/-- The bits of a fixed-point fraction, most significant first. -/
def fracBits (w : Nat) (x : Nat) : List Bool := (List.range w).map fun k => flag x (w - 1 - k)

/-- 2^x, correctly rounded; 2^−∞ is +0 and 2^∞ is ∞. The fraction of an FP32 operand has at most 149 bits. -/
def Bin.exp2 (f : Bin) (a : Nat) : Nat :=
  match f.decode a with
  | .nan => f.canon
  | .inf n => if n then 0 else f.infCode false
  | .fin n m e =>
    if m = 0 then f.withSign false (f.bias * 2 ^ f.mb)
    else
      -- x as an integer over 2^160; exact for every FP32 operand of magnitude at least 2^−160.
      let fx : Int := let y : Int := ((m * 2 ^ (e + 160).toNat : Nat) : Int); if n then -y else y
      let whole : Int := fx / (2 ^ 160 : Nat)
      let part : Nat := (fx % (2 ^ 160 : Nat)).toNat
      if 2000 < whole then f.infCode false
      else if whole < -2000 then 0
      else
        let r := exp2Frac (fracBits 160 part) (rootChain 160 (2 * 2 ^ fixBits))
        f.arith false r (whole - (fixBits : Int)) (part != 0)

/-- Bits of log₂ of a fixed-point number in [1, 2), most significant first, by repeated squaring. -/
def log2Bits : Nat → Nat → Nat → Nat
  | 0, _, acc => acc
  | k + 1, y, acc =>
    let z := y * y / 2 ^ fixBits
    if 2 * 2 ^ fixBits ≤ z then log2Bits k (z / 2) (2 * acc + 1) else log2Bits k z (2 * acc)

/-- log₂ x, correctly rounded: of ±0 it is −∞, of a negative number NaN. -/
def Bin.log2 (f : Bin) (a : Nat) : Nat :=
  match f.decode a with
  | .nan => f.canon
  | .inf n => if n then f.canon else f.infCode false
  | .fin n m e =>
    if m = 0 then f.infCode true
    else if n then f.canon
    else
      let l := Nat.log2 m
      let whole : Int := (l : Int) + e
      if m = 2 ^ l then f.round (ofInt false whole 0)
      else
        let y := m * 2 ^ fixBits / 2 ^ l
        let part := log2Bits 128 y 0
        -- whole + part ÷ 2^128, with more bits below
        let x : Int := whole * (2 ^ 128 : Nat) + (part : Nat)
        if 0 ≤ x then f.arith false x.natAbs (-128) true
        else f.arith true (x.natAbs - 1) (-128) true

end Sys2Proof.Machine
end

