-- ==== Sys2Proof/Machine/Formats.lean ====
section
/-! DEFINITION. The number formats of the spec: format codes and their uses (Table 4-1), decoding and encoding of elements
and of block-scaled tensors (R132–R155), and the norm of a write (R163). -/

namespace Sys2Proof.Machine

/-- The format codes of Table 4-1. -/
def formatCodes : List Nat := [0x00, 0x01, 0x02, 0x03, 0x04, 0x10, 0x11, 0x12, 0x13, 0x14, 0x15, 0x20, 0x21, 0x22, 0x23, 0x24]

/-- What a format is used for: the five use columns of Table 4-1. -/
inductive Use where
  | storage | dmu | cell | wire | update
  deriving DecidableEq, Repr

/-- Whether Table 4-1 marks a format with a use. -/
def fmtUse (u : Use) (c : Nat) : Bool :=
  match u with
  | .storage => decide (c ∈ formatCodes ∧ c ≠ 0x24)
  | .dmu => decide (c ∈ [0x00, 0x01, 0x03, 0x04, 0x10, 0x11, 0x12, 0x13, 0x14, 0x20])
  | .cell => decide (c ∈ [0x15, 0x20, 0x21, 0x22, 0x23])
  | .wire => decide (c ∈ [0x01, 0x15, 0x24])
  | .update => decide (c ∈ [0x00, 0x01, 0x10, 0x11, 0x12, 0x13, 0x14, 0x15, 0x20, 0x21, 0x22, 0x23])

/-- Codes 0x10 to 0x24 are block-scaled. -/
def fmtScaled (c : Nat) : Bool := decide (0x10 ≤ c)

/-- The MX formats, block size 32 with an E8M0 scale. -/
def fmtMx (c : Nat) : Bool := decide (0x10 ≤ c ∧ c ≤ 0x15)

/-- Whether LOG2_BLOCK is allowed for a format (Table 4-6). -/
def fmtBlockOk (c log2Block : Nat) : Bool :=
  if c < 0x10 then log2Block == 0
  else if c ≤ 0x15 then log2Block == 5
  else if c = 0x24 then log2Block == 5
  else decide (4 ≤ log2Block ∧ log2Block ≤ 7)

/-- R130 for a format byte of a memory operand: a known code, H set for a block-scaled code, and an allowed use. -/
def fmtByteOk (u : Use) (b : Nat) : Bool :=
  let c := b % 128
  decide (c ∈ formatCodes) && (!fmtScaled c || flag b 7) && fmtUse u c

/-- Bits of an element; VQT, five elements to a byte, has none of its own (Table 4-1). -/
def fmtWidth (c : Nat) : Nat :=
  if c = 0x00 then 32 else if c = 0x01 ∨ c = 0x02 then 16
  else if c = 0x12 ∨ c = 0x13 then 6
  else if c = 0x14 ∨ c = 0x20 then 4
  else if c = 0x21 then 3
  else if c = 0x22 then 2
  else 8

/-- Bytes of an element area of `n` elements (R139, R142, R143). -/
def areaBytes (c n : Nat) : Nat := if c = 0x23 then ceilDiv n 5 else ceilDiv (n * fmtWidth c) 8

/-- Elements of a tensor with the padding of its last block (R147). -/
def padded (log2Block n : Nat) : Nat := ceilDiv n (2 ^ log2Block) * 2 ^ log2Block

/-- Offset of the element area from the header: 64, or past the block scales (R147). -/
def areaOffset (c log2Block n : Nat) : Nat :=
  if fmtScaled c then 64 + 64 * ceilDiv (ceilDiv n (2 ^ log2Block)) 64 else 64

/-- The binary format of an element: Table 4-2 or, for an MX format, Table 4-3. -/
def fmtBin (c : Nat) : Option Bin :=
  if c = 0x00 then some fp32 else if c = 0x01 then some bf16 else if c = 0x02 then some fp16
  else if c = 0x03 ∨ c = 0x10 then some e4m3
  else if c = 0x04 ∨ c = 0x11 then some e5m2
  else if c = 0x12 then some e3m2
  else if c = 0x13 then some e2m3
  else if c = 0x14 then some e2m1
  else none

/-- Largest written magnitude E of a VQ format (Table 4-5). -/
def vqMax (c : Nat) : Nat :=
  if c = 0x20 then 7 else if c = 0x21 then 3 else if c = 0x24 then 127 else 1

/-- emax of an MX element type (Table 4-3). -/
def mxEmax (c : Nat) : Nat :=
  if c = 0x10 then 8 else if c = 0x11 then 15 else if c = 0x12 then 4
  else if c = 0x13 then 2 else if c = 0x14 then 2 else 0

/-! ## Decoding -/

/-- The codes of an element area's elements, `n` of them (R139, R142, R143). -/
def areaCodes (c n : Nat) (bytes : List Byte) : List Nat :=
  if c = 0x23 then
    ((bytes.flatMap fun b =>
      let v := b.toNat
      if v < 243 then [v % 3, v / 3 % 3, v / 9 % 3, v / 27 % 3, v / 81 % 3] else [1, 1, 1, 1, 1])).take n
  else
    let w := fmtWidth c
    let area := leNat bytes
    (List.range n).map fun i => field area (w * i) w

/-- The integer of a VQ element code (Table 4-5). -/
def vqInt (c code : Nat) : Int := if c = 0x23 then (code : Int) - 1 else signed (fmtWidth c) code

/-- The value of an E5M3 scale byte (R140): 0xFF is non-finite. -/
def e5m3 (code : Nat) : Val :=
  if code = 0xFF then .nan
  else if code < 8 then .fin false 0 0
  else .fin false (8 + code % 8) ((code / 8 : Nat) - 34)

/-- The value of an E8M0 scale byte. -/
def e8m0 (code : Nat) : Val := if code = 0xFF then .nan else .fin false 1 ((code : Int) - 127)

/-- The value of one element with its scale byte and tensor scale. -/
def decodeElem (c scale tscale code : Nat) : Val :=
  if fmtScaled c then
    if fmtMx c then
      match fmtBin c with
      | some f => (e8m0 scale).mul (f.decode code)
      | none => (e8m0 scale).mul (ofInt false (signed 8 code) (-6))
    else
      match e5m3 scale with
      | .nan => .nan
      | s => if s.isZero then .fin false 0 0 else ((fp32.decode tscale).mul s).mul (ofInt false (vqInt c code) 0)
  else
    match fmtBin c with
    | some f => f.decode code
    | none => .nan

/-- A value converted into FP32 (R132–R134; decoded values of Table 4-1 are exact in FP32 for a power-of-two T, up to its range).
-/
def toFp32 (v : Val) : Nat := (fp32.convert v).code

/-! ## Encoding -/

/-- What the census and the group learn of a write (Table 4-7). -/
structure Census where
  zeros : Nat := 0
  saturated : Nat := 0
  nonfinite : Nat := 0
  deriving DecidableEq, Repr

/-- The sum of two censuses. -/
def Census.plus (a b : Census) : Census := ⟨a.zeros + b.zeros, a.saturated + b.saturated, a.nonfinite + b.nonfinite⟩

/-- A block encoded: its scale byte, its element codes, its census, and whether it did not fit. -/
structure BlockEnc where
  scale : Nat
  codes : List Nat
  census : Census
  overflow : Bool := false
  deriving DecidableEq, Repr

/-- Whether a code is finite. -/
def Bin.finite (f : Bin) (x : Nat) : Bool := (f.decode x).isFin

/-- Whether a code is ±0. -/
def Bin.isZero (f : Bin) (x : Nat) : Bool := f.mag x == 0

/-- The sign bit of a code. -/
def Bin.sign (f : Bin) (x : Nat) : Bool := flag x (f.eb + f.mb)

/-- The code of the largest finite magnitude of some codes (0 where there is none). -/
def Bin.amax (f : Bin) (xs : List Nat) : Nat := xs.foldl (fun a x => if f.finite x then max a (f.mag x) else a) 0

/-- num ÷ den rounded to nearest, ties to even. -/
def rneDiv (num den : Nat) : Nat :=
  let q := num / den
  let r := num % den
  if den < 2 * r ∨ (2 * r = den ∧ q % 2 = 1) then q + 1 else q

/-- The code of width `w` of a signed integer. -/
def signedCode (w : Nat) (neg : Bool) (mag : Nat) : Nat := unsigned w (if neg then -(mag : Int) else (mag : Int))

/-- Mantissa and exponent of a finite code's magnitude. -/
def Bin.parts (f : Bin) (x : Nat) : Nat × Int :=
  match f.decode x with
  | .fin _ m e => (m, e)
  | _ => (0, 0)

/-- num × 2^x ÷ den as a fraction of natural numbers. -/
def frac2 (num : Nat) (x : Int) (den : Nat) : Nat × Nat := (num * 2 ^ x.toNat, den * 2 ^ (-x).toNat)

/-- The block_scale procedure of R152 with T = 2^k: none for OVERFLOW. -/
def blockScale (src : Bin) (amax : Nat) (k : Int) (eMax h : Nat) : Option Nat :=
  if src.mag amax = 0 then some 0
  else
    let m := src.parts amax
    let q := frac2 m.1 (m.2 + (h : Int) - k) eMax
    if 7 * q.2 < 4 * q.1 then none
    else if q.1 * 2 ^ 30 ≤ q.2 then some 8
    else
      let e : Int := (Nat.log2 (q.1 * 2 ^ 31 / q.2) : Int) - 31
      let r := frac2 q.1 (3 - e) q.2
      let m3 := ceilDiv r.1 r.2 - 8
      some (if m3 = 8 then ((e + 32).toNat) * 8 else (e + 31).toNat * 8 + m3)

/-- The exponent k of T = 2^k for h_max = m × 2^e (R151): the smallest with 1.75 × E × 2^k ≥ h_max × 2^g, clamped to
−126…127; 0 for h_max 0. -/
def tensorScaleOf (m : Nat) (e : Int) (eMax g : Nat) : Int :=
  if m = 0 then 0
  else
    let q := frac2 (4 * m) (e + (g : Int)) (7 * eMax)
    let l : Int := (Nat.log2 q.1 : Int) - (Nat.log2 q.2 : Int)
    let ok (k : Int) : Bool := let p := frac2 q.2 k 1; decide (q.1 * p.2 ≤ p.1)
    let k := if ok (l - 1) then l - 1 else if ok l then l else l + 1
    max (-126) (min 127 k)

/-- `tensorScaleOf` for an FP32 code. -/
def tensorScaleExp (hmax eMax g : Nat) : Int := tensorScaleOf (fp32.parts hmax).1 (fp32.parts hmax).2 eMax g

/-- The FP32 code of 2^k for k in −126…127. -/
def pow2code (k : Int) : Nat := (k + 127).toNat * 2 ^ 23

/-- One element of a VQ block: x ÷ (T × s) to nearest, ties to even (R153). -/
def vqElem (src : Bin) (c : Nat) (k : Int) (scale x : Nat) : Nat :=
  let m := src.parts x
  let q := frac2 m.1 (m.2 - k - ((scale / 8 : Nat) : Int) + 34) (8 + scale % 8)
  let r := rneDiv q.1 q.2
  if c = 0x23 then (if src.sign x then 1 - r else 1 + r) else signedCode (fmtWidth c) (src.sign x) r

/-- The zero element's code. -/
def vqZero (c : Nat) : Nat := if c = 0x23 then 1 else 0

/-- A VQ block written with T = 2^k and headroom h (R145, R152–R154). The zeros of a block that does not fit are those of its
wide copy. -/
def vqBlock (src : Bin) (c : Nat) (k : Int) (h : Nat) (xs : List Nat) : BlockEnc :=
  let hh := if c = 0x22 ∨ c = 0x23 then 0 else h
  if xs.any fun x => !src.finite x then
    ⟨0xFF, xs.map fun _ => vqZero c, { nonfinite := xs.length }, false⟩
  else
    match blockScale src (src.amax xs) k (vqMax c) hh with
    | none => ⟨0, xs.map fun _ => vqZero c, { saturated := xs.length }, true⟩
    | some 0 => ⟨0, xs.map fun _ => vqZero c, { zeros := xs.length }, false⟩
    | some s =>
      let codes := xs.map (vqElem src c k s)
      ⟨s, codes, { zeros := (codes.filter (· == vqZero c)).length }, false⟩

/-- One element of an MXINT8 block: x ÷ 2^X in units of 2^−6, to nearest, from −127 to 127 (R138). -/
def mxInt8Elem (src : Bin) (X : Int) (x : Nat) : Conv :=
  let m := src.parts x
  let q := frac2 m.1 (m.2 - X + 6) 1
  let r := rneDiv q.1 q.2
  ⟨signedCode 8 (src.sign x) (min r 127), decide (127 < r), false⟩

/-- An MX block written with headroom h (R136–R138). -/
def mxBlock (src : Bin) (c h : Nat) (xs : List Nat) : BlockEnc :=
  if xs.any fun x => !src.finite x then ⟨0xFF, xs.map fun _ => 0, { nonfinite := xs.length }, false⟩
  else
    let a := src.amax xs
    if a = 0 then ⟨0, xs.map fun _ => 0, { zeros := xs.length }, false⟩
    else
      let m := src.parts a
      let X : Int := max (-127) (min 127 ((Nat.log2 m.1 : Int) + m.2 - (mxEmax c : Int) + (h : Int)))
      let conv (x : Nat) : Conv :=
        match fmtBin c with
        | some f => f.convert ((src.decode x).scale (-X))
        | none => mxInt8Elem src X x
      let cs := xs.map conv
      let zero (code : Nat) : Bool := match fmtBin c with | some f => f.mag code == 0 | none => code == 0
      ⟨(X + 127).toNat, cs.map (·.code),
        { zeros := (cs.filter fun v => zero v.code).length, saturated := (cs.filter (·.saturated)).length }, false⟩

/-- Elements converted to a format of Table 4-2, with their census (R132–R134). -/
def convertAll (src f : Bin) (xs : List Nat) : List Nat × Census :=
  let cs := xs.map fun x => f.convert (src.decode x)
  (cs.map (·.code), { zeros := (cs.filter fun v => f.mag v.code == 0).length,
                      saturated := (cs.filter (·.saturated)).length,
                      nonfinite := (cs.filter (·.nonfinite)).length })

/-- Element codes packed into the bytes of an element area (R139, R142, R143). -/
def packArea (c : Nat) (codes : List Nat) : List Byte :=
  if c = 0x23 then
    (runs 5 codes).map fun ts =>
      BitVec.ofNat 8 ((ts ++ [1, 1, 1, 1, 1]).take 5 |>.foldr (fun t acc => acc * 3 + t) 0)
  else
    let w := fmtWidth c
    leBytes (areaBytes c codes.length) (codes.foldr (fun x acc => acc * 2 ^ w + x) 0)

/-- A tensor encoded for its narrow area: scale bytes, element area, census and whether any block did not fit. -/
structure TensorEnc where
  scales : List Byte
  area : List Byte
  census : Census
  overflow : Bool
  blocks : List BlockEnc
  deriving DecidableEq, Repr

/-- A tensor encoded with T = 2^k. -/
def encodeTensor (src : Bin) (c log2Block h : Nat) (k : Int) (xs : List Nat) : TensorEnc :=
  if fmtScaled c then
    let bl := (runs (2 ^ log2Block) xs).map fun b => if fmtMx c then mxBlock src c h b else vqBlock src c k h b
    let fill := List.replicate (padded log2Block xs.length - xs.length) (if fmtMx c then 0 else vqZero c)
    ⟨bl.map fun b => BitVec.ofNat 8 b.scale, packArea c (bl.flatMap (·.codes) ++ fill),
      bl.foldl (fun a b => a.plus b.census) {}, bl.any (·.overflow), bl⟩
  else
    match fmtBin c with
    | some f =>
      let r := convertAll src f xs
      ⟨[], packArea c r.1, r.2, false, []⟩
    | none => ⟨[], [], {}, false, []⟩

/-- The values of a block as its narrow encoding decodes them. -/
def blockValues (c : Nat) (k : Int) (b : BlockEnc) : List Nat :=
  b.codes.map fun q => toFp32 (decodeElem c b.scale (pow2code k) q)

/-- The contents of a wide copy (R173): the decoded values of a block that fits, the values of one that does not. -/
def wideValues (src : Bin) (c : Nat) (k : Int) (blocks : List BlockEnc) (xs : List (List Nat)) : List Val :=
  ((blocks.zip xs).map fun p =>
    if p.1.overflow then p.2.map src.decode else (blockValues c k p.1).map fp32.decode).flatten

/-- The tensor's exact values decoded from its scale bytes and element area. -/
def decodeTensor (c log2Block n tscale : Nat) (scales area : List Byte) : List Val :=
  let codes := areaCodes c n area
  if fmtScaled c then
    (((runs (2 ^ log2Block) codes).zip scales).map fun p =>
      p.1.map fun q => decodeElem c p.2.toNat tscale q).flatten
  else codes.map fun q => decodeElem c 0 0 q

/-! ## Norms -/

/-- The sum of squares of one run, in FP32, by fused multiply-adds from +0 (R163). -/
def runSquares (xs : List Nat) : Nat := xs.foldl (fun acc x => fp32.fma x x acc) 0

/-- The L2 norm of a write (R163): run sums of 4,096 in FP32, added in FP64, square root, rounded to FP32. -/
def norm32 (xs : List Nat) : Nat :=
  let sums := (runs 4096 xs).map runSquares
  let tot := sums.foldl (fun acc x => fp64.add acc (fp64.round (fp32.decode x))) 0
  match fp64.decode tot with
  | .nan => fp32.canon
  | .inf _ => fp32.infCode false
  | .fin _ m e =>
    if m = 0 then 0
    else
      let r := sqrtMag m e 30
      fp32.arith false r.1 r.2.1 r.2.2

/-- The values of a history that count (R151): the `count` slots filled last, passing over NaN, infinite and negative
ones; the largest of them, 0 where none remains. -/
def historyMax (slot count : Nat) (hist : List Nat) : Nat :=
  (List.range (min count 16)).foldl (fun a i =>
    let v := hist.getD ((slot + 15 - i) % 16) 0
    if fp32.finite v && !fp32.sign v then max a v else a) 0

end Sys2Proof.Machine
end

