-- ==== Sys2Proof/Machine/Registers.lean ====
section
/-! DEFINITION. The register maps of the spec: for each register its fields, their access codes (Table 0-2), their reset
values and what a write outside a field's range stores. Bits of no field are reserved: they read 0 and ignore writes (R2). -/

namespace Sys2Proof.Machine

/-- The access codes of Table 0-2 (R3). -/
inductive AccCode where
  | ro | rw | w1c | w1s | rc
  deriving DecidableEq, Repr

/-- What a write of a field stores: the value itself, or the nearer limit of a range the spec names. -/
inductive Fix where
  | keep
  | range (lo hi : Nat)
  deriving DecidableEq, Repr

/-- One field of a register map. -/
structure Fld where
  lo : Nat
  w : Nat
  acc : AccCode
  rst : Nat := 0
  fix : Fix := .keep
  deriving DecidableEq, Repr

/-- The value a write stores in a field (for a range: the nearer limit). -/
def Fix.apply : Fix → Nat → Nat
  | .keep, v => v
  | .range lo hi, v => min (max v lo) hi

/-- A read-only field. -/
def ro (lo w : Nat) (rst : Nat := 0) : Fld := ⟨lo, w, .ro, rst, .keep⟩
/-- A read-write field. -/
def rw (lo w : Nat) (rst : Nat := 0) (fix : Fix := .keep) : Fld := ⟨lo, w, .rw, rst, fix⟩
/-- A field cleared by writing ones. -/
def w1c (lo w : Nat) : Fld := ⟨lo, w, .w1c, 0, .keep⟩
/-- A field set by writing ones. -/
def w1s (lo w : Nat) : Fld := ⟨lo, w, .w1s, 0, .keep⟩
/-- A field that a read clears. -/
def rc (lo w : Nat) : Fld := ⟨lo, w, .rc, 0, .keep⟩

/-- The reset OSR, period and sequence of each telemetry converter (Table 14-7, R546). -/
def tadcResetOsr (n : Nat) : Nat := if n = 0 then 0 else 2
/-- See `tadcResetOsr`. TADC4 has no trigger; its period field is the model's choice 1 (DESIGN CHOICE, log entry 7). -/
def tadcResetPeriod (n : Nat) : Nat :=
  if n = 0 then 200 else if n = 1 then 10000 else if n = 2 then 10000 else if n = 3 then 20000 else 1
/-- See `tadcResetOsr`. -/
def tadcResetSeq (n : Nat) : List Nat :=
  if n = 0 then [0, 1, 2, 3]
  else if n = 1 then [8, 9, 10, 11, 12, 13, 14, 15, 16, 17, 18, 19]
  else if n = 2 then [20, 21, 22, 23, 24, 25, 26, 27, 28, 29, 30, 31, 32, 33, 34, 35]
  else if n = 3 then [4, 5, 6, 7, 36, 37, 38, 39, 40, 41, 42, 43]
  else []

/-- The two RW fields of one sequence entry of TADC_SEQ_n_k (Table 14-13). -/
def tadcSeqFlds (n k j : Nat) : List Fld :=
  match (tadcResetSeq n)[4 * k + j]? with
  | some c => [rw (8 * j) 6 c, rw (8 * j + 6) 1 1]
  | none => [rw (8 * j) 6, rw (8 * j + 6) 1]

/-- Indices of HUB_CLKEN_n that the model's entries name: blocks 0–127 at 32 to 159 (DEDUCED, log entry 6). -/
def clkenNamed (n : Nat) : Bool := decide (1 ≤ n ∧ n ≤ 4)

/-- The fields of each register (the tables of each chapter) (DESIGN CHOICE, log entry 71). -/
def regFields (r : RegId) : List Fld :=
  match r.name with
  | .hubBar4BaseLo => [rw 28 4]
  | .hubBar4BaseHi => [rw 0 8]
  | .hubClken => if r.i = 0 then [ro 0 1 1, ro 1 1 1, rw 2 5 31, rw 7 1, rw 8 1, rw 9 1, rw 10 1]
                 else if clkenNamed r.i then [rw 0 32] else []
  | .hubClkst => if r.i = 0 then [ro 0 11 0x7F] else [ro 0 32]
  | .hubMmuRootLo => [rw 0 1, rw 16 16]
  | .hubMmuRootHi => [rw 0 8]
  | .hubMmuInvCtl => [w1s 0 1, rw 1 1, rw 8 5, rw 16 16]
  | .hubMmuInvAddrLo => [rw 16 16]
  | .hubMmuInvAddrHi => [rw 0 20]
  | .hubVfRing => [rw 0 8, rw 8 5]
  | .matrixRow => [ro 0 6]
  | .hubRctBaseLo => [rw 12 20]
  | .hubRctBaseHi => [rw 0 32]
  | .hubRgrpCfg => [rw 0 8 1, rw 8 5]
  | .hubRingCmd => [rw 0 16, rw 16 3, ro 30 1, w1s 31 1]
  | .hubRingStat => [ro 0 2, ro 8 9]
  | .hubRingHead => [ro 0 32]
  | .numGrpBaseLo => [rw 0 1, rw 12 20]
  | .numGrpBaseHi => [rw 0 20]
  | .numStepCfg => [rw 0 16]
  | .numStep => [ro 0 32]
  | .numZsCtl => [rw 0 13 0x100 (.range 16 4096), ro 16 13]
  | .numZsStat => [w1c 0 1, ro 1 1, ro 16 12]
  | .numNormStat => [ro 0 12, rc 16 16]
  | .numOasisBaseLo => [rw 21 11]
  | .numOasisBaseHi => [rw 0 8 0xFE]
  | .numOasisSize => [rw 0 16 0x80]
  | .numOasisQuota => [rw 0 16 (if r.i = 0 then 0xFFFF else 0)]
  | .numOasisUsed => [ro 0 24]
  | .cellLeafStat => [ro 0 3, ro 4 3, ro 8 1]
  | .cellGainSel => [rw 0 4 5 (.range 0 8), rw 4 4 4 (.range 0 6), ro 16 10 0x200]
  | .cellWadiCfg => [rw 0 2, rw 4 10 0x14 (.range 0 1000)]
  | .cellWearALo | .cellWearBLo => [ro 0 32]
  | .cellWearAHi | .cellWearBHi => [ro 0 8]
  | .cellEvalCnt | .cellSatCnt | .cellWadiCnt | .cellFbCnt => [rc 0 32]
  | .cellEvtStat => [w1c 0 1, w1c 1 1, w1c 2 1, w1c 3 1, w1c 4 1, w1c 5 1, w1c 6 1]
  | .blkActBaseLo => [rw 12 20]
  | .blkActBaseHi => [rw 0 20]
  | .cellCalStat => [ro 0 1, ro 1 1, ro 16 16 0xFFFF]
  | .cellCalCmd => [w1s 0 1, ro 1 1]
  | .cellCheckCfg => [rw 0 5 10 (.range 1 31), rw 8 5 10 (.range 6 16), rw 16 8 10 (.range 1 255)]
  | .cellCheckStat => [ro 0 1, ro 1 1, ro 2 1, rc 16 16]
  | .cellRepairStat => [ro 0 5, ro 5 3, ro 8 5, ro 13 3, ro 16 1, ro 17 1, ro 24 8]
  | .dmuCfg => [rw 0 1]
  | .dmuStat => [ro 0 1, ro 1 3, ro 4 1, ro 5 1, ro 8 4]
  | .dmuTileCnt | .dmuStallCnt => [rc 0 32]
  | .dmuErrCnt => [rc 0 16, rc 16 16]
  | .blkSbStat => [ro 0 9, ro 16 10]
  | .blkSramStat => [ro 0 9, rc 16 8, rc 24 8]
  | .blkResLo => [rw 12 20]
  | .blkResHi => [rw 0 20]
  | .blkResCtl => [rw 0 1, ro 1 1, rw 3 5, rw 8 11]
  | .blkCarCfg => [rw 0 1, rw 1 5, rw 6 6, rw 16 16]
  | .blkCarOvfLo => [rw 0 16, rw 16 16]
  | .blkCarOvfHi => [rw 0 20]
  | .blkCarStat => [ro 0 14, ro 14 1, ro 16 16]
  | .hubSlewCfg => [rw 0 9 0xC8 (.range 50 400)]
  | .rgnSlewStat => [rc 0 16, rc 16 16]
  | .memMapLocalLo | .memMapLocalHi => [rw 0 32]
  | .memMapStat => [ro 0 1]
  | .memCacheHit | .memCacheMiss => [rc 0 32]
  | .memCacheErr => [rc 0 16, rc 16 16]
  | .memTagStat => [ro 0 13]
  | .memEccCnt => [rc 0 16, rc 16 8, ro 24 8]
  | .memEccAddrLo => [ro 5 27]
  | .memEccAddrHi => [ro 0 4]
  | .memScrubCfg => [rw 0 8 0x18 (.range 1 255), rw 8 1 1]
  | .memThermStat => [ro 0 8, ro 8 2, ro 16 16]
  | .memMargCtl => [w1s 0 1, rw 1 1, rw 2 1, rw 8 5, ro 13 1, ro 14 1, ro 15 1]
  | .memMargRes => [ro 0 8, ro 8 8]
  | .updGrpBaseLo => [rw 0 1, rw 12 20]
  | .updGrpBaseHi => [rw 0 20]
  | .rgnUpdStat => [ro 0 1, w1c 1 1, w1c 2 1, ro 8 7]
  | .rgnUpdCnt => [rc 0 32]
  | .fabNodeId => [rw 0 16 0xFFFF]
  | .fabNodeEpoch => [ro 0 16]
  | .fabAdopt => [rw 0 16 0xFFFF, rw 16 1, ro 17 1, ro 18 1]
  | .fabRtAddr => [rw 0 16, rw 16 1]
  | .fabRtData => [rw 0 16]
  | .fabCarWin => [rw 0 1, rw 6 14]
  | .portCtl => [w1s 0 1, rw 1 1, ro 2 1]
  | .portStat => [ro 0 3, ro 4 5, ro 12 4, ro 16 10]
  | .portPeer => [ro 0 16 0xFFFF, ro 16 3]
  | .portPeerEpoch => [ro 0 16]
  | .portLanemap => [ro 0 5 31, ro 8 5 31, ro 16 5 31, ro 24 5 31]
  | .portClassCfg => [rw 0 8 2 (.range 1 255), rw 8 8 4 (.range 1 255), rw 16 8 2 (.range 1 255)]
  | .portLinkCnt => [rc 0 16, rc 16 8, rc 24 8]
  | .portLaneStat => [ro 0 12, ro 12 2, ro 16 16]
  | .portFeedStat => [ro 0 12, ro 16 12]
  | .portOeTemp => [ro 0 8]
  | .colGrpBaseLo => [rw 0 1, rw 12 20]
  | .colGrpBaseHi => [rw 0 20]
  | .colStageLo => [rw 0 16, rw 16 16]
  | .colStageHi => [rw 0 20]
  | .colDigLo => [rw 0 1, rw 1 4, rw 12 20]
  | .colDigHi => [rw 0 20]
  | .colDigIdx => [ro 0 32]
  | .colCnt => [rc 0 16, rc 16 8, rc 24 8]
  | .rgnShutterCtl => [ro 0 1, w1s 1 1, ro 2 1, ro 8 8]
  | .fltRecStat => [ro 0 17, rc 17 15]
  | .fltStepCtl => [rw 0 1, ro 1 1, ro 2 1, ro 3 2]
  | .fltStepTime => [ro 0 32]
  | .fltUndoLo | .fltLogLo => [rw 0 16, rw 16 16]
  | .fltUndoHi | .fltLogHi => [rw 0 20]
  | .snapDirtyLo => [rw 0 1, rw 21 11]
  | .snapDirtyHi => [rw 0 8]
  | .snapAreaCtl => [rw 0 1, ro 1 1, rw 16 16 0xFFFF]
  | .snapAreaLoc => [rw 0 16, rw 16 14]
  | .hubAlarmStat => if r.i = 0 then [w1c 0 32] else [w1c 0 16]
  | .hubAlarmMask => if r.i = 0 then [rw 0 32] else [rw 0 16]
  | .hubAlarmFwd => if r.i = 0 then [rw 0 32 0x21] else [rw 0 16]
  | .hubAlarmCnt => [ro 0 16, ro 16 16]
  | .fltMaintReq => [rw 0 3, rw 3 1, rw 4 3, w1s 7 1, rw 16 16]
  | .fltMaintRes => [ro 0 1, ro 1 1, ro 2 3, ro 5 3]
  | .fltMaintSlot => [ro 0 1, ro 1 3, ro 4 1, ro 16 16]
  | .fltMaintLease => [rw 0 16 0x258]
  | .fltCtl => [w1s 0 1]
  | .pwrVinCfg => [rw 0 6 0x20, rw 8 6 0x20, rw 16 9 0x64 (.range 20 500)]
  | .pwrIccCfg => [rw 0 11 0x708 (.range 600 1800)]
  | .pwrAvsStat => [ro 0 10, ro 16 10]
  | .clkStretchCfg => [rw 0 8 0x0A (.range 1 255), rc 16 16]
  | .clkSscCmp | .clkSscNet => [rw 0 4 0 (.range 0 10), rw 8 6 30 (.range 25 50)]
  | .clkPllStat => [ro 0 7, ro 8 3, rc 16 8]
  | .thmCfg => [rw 0 7 0x64 (.range 85 104)]
  | .thmStat => [ro 0 4 8, ro 4 4 8, ro 8 1, ro 9 1, ro 10 1, ro 16 8, rc 24 8]
  | .tadcCtl => [rw 0 3 (tadcResetOsr r.i) (.range 0 4), rw 3 1, rw 4 2 (if r.i < 4 then 1 else 0),
                 rw 8 11 0 (.range 0 2000), rw 19 12 1]
  | .tadcPer => [rw 0 16 (tadcResetPeriod r.i) (.range 1 65535)]
  | .tadcStat => [ro 0 1, ro 1 1, ro 2 1, ro 4 3, rc 16 16]
  | .tadcSeq => tadcSeqFlds r.i r.j 0 ++ tadcSeqFlds r.i r.j 1 ++ tadcSeqFlds r.i r.j 2 ++ tadcSeqFlds r.i r.j 3
  | .tadcUrg => [rw 0 6, rw 8 3, w1s 31 1]
  | .tadcScal => [w1s 0 1, ro 1 1, ro 2 1]
  | .tadcCalOfs => [ro 0 24]
  | .tadcCalGain => [ro 0 24 0x400000]
  | .tadcRes => [ro 0 24, ro 24 3, ro 27 1, ro 28 1]
  | .hubStartCtl => [w1s 0 1, rw 1 1, rw 2 1]
  | .hubStartStat => [ro 0 3, ro 3 1, ro 4 1, ro 5 1, ro 8 8, ro 16 16]
  | .memTestCtl => [w1s 0 1, rw 1 1, ro 2 1, ro 3 1, ro 4 1]
  | .memTestStat => [ro 0 16, ro 16 16]
  | .secCmd => [rw 0 4, rw 4 2, w1s 31 1]
  | .secStat => [ro 0 1, ro 1 1, ro 2 1, ro 3 1, ro 4 4, ro 8 6, ro 14 2]
  | .secFuseStat => [ro 0 7, ro 8 4, ro 12 4, ro 16 2]
  | .secXferLo => [rw 12 20]
  | .secXferHi => [rw 0 32]
  | .secXferLen => [rw 0 24]
  | .secDbgNonceLo | .secDbgNonceHi => [ro 0 32]
  | .secIdPub => [ro 0 32]
  | .hubStrapStat => [ro 0 3, ro 3 2, ro 5 1, ro 6 1]
  | .hubGpio => [rw 0 4, rw 4 4, ro 8 4]

/-- The reset value of a register: its fields' reset values in place. -/
def regReset (r : RegId) : W32 :=
  BitVec.ofNat 32 ((regFields r).foldl (fun n f => n + f.rst * 2 ^ f.lo) 0)

/-- The number under which the register file lists a register. -/
def regKey (r : RegId) : Nat := (r.name.ctorIdx * 4096 + r.i) * 64 + r.j

/-- What a host write of `v` leaves of a register that held `old`, by the access codes of its fields (R2, R3). -/
def writeFields : List Fld → Nat → Nat → Nat
  | [], _, old => old
  | f :: fs, v, old =>
    let x := field v f.lo f.w
    let o := field old f.lo f.w
    let n := match f.acc with
      | .rw => f.fix.apply x
      | .w1c => o - (o &&& x)
      | .w1s => o ||| x
      | .ro | .rc => o
    writeFields fs v (setField old f.lo f.w n)

/-- What a read leaves of a register: its RC fields cleared (R3). -/
def clearRc : List Fld → Nat → Nat
  | [], old => old
  | f :: fs, old => clearRc fs (if f.acc = .rc then setField old f.lo f.w 0 else old)

/-- The registers that have a low and a high half (R46): for a low half, its high half. -/
def highHalf (r : RegId) : Option RegId :=
  let hi (n : RegName) : Option RegId := some { r with name := n }
  match r.name with
  | .hubBar4BaseLo => hi .hubBar4BaseHi
  | .hubMmuRootLo => hi .hubMmuRootHi
  | .hubMmuInvAddrLo => hi .hubMmuInvAddrHi
  | .hubRctBaseLo => hi .hubRctBaseHi
  | .numGrpBaseLo => hi .numGrpBaseHi
  | .numOasisBaseLo => hi .numOasisBaseHi
  | .cellWearALo => hi .cellWearAHi
  | .cellWearBLo => hi .cellWearBHi
  | .blkActBaseLo => hi .blkActBaseHi
  | .blkResLo => hi .blkResHi
  | .blkCarOvfLo => hi .blkCarOvfHi
  | .memMapLocalLo => hi .memMapLocalHi
  | .memEccAddrLo => hi .memEccAddrHi
  | .updGrpBaseLo => hi .updGrpBaseHi
  | .colGrpBaseLo => hi .colGrpBaseHi
  | .colStageLo => hi .colStageHi
  | .colDigLo => hi .colDigHi
  | .fltUndoLo => hi .fltUndoHi
  | .fltLogLo => hi .fltLogHi
  | .snapDirtyLo => hi .snapDirtyHi
  | .secXferLo => hi .secXferHi
  | .secDbgNonceLo => hi .secDbgNonceHi
  | _ => none

/-- For a high half, its low half (R46). -/
def lowHalf (r : RegId) : Option RegId :=
  let lo (n : RegName) : Option RegId := some { r with name := n }
  match r.name with
  | .hubBar4BaseHi => lo .hubBar4BaseLo
  | .hubMmuRootHi => lo .hubMmuRootLo
  | .hubMmuInvAddrHi => lo .hubMmuInvAddrLo
  | .hubRctBaseHi => lo .hubRctBaseLo
  | .numGrpBaseHi => lo .numGrpBaseLo
  | .numOasisBaseHi => lo .numOasisBaseLo
  | .blkActBaseHi => lo .blkActBaseLo
  | .blkResHi => lo .blkResLo
  | .blkCarOvfHi => lo .blkCarOvfLo
  | .memMapLocalHi => lo .memMapLocalLo
  | .updGrpBaseHi => lo .updGrpBaseLo
  | .colGrpBaseHi => lo .colGrpBaseLo
  | .colStageHi => lo .colStageLo
  | .colDigHi => lo .colDigLo
  | .fltUndoHi => lo .fltUndoLo
  | .fltLogHi => lo .fltLogLo
  | .snapDirtyHi => lo .snapDirtyLo
  | .secXferHi => lo .secXferLo
  | _ => none

/-- Whether a register's writes are a command of their own in the table of operations, so that REGISTER_WRITE leaves it
alone. -/
def regOwned (n : RegName) : Bool :=
  match n with
  | .hubClken | .hubMmuRootLo | .hubMmuRootHi | .hubVfRing | .hubRgrpCfg | .hubRingCmd
  | .numOasisBaseLo | .numOasisBaseHi | .numOasisSize | .numZsCtl | .blkResCtl | .blkCarCfg
  | .memMapLocalLo | .memMapLocalHi | .fabNodeId | .fabAdopt | .fabRtData
  | .colGrpBaseLo | .colGrpBaseHi | .colStageLo | .colStageHi | .colDigLo | .colDigHi
  | .fltStepCtl | .fltUndoLo | .fltUndoHi | .fltLogLo | .fltLogHi
  | .hubAlarmStat | .hubAlarmMask | .fltMaintReq | .fltCtl | .secCmd | .portCtl => true
  | _ => false

/-- The bits of a register that, written as 1, are a command of their own (a START, a GO, a TRIPPED). -/
def regAction (n : RegName) : Nat :=
  match n with
  | .hubMmuInvCtl | .cellCalCmd | .memMargCtl | .memTestCtl | .tadcScal | .hubStartCtl | .numZsStat => 1
  | .rgnShutterCtl => 2
  | .tadcUrg => 2 ^ 31
  | _ => 0

/-- The registers of a VF's windows: its Ring control and Number format windows (R603). -/
def regInVf (n : RegName) : Bool :=
  match n with
  | .hubRctBaseLo | .hubRctBaseHi | .hubRingCmd | .hubRingStat | .hubRingHead
  | .numGrpBaseLo | .numGrpBaseHi | .numStepCfg | .numStep | .numZsCtl | .numZsStat | .numNormStat | .numOasisUsed
  | .updGrpBaseLo | .updGrpBaseHi | .fabCarWin
  | .colGrpBaseLo | .colGrpBaseHi | .colStageLo | .colStageHi | .colDigLo | .colDigHi | .colDigIdx | .colCnt
  | .fltStepCtl | .fltStepTime | .fltUndoLo | .fltUndoHi | .fltLogLo | .fltLogHi => true
  | _ => false

/-- How many of a register the device has: the bounds of its two indices. -/
def regBounds (n : RegName) : Nat × Nat :=
  match n with
  | .hubClken | .hubClkst => (8, 1)
  | .hubMmuRootLo | .hubMmuRootHi | .hubRctBaseLo | .hubRctBaseHi | .hubRingCmd | .hubRingStat | .hubRingHead
  | .numGrpBaseLo | .numGrpBaseHi | .numStepCfg | .numStep | .numZsCtl | .numZsStat | .numNormStat
  | .numOasisQuota | .numOasisUsed | .updGrpBaseLo | .updGrpBaseHi | .fabCarWin
  | .colGrpBaseLo | .colGrpBaseHi | .colStageLo | .colStageHi | .colDigLo | .colDigHi | .colDigIdx | .colCnt
  | .fltStepCtl | .fltStepTime | .fltUndoLo | .fltUndoHi | .fltLogLo | .fltLogHi | .hubVfRing => (17, 1)
  | .hubRgrpCfg => (64, 1)
  | .matrixRow => (6, 1)
  | .cellLeafStat | .cellGainSel | .cellWadiCfg | .cellWearALo | .cellWearAHi | .cellWearBLo | .cellWearBHi
  | .cellEvalCnt | .cellSatCnt | .cellWadiCnt | .cellFbCnt | .cellEvtStat | .cellCalStat | .cellCalCmd
  | .cellCheckCfg | .cellCheckStat | .cellRepairStat => (1024, 1)
  | .blkActBaseLo | .blkActBaseHi | .blkSbStat | .blkSramStat => (128, 1)
  | .blkResLo | .blkResHi | .blkResCtl => (128, 8)
  | .blkCarCfg | .blkCarOvfLo | .blkCarOvfHi | .blkCarStat => (128, 4)
  | .dmuCfg | .dmuStat | .dmuTileCnt | .dmuStallCnt | .dmuErrCnt => (256, 1)
  | .rgnSlewStat | .memCacheHit | .memCacheMiss | .memCacheErr | .memTagStat | .memEccCnt | .memEccAddrLo
  | .memEccAddrHi | .memScrubCfg | .memThermStat | .memMargCtl | .memMargRes | .rgnUpdStat | .rgnUpdCnt
  | .rgnShutterCtl | .fltRecStat | .memTestCtl | .memTestStat => (16, 1)
  | .portCtl | .portStat | .portPeer | .portPeerEpoch | .portClassCfg | .portLinkCnt | .portFeedStat
  | .portOeTemp => (8, 1)
  | .portLanemap => (8, 8)
  | .portLaneStat => (8, 18)
  | .snapAreaCtl | .snapAreaLoc => (4, 1)
  | .hubAlarmStat | .hubAlarmMask | .hubAlarmFwd => (2, 1)
  | .hubAlarmCnt => (24, 1)
  | .fltMaintSlot => (8, 1)
  | .tadcCtl | .tadcPer | .tadcStat => (5, 1)
  | .tadcSeq => (5, 4)
  | .tadcCalOfs | .tadcCalGain => (3, 1)
  | .tadcRes => (64, 1)
  | .secIdPub => (8, 1)
  | _ => (1, 1)

/-- Whether a register of that name and index exists; HUB_VF_RING_v runs from v = 1. -/
def regExists (r : RegId) : Bool :=
  decide (r.i < (regBounds r.name).1 ∧ r.j < (regBounds r.name).2 ∧ ¬ (r.name = .hubVfRing ∧ r.i = 0))

/-- The Transom entry in whose window a register lies: its type and instance (Table 2-6). -/
def regWindow (r : RegId) : Nat × Nat :=
  match r.name with
  | .matrixRow => (6, 0)
  | .hubVfRing | .hubRctBaseLo | .hubRctBaseHi | .hubRgrpCfg | .hubRingCmd | .hubRingStat | .hubRingHead | .fabCarWin
  | .colGrpBaseLo | .colGrpBaseHi | .colStageLo | .colStageHi | .colDigLo | .colDigHi | .colDigIdx | .colCnt
  | .fltStepCtl | .fltStepTime | .fltUndoLo | .fltUndoHi | .fltLogLo | .fltLogHi => (4, 0)
  | .numGrpBaseLo | .numGrpBaseHi | .numStepCfg | .numStep | .numZsCtl | .numZsStat | .numNormStat
  | .numOasisBaseLo | .numOasisBaseHi | .numOasisSize | .numOasisQuota | .numOasisUsed
  | .updGrpBaseLo | .updGrpBaseHi => (5, 0)
  | .cellLeafStat | .cellGainSel | .cellWadiCfg | .cellWearALo | .cellWearAHi | .cellWearBLo | .cellWearBHi
  | .cellEvalCnt | .cellSatCnt | .cellWadiCnt | .cellFbCnt | .cellEvtStat | .cellCalStat | .cellCalCmd
  | .cellCheckCfg | .cellCheckStat | .cellRepairStat => (9, r.i)
  | .blkActBaseLo | .blkActBaseHi | .blkSbStat | .blkSramStat | .blkResLo | .blkResHi | .blkResCtl
  | .blkCarCfg | .blkCarOvfLo | .blkCarOvfHi | .blkCarStat => (8, r.i)
  | .dmuCfg | .dmuStat | .dmuTileCnt | .dmuStallCnt | .dmuErrCnt => (10, r.i)
  | .rgnSlewStat | .memCacheHit | .memCacheMiss | .memCacheErr | .memTagStat | .rgnUpdStat | .rgnUpdCnt
  | .rgnShutterCtl | .fltRecStat => (7, r.i)
  | .memEccCnt | .memEccAddrLo | .memEccAddrHi | .memScrubCfg | .memThermStat | .memMargCtl | .memMargRes
  | .memTestCtl | .memTestStat => (13, r.i)
  | .portCtl | .portStat | .portPeer | .portPeerEpoch | .portLanemap | .portClassCfg | .portLinkCnt
  | .portLaneStat | .portFeedStat | .portOeTemp => (14, r.i)
  | .tadcCtl | .tadcPer | .tadcStat | .tadcSeq => (2, r.i)
  | _ => (1, 0)

/-- The rows of the compatibility matrix (Table 13-11), which the matrix window holds (Table 2-6). -/
def compatRow (i : Nat) : Nat := [0x3F, 0x07, 0x07, 0x19, 0x19, 0x21].getD i 0

/-- The clock-enable index of a Transom entry (Table 2-4): block b, with its cells, DMUs and vector engine, has 32 + b
(DEDUCED, log entry 6); TADC converters have bits 2–6 of HUB_CLKEN_0; the other entries have none. -/
def clkIndex (type inst : Nat) : Option Nat :=
  if type = 2 then some (2 + inst)
  else if type = 8 ∨ type = 11 then some (32 + inst)
  else if type = 9 then some (32 + inst / 8)
  else if type = 10 then some (32 + inst / 2)
  else none

end Sys2Proof.Machine
end

