-- ==== Sys2Proof/Machine/State.lean ====
section
/-! DEFINITION. The state of the VT2: everything the spec gives the device, as plain data, and its value at reset. -/

namespace Sys2Proof.Machine

/-- Reasons a step could stop with a fault. The meanings of this model raise none: an error of the VT2 is a completion
status, an event, an alarm or a pin, and the machine goes on. -/
inductive Fault where
  /-- Raised by no meaning; kept so that the type is inhabited. Stopping would be safe. -/
  | unreachable
  deriving DecidableEq, Repr

/-- Reasons a command is refused. -/
inductive Refusal where
  /-- Raised by a dispatch arm whose command has no meaning yet. Safe: nothing is claimed of it. -/
  | notModelled (mnemonic : String)
  deriving DecidableEq, Repr

/-- How a host access completes (R43, R47, R65). -/
inductive Cpl where
  | success | completerAbort | unsupportedRequest
  deriving DecidableEq, Repr

/-- What the device sends to the outside. -/
inductive Out where
  /-- A posted write to host memory with the requester ID of a function. -/
  | hostWrite (fn addr : Nat) (bytes : List Byte)
  /-- A read request to host memory. -/
  | hostRead (fn addr len : Nat)
  /-- A posted write and a read request whose address is translated (R77); the address stands as the page table gives it, with
  the page that the host's translation gives. -/
  | atsWrite (fn addr page : Nat) (bytes : List Byte)
  | atsRead (fn addr page len : Nat)
  /-- A request for the translation of a page of host memory (R77). -/
  | atsRequest (fn addr : Nat)
  /-- An MSI-X message. -/
  | msix (fn vector : Nat)
  /-- The completion of a host access. -/
  | completion (fn : Nat) (kind : Cpl) (data : List Byte)
  /-- The completion of an ATS invalidation request (R78). -/
  | atsDone (fn addr : Nat)
  /-- A packet that travels through the mesh to this device itself (R433). -/
  | loopback (p : Packet)
  /-- A flit: 256 bytes under Table 11-3 (R415). -/
  | flit (port : Nat) (bytes : List Byte)
  /-- The identity a port sends at t6, node, epoch and port (R435), and the free space of its receive buffers by class (R420). -/
  | identity (port node epoch : Nat) (free : List Nat)
  /-- A training frame with the transmit lanes marked failed, and the receive map that the partner's transmitter drives (R402,
  R408). -/
  | trainFrame (port : Nat) (failed map : List Nat)
  /-- A host error logged through AER, by function and address (R379). -/
  | aer (fn addr : Nat)
  /-- An AVSBus voltage target in mV for an AVSBus rail (R517, Table 15-6). -/
  | avs (rail millivolts : Nat)
  /-- An SPDM response: its request code (0 for ERROR) and its content. -/
  | spdm (path : SpdmPath) (code : Nat) (content : List Byte)
  /-- A request answered with ERROR (R597, R599): 3 Busy, 7 UnsupportedRequest. -/
  | spdmError (path : SpdmPath) (error : Nat)
  deriving DecidableEq, Repr

/-- One event record before it is given a slot (Table 3-14), or an events-lost record. -/
structure EvRec where
  code : Nat
  srcType : Nat
  srcInst : Nat
  fn : Nat
  time : Nat
  lost : Bool := false
  /-- It comes from a descriptor with IRQ set (R125). -/
  irq : Bool := false
  detail : List Byte
  deriving DecidableEq, Repr

/-- One completion record before it is given a slot (Table 3-13). -/
structure CplRec where
  ring : Nat
  seq : Nat
  status : Nat
  mask : Nat
  remote : Bool
  dcode : Nat
  detail : Nat
  irq : Bool
  /-- Device time at completion. -/
  time : Nat
  deriving DecidableEq, Repr

/-! ## Rings -/

/-- The four ring states (Table 3-7). -/
inductive RingState where
  | disabled | active | draining | halted
  deriving DecidableEq, Repr

/-- The three ring types (Table 3-3). -/
inductive RingType where
  | submission | completion | event
  deriving DecidableEq, Repr

/-- A ring context as LOAD read it (Table 3-3). -/
structure RingCtx where
  base : Nat := 0
  hostIdxAddr : Nat := 0
  devIdxAddr : Nat := 0
  log2Size : Nat := 4
  type : RingType := .submission
  polled : Bool := false
  devmem : Bool := false
  peer : Bool := false
  seqchk : Bool := false
  group : Nat := 0
  pollUs : Nat := 0
  cmplRing : Nat := 0
  evtRing : Nat := 0
  vector : Nat := 0
  modCount : Nat := 0
  modUs : Nat := 0
  rate : Nat := 0
  initIdx : Nat := 0
  defaultMark : Bool := false
  deriving DecidableEq, Repr

/-- A descriptor slot fetched and not dispatched. -/
structure Fetched where
  index : Nat
  bytes : List Byte
  deriving DecidableEq, Repr

/-- A source's open rate window in an event ring (R123): when it began, events accepted and events discarded. -/
structure RateWin where
  srcType : Nat
  srcInst : Nat
  since : Nat
  count : Nat
  dropped : Nat := 0
  first : Nat := 0
  last : Nat := 0
  deriving DecidableEq, Repr

/-- A completion-ring stall in progress (R627). -/
structure Stall where
  since : Nat
  first : Nat
  reported : Bool
  deriving DecidableEq, Repr

/-- One ring. -/
structure Ring where
  state : RingState := .disabled
  loaded : Bool := false
  fn : Nat := 0
  ctx : RingCtx := {}
  /-- Consumer index of a submission ring. -/
  head : Nat := 0
  /-- The shadow tail last read. -/
  tail : Nat := 0
  /-- Producer index of a completion or event ring. -/
  prod : Nat := 0
  /-- The host's consumer index last read. -/
  cons : Nat := 0
  fetched : List Fetched := []
  readInFlight : Bool := false
  readAgain : Bool := false
  /-- The read in flight is the one retry of R632. -/
  retried : Bool := false
  /-- A descriptor read is in flight, and whether it is its one retry (R632). -/
  slotRetried : Bool := false
  slotInFlight : Bool := false
  owed : List CplRec := []
  /-- Records not signalled yet, and the time of the first of them (R125). -/
  unsignalled : Nat := 0
  firstAt : Nat := 0
  /-- When the poll interval of a polled ring began (R96). -/
  polledAt : Nat := 0
  lostFull : Nat := 0
  lostRate : Nat := 0
  lostFirst : Nat := 0
  lostLast : Nat := 0
  windows : List RateWin := []
  stall : Option Stall := none
  deriving DecidableEq, Repr

/-- One completion counter (R112). -/
structure Counter where
  value : Nat := 0
  failed : Bool := false
  deriving DecidableEq, Repr

/-! ## Work in flight -/

/-- A descriptor decoded (Tables 3-9 and 3-12): `w` holds W0–W3, `x` holds X0–X6 of its extension, if it has one. -/
structure Desc where
  opcode : Nat
  flags : Nat
  seq : Nat
  node : Nat
  level : Nat
  ndep : Nat
  target : Nat
  counter : Nat
  deps : List Nat
  aux : Nat
  w : List Nat
  x : List Nat
  raw : List Byte
  deriving DecidableEq, Repr

/-- How far a dispatched descriptor has come. -/
inductive Phase where
  /-- Held in dispatch for its tokens (R113) or for a bucket of its ring (R452, R512). -/
  | held
  /-- In a block's or a region's dispatch queue (R314, R393). -/
  | queued
  /-- In a scoreboard entry (R315). -/
  | board
  /-- Granted, waiting for slew credit (R318, R337). -/
  | granted
  /-- Ready for its engine, or in it. -/
  | running
  /-- Sent to another node (R105). -/
  | remote
  /-- Its work has ended and its record is not posted. -/
  | done
  deriving DecidableEq, Repr

/-- Where a descriptor is placed (Table 8-1). -/
inductive Place where
  | hub
  | block (b : Nat)
  | region (r : Nat)
  deriving DecidableEq, Repr

/-- A tensor range of a scoreboard entry: address space (none for a leaf), granules, and whether it writes (R315). -/
structure SbRange where
  space : Option Nat
  first : Nat
  last : Nat
  write : Bool
  deriving DecidableEq, Repr

/-- A headed write that a descriptor has made, whose group update is due at its completion (R157). -/
structure GroupWrite where
  space : Nat
  headerVa : Nat
  group : Nat
  elements : Nat
  zeros : Nat
  saturated : Nat
  nonfinite : Nat
  /-- FP32 code of the largest finite magnitude. -/
  amax : Nat
  /-- FP32 code of the norm (0 outside output and gradient groups). -/
  norm : Nat
  /-- Units of a wide copy newly allocated, and units of an old copy to free (R173, R175). -/
  alloc : Nat
  free : Nat
  probe : Bool
  /-- Its group has NORM_EN set and a class that the norm watcher watches (R163), and its class is gradient (R167). -/
  normed : Bool
  grad : Bool
  deriving DecidableEq, Repr

/-- What a SNAPSHOT captures at its dispatch (R503): device memory, its function's counters, and its NUM_STEP and
zero-streak fields; and the 64 KiB units written since. -/
structure SnapImage where
  mem : Tab Byte
  counters : Tab Counter
  step : Nat
  limit : Nat
  streak : Nat
  touched : List Nat := []
  deriving DecidableEq, Repr

/-- One dispatched descriptor: its transaction record's content (Table 13-2) and its outcome so far. -/
structure Work where
  ring : Nat
  index : Nat
  fn : Nat
  desc : Desc
  phase : Phase
  place : Place := .hub
  /-- Placement order, for the scoreboard (R316). -/
  order : Nat := 0
  entry : Nat := 0
  ranges : List SbRange := []
  status : Nat := 0
  mask : Nat := 0
  dcode : Nat := 0
  detail : Nat := 0
  progress : Nat := 0
  writes : List GroupWrite := []
  /-- Step count t sampled at dispatch (R385). -/
  t : Nat := 0
  /-- Reference mode sampled at dispatch (R309). -/
  refMode : Bool := false
  /-- What a SNAPSHOT samples at dispatch (R503). -/
  image : Option SnapImage := none
  /-- A hinge set-up of class 3 has been granted (Table 8-1). -/
  setUp : Bool := false
  /-- Engines of the descriptor started so far (R338). -/
  starts : Nat := 0
  /-- The first product of a DMU_PAIR is done, and its DMU released (R300). -/
  half : Bool := false
  /-- Re-dispatched from the step log (R496). -/
  replay : Bool := false
  /-- Run again to recover a granule of the detection class (R368). -/
  again : Bool := false
  /-- Stopped by an issue hold at a unit boundary (R524). -/
  stopped : Bool := false
  /-- A TILE_EVALUATE replayed after a region reset that waits for its leaf (R488, R489). -/
  awaitLeaf : Bool := false
  /-- What a VECTOR_PROGRAM stopped by a region reset had stored to headed arguments in ended iterations (R327, R488). -/
  census : Tab (Tab Nat) := []
  /-- A checkpoint on its way to another node: its place in the buddy area and its bytes (R504). -/
  base : Nat := 0
  file : List Byte := []
  /-- Parts of a buddy area read by a SNAPSHOT or SNAPSHOT_RESTORE: offset, length asked for, and bytes (R504, R505). -/
  got : List (Nat × Nat × List Byte) := []
  /-- SEQUENCE and EPOCH of the checkpoint written or restored (R436, Table 13-18). -/
  seqNo : Nat := 0
  ckEpoch : Nat := 0
  /-- Another node has answered for it (Table 3-13). -/
  byPeer : Bool := false
  /-- Number of its transaction record; 2^20, which no record has, while it has none. -/
  record : Nat := 1048576
  deriving DecidableEq, Repr

/-! ## The Transom -/

/-- The parts of a Transom entry that change: the status bits of Table 2-5 and the type-specific word. -/
structure Entry where
  present : Bool := false
  retired : Bool := false
  gated : Bool := false
  degraded : Bool := false
  isolated : Bool := false
  word : Nat := 0
  deriving DecidableEq, Repr

/-- The Transom: stages whose entries are appended (0–3), the entries, the update sequence and the stage reached. -/
structure Transom where
  appended : Nat := 0
  entries : Tab Entry := []
  seq : Nat := 0
  stageReached : Nat := 0
  deriving DecidableEq, Repr

/-! ## Translation -/

/-- A cached translation (R74): address space, page base VA, page size, and the leaf entry. -/
structure Tlb where
  mmu : Nat
  space : Nat
  va : Nat
  size : Nat
  pte : Nat
  deriving DecidableEq, Repr

/-- An invalidation running (Table 2-14). -/
structure Inval where
  all : Bool
  space : Nat
  va : Nat
  pages : Nat
  deriving DecidableEq, Repr

/-- A wide copy in the oasis (R173): function, group, its header, its address and units, and the step that made it. -/
structure WideCopy where
  fn : Nat
  group : Nat
  headerVa : Nat
  pa : Nat
  units : Nat
  step : Nat
  /-- Its units stand in WIDE_UNITS. -/
  counted : Bool := false
  deriving DecidableEq, Repr

/-! ## Memory -/

/-- The thermal states of a stack (Table 9-5). -/
inductive Thermal where
  | normal | hot | critical | lost
  deriving DecidableEq, Repr

/-- A line of a cache slice (R347, R350): masks of valid, dirty and lost sectors, the keep mark and its last use. -/
structure Line where
  valid : Nat := 0
  dirty : Nat := 0
  lost : Nat := 0
  keep : Bool := false
  used : Nat := 0
  deriving DecidableEq, Repr

/-- A margin scan in progress (R375): channel, whether it steps above nominal, the next step, and whether the stack has left
the normal state (R376). -/
structure Margin where
  channel : Nat
  above : Bool
  step : Nat
  cut : Bool := false
  deriving DecidableEq, Repr

/-- One stack and its controller. -/
structure Stack where
  thermal : Thermal := .normal
  criticalSince : Nat := 0
  hotSince : Nat := 0
  /-- Interface training: attempts that failed, and whether it has passed or is lost (R570). -/
  failures : Nat := 0
  trained : Bool := false
  /-- Accesses held in the critical state (R372): ring and index of their descriptors, in arrival order. -/
  held : List (Nat × Nat) := []
  margin : Option Margin := none
  /-- A field test is running, and its mode: quick (R575). -/
  test : Option Bool := none
  /-- Rows with corrected errors in this scrub cycle, one entry per sector, and rows spared (R369). -/
  scrubHits : List (Nat × Nat) := []
  sparedRows : List Nat := []
  deriving DecidableEq, Repr

/-- A tag entry of MEM_ATOMIC (R362). -/
structure TagEntry where
  region : Nat
  fn : Nat
  tag : Nat
  va : Nat
  count : Nat
  applied : Nat
  bitmap : Nat
  deriving DecidableEq, Repr

/-! ## Cells -/

/-- Leaf states (Table 5-5). -/
inductive LeafState where
  | empty | programming | programmed | reading | valid
  deriving DecidableEq, Repr

/-- One leaf: its state, the tile it holds and its image. Levels are kept row by row. -/
structure LeafRec where
  state : LeafState := .empty
  rows : Nat := 0
  cols : Nat := 0
  fmt : Nat := 0
  eight : Bool := false
  log2Block : Nat := 0
  /-- Tile scale T_w as a power of two (R191, R193). -/
  tw : Int := 0
  /-- Column codes: E5M3 code of each weight column (R191), or d with c = 2^−d × T_w (R193). -/
  codes : List Nat := []
  /-- Conductance levels, 0–7, by physical row (512–527 the spare rows) and physical device column (512–519 the spare ones);
  what is not listed is 0 (R186, R187). -/
  devices : Tab (List Nat) := []
  /-- Logical rows and weight columns moved to a spare row or a spare pair (R262). -/
  rowAt : Tab Nat := []
  colAt : Tab Nat := []
  /-- Image levels of the last readback (R223). -/
  image : List (List Int) := []
  imageVa : Nat := 0
  imageSpace : Nat := 0
  masterVa : Nat := 0
  masterSpace : Nat := 0
  masterStride : Nat := 0
  masterBf16 : Bool := false
  validSince : Nat := 0
  /-- Number of its leaf record while it is VALID (R478). -/
  record : Option Nat := none
  /-- Restored after a region reset (R489), so older than REREAD_S. -/
  restored : Bool := false
  /-- Evaluations since the last passing check (R260). -/
  sincePass : Nat := 0
  /-- The LEAF_PROGRAM or LEAF_READBACK that works on it, the readback periods left of the readback in progress (R200, R222), and
  the repair rounds it has made (R264). -/
  owner : Option (Nat × Nat) := none
  toRead : Nat := 0
  rounds : Nat := 0
  /-- KS_TOL as the LEAF_READBACK in progress took it (R273). -/
  readTol : Nat := 0
  /-- Being restored from its image, and since when (R489). -/
  restoring : Bool := false
  since : Nat := 0
  deriving DecidableEq, Repr

/-- A repair entry (Table 6-7). -/
structure Repair where
  pcell : Nat
  kind : Nat
  leaf : Nat
  logical : Nat
  spare : Nat
  depth : Nat
  deriving DecidableEq, Repr

/-- A TILE_EVALUATE in progress on a cell: its descriptor, the parameters sampled at its start (R204), the evaluation,
shot and phase that come next, and the sums so far. -/
structure Eval where
  ring : Nat
  index : Nat
  leaf : Leaf
  gain : Nat
  margin : Nat
  depth : Nat
  fbThresh : Nat
  ksTol : Nat
  sentN : Nat
  evals : Nat
  next : Nat := 0
  shot : Nat := 0
  phase : Nat := 0
  /-- Row codes of the evaluation (R197), the wadi rows, and the unit step as num × 2^exp. -/
  codes : List Int := []
  /-- The inputs of the evaluation as FP32 codes, and the activation table read at the start. -/
  xs : List Nat := []
  table : List Byte := []
  wadiRows : List Nat := []
  stepNum : Nat := 0
  stepExp : Int := 0
  /-- Converter sums of each shot: high shot, low shot. -/
  sumsHigh : List Int := []
  sumsLow : List Int := []
  /-- Columns saturated in the evaluation (R208), and those in the shot (R201). -/
  saturated : List Nat := []
  satShot : List Nat := []
  /-- Row codes in the drivers: those of the phase's rows (R203). -/
  driven : List Int := []
  /-- FP32 results of finished evaluations not yet written: evaluation number and its columns. -/
  results : List (Nat × List Nat) := []
  fallen : List Nat := []
  fallbacks : Nat := 0
  sentinelDue : Bool := false
  /-- A shot or a sentinel is ready for its period. -/
  ready : Bool := false
  audited : Bool := false
  /-- A readback of the leaf comes first (R259), and its periods left. -/
  reread : Bool := false
  toRead : Nat := 0
  /-- The cell is retired: the descriptor waits for its clone, or runs on it (R267). -/
  waitClone : Bool := false
  clone : Bool := false
  deriving DecidableEq, Repr

/-- One cell. -/
structure Cell where
  leafA : LeafRec := {}
  leafB : LeafRec := {}
  activeB : Bool := false
  retired : Bool := false
  eval : Option Eval := none
  /-- Range violations: column and evaluation number (R257); consecutive dead readings by column; suspect columns. A column of
  leaf B is numbered from 256 on. -/
  violations : List (Nat × Nat) := []
  dead : List (Nat × Nat) := []
  suspects : List Nat := []
  sentinels : Nat := 0
  evalNo : Nat := 0
  /-- A full calibration runs since then, and when the last one ended (R249); its calibration-due event is written. -/
  cal : Option Nat := none
  lastCal : Option Nat := none
  dueSaid : Bool := false
  /-- Correction codes (R240–R244): those that the last full calibration measured, by code number (0–64 converter gain, 65 +
  256 × leaf + column an offset), the junction temperature it was made at in 1/16 °C, the differences that background
  calibration has added, the temperature the codes in use are interpolated at, and a new temperature and new codes with theirs
  that wait for an evaluation boundary (R242). -/
  calCodes : List Int := []
  calTemp : Int := 480
  nextCodes : Option (List Int × Int) := none
  codeAdd : Tab Int := []
  useTemp : Int := 480
  nextTemp : Option Int := none
  /-- Background calibration (R243): the converter whose turn it is, the one whose columns are on the spare, and whether the
  columns' next move waits for an evaluation boundary. -/
  calConv : Nat := 0
  onSpare : Option Nat := none
  moveDue : Bool := false
  /-- Background offset measurement (R244): periods made on each leaf, whose turn it is, and sums by leaf and column. -/
  offPeriods : Tab Nat := []
  offTurn : Nat := 0
  offSums : Tab Int := []
  /-- Converter replaced for good by converter 64. -/
  spareConv : Option Nat := none
  /-- Repairs in use: spare rows and pairs used or unusable (leaf, spare), and depths by logical row and column. -/
  usedRows : List (Leaf × Nat) := []
  usedPairs : List (Leaf × Nat) := []
  rowDepth : List (Leaf × Nat × Nat) := []
  colDepth : List (Leaf × Nat × Nat) := []
  deriving DecidableEq, Repr

/-! ## Blocks -/

/-- A held store of an iteration (R328): argument, element, FP32 code. -/
structure HeldStore where
  arg : Nat
  element : Nat
  value : Nat
  deriving DecidableEq, Repr

/-- One argument of a micro-program (R323). -/
structure VArg where
  word : Nat
  length : Nat
  read : Bool
  write : Bool
  imm : Bool
  deriving DecidableEq, Repr

/-- A vector engine running a micro-program (R322). -/
structure VecRun where
  ring : Nat
  index : Nat
  prog : List Nat
  args : List VArg
  iterations : Nat
  iter : Nat := 0
  pc : Nat := 0
  executed : Nat := 0
  /-- The registers written, and what they held as the iteration began. -/
  v : Tab (List Nat) := []
  s : Tab Nat := []
  v0 : Tab (List Nat) := []
  s0 : Tab Nat := []
  /-- The iteration runs again after an error (R339). -/
  again : Bool := false
  /-- What the iteration holds (R328): stores, bytes held, packets popped by slot, and the byte images popped into arguments
  (argument, byte offset, bytes). -/
  stores : List HeldStore := []
  bytes : Nat := 0
  popped : List (Nat × Nat) := []
  popStores : List (Nat × Nat × List Byte) := []
  /-- Elements stored to headed arguments in ended iterations, by argument and element: FP32 codes (R327). -/
  written : Tab (Tab Nat) := []
  deriving DecidableEq, Repr

/-- A caravan packet in a queue: source, TXN, generation and length; its bytes where it lies on the die, its offset where it
lies in the overflow queue. -/
structure Caravan where
  src : Nat
  txn : Nat
  gen : Nat
  len : Nat
  bytes : List Byte := []
  off : Nat := 0
  deriving DecidableEq, Repr

/-- One caravan slot of a block (R333). -/
structure Slot where
  onDie : List Caravan := []
  overflow : List Caravan := []
  /-- Offset in the overflow queue's memory at which the next packet goes. -/
  tail : Nat := 0
  hold : Bool := false
  heldSrcs : List Nat := []
  /-- Keys of the last 1,024 caravans stored (R483). -/
  keys : List (Nat × Nat × Nat) := []
  deriving DecidableEq, Repr

/-- A resident page (R330): window, page, dirty, last access; the translation it was filled by, the VA of its first byte, and
its 4 KiB. -/
structure Page where
  window : Nat
  page : Nat
  dirty : Bool
  used : Nat
  tlb : Tlb
  va : Nat
  bytes : List Byte
  deriving DecidableEq, Repr

/-- One block. -/
structure Block where
  classPtr : Nat := 0
  entryPtr : Tab Nat := []
  rebuilding : Bool := false
  lastRebuild : Option Nat := none
  vec : Option VecRun := none
  pages : List Page := []
  flushing : List Nat := []
  slots : Tab Slot := []
  /-- The spare cell: its use is fixed at Stage 1; a clone in it: the retired cell it replays. -/
  spareUsed : Bool := false
  clone : Option Nat := none
  /-- The state of the clone's leaf, and since when it has been programmed (Table 5-5). -/
  cloneLeaf : LeafState := .empty
  cloneSince : Nat := 0
  /-- Next grant orders of the DMUs' issued work: descriptor keys. -/
  dmu0 : List (Nat × Nat) := []
  dmu1 : List (Nat × Nat) := []
  deriving DecidableEq, Repr

/-! ## Regions -/

/-- What an element rule has put out for one tensor: the values of its blocks, as FP32 codes, and the census of those it has
written. -/
structure RuleOut where
  vals : List (List Nat) := []
  zeros : Nat := 0
  saturated : Nat := 0
  nonfinite : Nat := 0
  deriving DecidableEq, Repr

/-- An update unit running an element rule (R388–R395). -/
structure RuleRun where
  ring : Nat
  index : Nat
  prog : List Nat
  consts : List Nat
  sched : List Nat
  bc1 : Nat
  bc2 : Nat
  t : Nat
  /-- The blocks of the tensors, the one in work, and the FP32 codes of its gradient, master copy or parameter, first and second
  moment. -/
  blocks : Nat
  block : Nat := 0
  grad : List Nat := []
  master : List Nat := []
  m1 : List Nat := []
  m2 : List Nat := []
  /-- The element in work, the instruction next, the norm of the block, and the registers of the element. -/
  elem : Nat := 0
  pc : Nat := 0
  nb : Nat := 0
  r : Tab Nat := []
  /-- Results of the block's finished elements: r1, r2, r3. -/
  results : List (Nat × Nat × Nat) := []
  /-- What has been put out for the parameter, the first and the second moment, and the master copy. -/
  outP : RuleOut := {}
  outM1 : RuleOut := {}
  outM2 : RuleOut := {}
  outX : RuleOut := {}
  /-- Blocks that were non-finite, and blocks left untouched. -/
  nonfin : Nat := 0
  skipped : Nat := 0
  /-- The first block recomputed or rewritten from staging (R398). -/
  replayed : Option Nat := none
  deriving DecidableEq, Repr

/-- One region. -/
structure Region where
  /-- Shutters closed; a reset is running since; retired. -/
  resetSince : Option Nat := none
  retired : Bool := false
  resetTimes : List Nat := []
  /-- Engine stops waiting for slew credit (R338): descriptor and step. -/
  stops : List (Nat × Nat × Nat) := []
  /-- Descriptors with a record in the region at t0, and leaf records: cell and leaf (R488, R489). -/
  atReset : List (Nat × Nat) := []
  leavesAtReset : List (Nat × Leaf) := []
  /-- Functions whose dirty residency pages the reset lost (R488). -/
  lostPages : List Nat := []
  rule : Option RuleRun := none
  /-- Slew credit in units of 1/6,400 A, and when it was last brought up to date (R337). -/
  credit : Nat := 21760
  creditAt : Nat := 0
  /-- Since when an engine has waited for a free record (R479), and single-bit errors of the record store corrected (R480). -/
  recWait : Option Nat := none
  recFixed : Nat := 0
  deriving DecidableEq, Repr

/-! ## The fabric -/

/-- Port states (Table 11-10). -/
inductive PortState where
  | down | training | up | disabled
  deriving DecidableEq, Repr

/-- A packet flit kept for resending (R417): its number, class, payload, and times sent. -/
structure SentFlit where
  seq : Nat
  cls : Nat
  first : Bool
  last : Bool
  payload : List Byte
  sends : Nat
  tag : Option (Nat × Nat × Nat) := none
  deriving DecidableEq, Repr

/-- A flit of a packet waiting to be sent: its class, its place in the packet, its payload, and the bucket it belongs to
(function, group, bucket), whose completion waits for its acknowledgement (R423, R466). -/
structure TxFlit where
  cls : Nat
  first : Bool
  last : Bool
  payload : List Byte
  tag : Option (Nat × Nat × Nat) := none
  deriving DecidableEq, Repr

/-- One port. -/
structure Port where
  state : PortState := .down
  width : Nat := 0
  /-- It was UP before the link was lost and trains again (R414, R427), and why it trains. -/
  wasUp : Bool := false
  cause : TrainCause := .stage2
  /-- When its training began (R404), when it last accepted a flit or sent a NAK (R418), and when an acknowledgement last advanced,
  or a first flit began to wait for one, or flits were resent (R419). -/
  trainAt : Nat := 0
  quietAt : Nat := 0
  ackAt : Nat := 0
  lastLight : Option Nat := none
  rxMap : List Nat := []
  spares : List Nat := []
  degraded : List Nat := []
  replay : List SentFlit := []
  nextSeq : Nat := 0
  expected : Nat := 0
  sinceAck : Nat := 0
  nakOut : Bool := false
  credits : Tab Nat := []
  /-- Flits of a packet of each class received so far, and whether any came with RESENT. -/
  partials : Tab (List Byte) := []
  resentSeen : Tab Nat := []
  /-- Flits waiting, in order within each class, the class pointer, and the flits each class has sent in the round
  (R423). -/
  queue : List TxFlit := []
  clsPtr : Nat := 0
  round : Tab Nat := []
  /-- Receive buffer flits freed and not yet reported, by class (R420). -/
  freed : Tab Nat := []
  /-- Class-3 buffer flits not given back while a full staging area keeps a packet of this port waiting (R463). -/
  withheld : Nat := 0
  overTemp : Bool := false
  everSettled : Bool := false
  deriving DecidableEq, Repr

/-- A fabric transaction record (Table 13-2): its packet, times sent, and its descriptor. -/
structure FabRec where
  txn : Nat
  gen : Nat
  packet : Packet
  sends : Nat
  waiting : Bool
  failures : Nat
  /-- Held by the receiver's caravan hold (R335). -/
  heldBy : Bool
  ring : Nat
  index : Nat
  resent : Bool
  /-- When the packet was last sent, or last failed (R481). -/
  sentAt : Nat
  deriving DecidableEq, Repr

/-- What a remote completion says of a descriptor (R105): its status, mask, detail code and DETAIL, and whether a packet on
the way came with RETRIED. -/
structure Answer where
  status : Nat
  mask : Nat
  dcode : Nat
  detail : Nat
  retried : Bool
  deriving DecidableEq, Repr

/-- A MEM_COPY of another node that this node carries out (R105, R358): its issuer's node, transaction record and
generation, the address space, its descriptor, the source bytes asked for so far, and whether it came with RETRIED. -/
structure RemoteCopy where
  src : Nat
  txn : Nat
  gen : Nat
  space : Nat
  raw : List Byte
  asked : Nat
  retried : Bool
  deriving DecidableEq, Repr

/-! ## Collectives -/

/-- A block on the wire (Table 12-3): its bytes, and whether it is a BF16 escape. -/
structure WireBlock where
  bytes : List Byte
  esc : Bool
  deriving DecidableEq, Repr

/-- What a member has ready to send in one step of a direction (Table 12-2): blocks not yet sent, and what a summary says
(R461). -/
structure OutStep where
  step : Nat
  blocks : List WireBlock
  value : Nat := 0
  esc : Bool := false
  deriving DecidableEq, Repr

/-- One direction's sending: the step it stands at, the blocks of that step already sent, and what is ready. -/
structure Lane where
  step : Nat := 0
  first : Nat := 0
  ready : List OutStep := []
  deriving DecidableEq, Repr

/-- A partial sum of one half at the owner of the chunk, in order of arrival (R448, R449): block within the chunk, FP32
codes, and whether it came as a BF16 escape. -/
structure Half where
  block : Nat
  clockwise : Bool
  values : List Nat
  esc : Bool
  /-- Its place in the staging area, while ordered mode holds it there (R449, R463). -/
  place : Option Nat := none
  deriving DecidableEq, Repr

/-- An open bucket (R452). -/
structure Bucket where
  fn : Nat
  group : Nat
  bucket : Nat
  ring : Nat
  index : Nat
  cring : Nat
  kind : Nat
  mx : Bool
  ordered : Bool
  elements : Nat
  n : Nat
  pos : Nat
  next : Nat
  prev : Nat
  nextPort : Nat
  prevPort : Nat
  wdog : Nat
  /-- GROWTH of its group (Table 12-1). -/
  growth : Nat := 0
  stepNo : Nat
  /-- Agreed tensor scale (FP32 code). -/
  tscale : Nat
  /-- The local contribution as FP32 codes, and those of the blocks of the result known so far, by block (R450). -/
  own : List Nat
  result : Tab (List Nat) := []
  /-- A pre-pass runs, and its packets received; packets that wait for its end (R458). -/
  prepass : Bool := false
  passSeen : Nat := 0
  waiting : List Packet := []
  /-- The two directions' sending, the partial sums at the owner, the chunks finished, and the chunk magnitudes of the
  summaries (R460, R461). -/
  cw : Lane := {}
  ccw : Lane := {}
  partials : List Half := []
  gotChunks : List Nat := []
  summaries : List (Nat × Nat) := []
  /-- Blocks escaped here; whether a block of the own chunk, and of the bucket, escaped. -/
  escapes : Nat := 0
  chunkEsc : Bool := false
  anyEscape : Bool := false
  /-- The result buffer is written. -/
  written : Bool := false
  progressAt : Nat := 0
  deadline : Nat := 0
  /-- R466 is met; its completion record is not posted yet. -/
  met : Bool := false
  /-- A packet of the bucket came with RETRIED (R425), and a withdraw has come (R471). -/
  resent : Bool := false
  gotWithdraw : Bool := false
  /-- A scale-mismatch event has been written (R456), and number of its transaction record. -/
  warned : Bool := false
  record : Nat := 0
  sendCw : List Byte := []
  sendCcw : List Byte := []
  recvCw : List Byte := []
  recvCcw : List Byte := []
  deriving DecidableEq, Repr

/-- What the device keeps of a group's buckets (R464, R471): highest number dispatched, and closed marks, each with the
reason of a withdraw that came before the bucket was dispatched (0 for none), and whether a withdraw has come. -/
structure ColGroup where
  fn : Nat
  group : Nat
  highest : Option Nat
  closed : List (Nat × Nat × Bool)
  deriving DecidableEq, Repr

/-! ## Functions -/

/-- A 64 KiB unit captured before its first write in a step (R493): its address and the bytes that differ from 0. -/
structure Captured where
  unit : Nat
  collective : Bool
  cells : Tab Byte
  deriving DecidableEq, Repr

/-- An entry of the step log (R492). -/
structure LogEntry where
  ring : Nat
  index : Nat
  raw : List Byte
  /-- Completed before a rollback with a success-class status. -/
  ok : Bool
  openBucket : Bool
  /-- Its descriptor read a granule whose recovery rolled the step back (R368). -/
  recovered : Bool := false
  deriving DecidableEq, Repr

/-- What the device keeps for one function beside its registers. -/
structure FnState where
  defaultRing : Option Nat := none
  everDefault : Bool := false
  lost : Nat := 0
  lostFirst : Nat := 0
  lostLast : Nat := 0
  stepSince : Nat := 0
  gradWrite : Bool := false
  zeroWrite : Bool := false
  zeroGroup : Nat := 0
  probeGroups : List Nat := []
  colGroups : List Nat := []
  /-- Step records: open, log, captured units, counter image (R491–R493). -/
  recOpen : Bool := false
  log : List LogEntry := []
  undo : List Captured := []
  counterImage : List (Nat × Counter) := []
  /-- Rollback in progress: entries of the log still to dispatch again; waits for RESUME (R496, R497). -/
  replaying : List LogEntry := []
  replayActive : Bool := false
  /-- An oasis failure on this ring awaits its next FENCE (R177), with group and units. -/
  oasisFail : Option (Nat × Nat × Nat × Bool) := none
  /-- A rollback waits for the function's SNAPSHOTs (R495): its cause, and whether the log then waits for RESUME. -/
  rollWait : Option (Nat × Bool) := none
  restoring : Bool := false
  staged : List (Nat × Packet) := []
  deriving DecidableEq, Repr

/-! ## Power, clocks, telemetry -/

/-- A telemetry converter (Table 14-12). -/
structure Tadc where
  /-- A pass or its delay runs: entries still to convert. -/
  delaying : Bool := false
  pass : List Nat := []
  converting : Option Nat := none
  /-- Urgent channels in order; the first is in conversion. -/
  urgent : List Nat := []
  edges : Nat := 0
  passRunning : Bool := false
  /-- The converter that runs the pass (R547), when the delay began, when the timer last triggered (R542), and when the last edge of
  VR_SYNC came or TADC_CTL was written (R543). -/
  runs : Nat := 0
  delayAt : Nat := 0
  timerAt : Nat := 0
  edgeAt : Nat := 0
  deriving DecidableEq, Repr

/-- Power, clock and thermal state that no register holds whole. -/
structure Power where
  vrAlertLow : Bool := false
  stretch : Nat := 8
  ramping : Bool := false
  governor : Nat := 8
  calmMs : Nat := 0
  lastCoreResult : Option Nat := none
  sagHold : Bool := false
  sagSince : Nat := 0
  pllHold : List Pll := []
  settled : Bool := false
  sscCmp : Nat := 0x1E00
  sscNet : Nat := 0x1E00
  avsPendingA : Option Nat := none
  avsPendingB : Option Nat := none
  oeWarm : List Nat := []
  /-- Latches: THERMTRIP# asserted, stopped under R621, PLL_MGT lost. -/
  thermtrip : Bool := false
  railStop : Bool := false
  mgtLost : Bool := false
  hostLost : Bool := false
  scalRunning : Bool := false
  scalFirst : Bool := false
  scalAtStart : Bool := false
  /-- A self-calibration waits for TADC4 to hand back the passes it holds (R548). -/
  scalWaits : Bool := false
  bgConv : Nat := 0
  bgStopped : Bool := false
  /-- The converter that TADC4 stands in for during its background calibration, and since when (R547). -/
  bgStand : Option Nat := none
  bgSince : Nat := 0
  /-- When the next step of the stretch's ramp is due (R520), and when each PLL in hold lost its lock (R537). -/
  rampAt : Nat := 0
  pllAt : List (Pll × Nat) := []
  deriving DecidableEq, Repr

/-! ## Start, flash, fuses, security -/

/-- Where the start stands (R558). -/
inductive StartPhase where
  | reset | stage0 | heldAt0 | stage1 | stage2 | stage3 | broadcast | stage4 | done | halted
  deriving DecidableEq, Repr

/-- The start. -/
structure Start where
  perst : Bool := true
  phase : StartPhase := .reset
  cause : Nat := 0
  configReady : Bool := false
  boardOk : Bool := false
  hold0 : Bool := false
  mtest : Bool := false
  /-- MTEST as Stage 3 took it. -/
  mtestUsed : Bool := false
  testHold : Bool := false
  pmbusAddr : List Nat := []
  avsRails : Nat := 0
  booted : Option Nat := none
  recovery : Bool := false
  fallback : Bool := false
  /-- Physical cell of a logical cell, and physical block of a logical block, where not the same position. -/
  cellMap : Tab Nat := []
  blockMap : Tab Nat := []
  straps : Straps := ⟨0, 0, false⟩
  deriving DecidableEq, Repr

/-- A signed repair record copy in boot flash (Table 6-6). -/
structure RepairRecord where
  magic : Nat := 0x52525456
  version : Nat := 1
  sequence : Nat
  entries : List Repair
  device : List Byte
  signature : List Byte
  deriving DecidableEq, Repr

/-- An image slot of boot flash: the image bytes up to the trailer, and BOOTSEQ when the trailer's MAGIC holds. -/
structure ImageSlot where
  image : List Byte := []
  bootseq : Option Nat := none
  deriving DecidableEq, Repr

/-- What survives a loss of power: fuses, boot flash, and the resistive wear and journal rows (R515). -/
structure NonVolatile where
  /-- Yield map: defective physical blocks (9 × region + block) and cells (Table 6-7 numbering). -/
  badBlocks : List Nat := []
  badCells : List Nat := []
  factory : List Repair := []
  journal : List Repair := []
  record0 : Option RepairRecord := none
  record1 : Option RepairRecord := none
  wearStored : Tab Nat := []
  keyHash : List (List Byte) := []
  keyRevoke : Nat := 0
  arbCount : Nat := 0
  idSeed : List Byte := []
  dbgLocked : Bool := false
  dbgRetired : Bool := false
  slotA : ImageSlot := {}
  slotB : ImageSlot := {}
  certChain : List Byte := []
  /-- Temperature slopes in code steps per 1/16 °C × 2^−16, under 67 × physical cell + converter, or + 65 + leaf (R240). -/
  slopes : Tab Int := []
  deriving DecidableEq, Repr

/-- Security engine state (Tables 16-8 to 16-10). -/
structure Sec where
  vendor : Bool := false
  nonce : List Byte := []
  staging : Option (List Byte) := none
  activating : Bool := false
  running : List (List Byte) := []
  runSvn : Nat := 0
  runKey : Nat := 0
  deriving DecidableEq, Repr

/-- The test access port: the instruction in force. -/
structure Tap where
  instruction : JtagOp := .idcode
  deriving DecidableEq, Repr

/-- A BAR4 access that waits for a stack in the critical state or for a segment whose mode is being changed (R344, R372). -/
structure HeldAccess where
  fn : Nat
  addr : Nat
  access : Access
  deriving DecidableEq, Repr

/-! ## The whole device -/

/-- The state of the VT2. -/
structure State where
  /-- The commands waiting, first in first out. -/
  pending : List Instr
  /-- Device time: management-clock cycles since PERST# release, 64 bits. -/
  time : Nat
  /-- The model's own counter of free values drawn. -/
  free : Nat
  /-- What the device has sent, newest first. -/
  out : List Out
  /-- The registers, under `regKey`; an unlisted one holds its reset value. -/
  regs : Tab Nat
  heldLow : Tab Nat
  shadow : Tab Nat
  /-- BAR4 accesses that wait, in arrival order. -/
  heldAccess : List HeldAccess
  start : Start
  nv : NonVolatile
  transom : Transom
  startLog : List EvRec
  startLost : Nat
  startLostFirst : Nat
  startLostLast : Nat
  /-- Forwarding windows of alarms: class, port, count of occurrences since, and when the window began (R508). -/
  alarmWin : List (Nat × Nat × Nat × Nat)
  /-- MSI-X vectors unmasked: function and vector; every other one is masked (PRESUMED, log entry 8). -/
  msixOpen : List (Nat × Nat)
  msixPending : List (Nat × Nat)
  /-- VF Enable: NumVFs, 0 when clear. -/
  numVfs : Nat
  /-- Size of BAR4 by function, as a power of two (R40). -/
  bar4Log : Tab Nat
  fns : Tab FnState
  rings : Tab Ring
  counters : Tab Counter
  groupPtr : Nat
  credits : Tab Nat
  ringPtrs : Tab Nat
  vecPlacePtr : Nat
  work : List Work
  nextOrder : Nat
  mem : Tab Byte
  hostMem : Tab Byte
  /-- By granule (stack × 2^28 + granule), a mask of the sectors whose check is in the detection class; erroneous bytes by
  sector (stack × 2^31 + sector); and, by granule of the detection class, the descriptor that last wrote it (ring and index,
  R368). -/
  detect : Tab Nat
  bad : Tab Nat
  writers : Tab (Nat × Nat)
  /-- Errors about to strike a unit. -/
  upsets : List Upset
  /-- Cache lines under stack × 2^28 + granule, and the model's own count of requests, which orders their ages. -/
  lines : Tab Line
  useClock : Nat
  tlbs : List Tlb
  /-- Functions whose ATS capability is enabled; translations obtained from the host: function, 4 KiB page untranslated and
  translated, newest first (R77); and host pages of 4 KiB whose reads return an error (R379). -/
  atsOn : List Nat
  ats : List (Nat × Nat × Nat)
  hostErr : List Nat
  inval : Option Inval
  mapBusy : Option (Nat × Nat)
  oasis : List WideCopy
  oasisPtr : Nat
  tags : List TagEntry
  hbm : Tab Stack
  cells : Tab Cell
  blocks : Tab Block
  regions : Tab Region
  ports : Tab Port
  fabricPtr : Nat
  routes : Tab Nat
  fabRecs : List FabRec
  /-- Packets received whole and not yet routed, with their port; packets delivered here that have not been acted on, with
  their port (8 for the mesh); and the copies carried out for other nodes. -/
  arrived : List (Nat × Packet)
  inbox : List (Nat × Packet)
  remotes : List RemoteCopy
  /-- Remote atomics carried out: source node, record and generation, with the answer, so that a resend is applied once
  (R482). -/
  answered : List (Nat × Nat × Nat × Answer)
  buckets : List Bucket
  colGroups : List ColGroup
  /-- Numbers of the transaction records held, and generations by record number (R477). -/
  recs : List Nat
  recGen : Tab Nat
  failStop : Bool
  /-- When a maintenance slot was granted, by slot. -/
  leaseAt : Tab Nat
  noticeAt : List (Nat × Nat × Nat)
  power : Power
  tadcs : Tab Tadc
  sec : Sec
  tap : Tap
  deriving DecidableEq, Repr

/-- The device as it stands while PERST# is asserted after power-up: every register at its reset value, nothing listed in
memory, and the non-volatile stores `nv` as manufacture left them. -/
def State.atReset (nv : NonVolatile) : State where
  pending := []
  time := 0
  free := 0
  out := []
  regs := []
  heldLow := []
  shadow := []
  heldAccess := []
  start := {}
  nv := nv
  transom := {}
  startLog := []
  startLost := 0
  startLostFirst := 0
  startLostLast := 0
  alarmWin := []
  msixOpen := []
  msixPending := []
  numVfs := 0
  bar4Log := []
  fns := []
  rings := []
  counters := []
  groupPtr := 0
  credits := []
  ringPtrs := []
  vecPlacePtr := 0
  work := []
  nextOrder := 0
  mem := []
  hostMem := []
  detect := []
  bad := []
  writers := []
  upsets := []
  lines := []
  useClock := 0
  tlbs := []
  atsOn := []
  ats := []
  hostErr := []
  inval := none
  mapBusy := none
  oasis := []
  oasisPtr := 0
  tags := []
  hbm := []
  cells := []
  blocks := []
  regions := []
  ports := []
  fabricPtr := 0
  routes := []
  fabRecs := []
  arrived := []
  inbox := []
  remotes := []
  answered := []
  buckets := []
  colGroups := []
  recs := []
  recGen := []
  failStop := false
  leaseAt := []
  noticeAt := []
  power := {}
  tadcs := []
  sec := {}
  tap := {}

/-- The machine right after reset: PERST# asserted, fuses unblown and boot flash empty (DESIGN CHOICE, log entry 1). -/
def State.reset : State := State.atReset {}

end Sys2Proof.Machine
end

