-- ==== Sys2Proof/Machine/Ops.lean ====
section
/-! DEFINITION. The named operations over the registers, the tables of like things, the messages the device sends, and the
reporting paths: interrupts, events and alarms. -/

namespace Sys2Proof.Machine

/-! ## Registers -/

/-- A register by its name and indices. -/
abbrev rid (n : RegName) (i : Nat := 0) (j : Nat := 0) : RegId := ⟨n, i, j⟩

/-- The value a register holds. -/
def getReg (s : State) (r : RegId) : Nat := Tab.get (regReset r).toNat s.regs (regKey r)

/-- A register set to a value. -/
def setReg (s : State) (r : RegId) (v : Nat) : State :=
  { s with regs := Tab.set (regReset r).toNat s.regs (regKey r) (v % 2 ^ 32) }

/-- A field of a register. -/
def getFld (s : State) (r : RegId) (lo w : Nat) : Nat := field (getReg s r) lo w

/-- A field of a register set. -/
def setFld (s : State) (r : RegId) (lo w v : Nat) : State := setReg s r (setField (getReg s r) lo w v)

/-- A counting field of a register raised by `n`, saturating. -/
def addFld (s : State) (r : RegId) (lo w n : Nat) : State := setFld s r lo w (satAdd w (getFld s r lo w) n)

/-- One bit of a register. -/
def getBit (s : State) (r : RegId) (b : Nat) : Bool := flag (getReg s r) b

/-- One bit of a register set. -/
def setBit (s : State) (r : RegId) (b : Nat) (v : Bool) : State := setFld s r b 1 (bit v)

/-- The value of a register pair (R46). -/
def getPair (s : State) (lo hi : RegName) (i : Nat := 0) (j : Nat := 0) : Nat :=
  getReg s (rid lo i j) + getReg s (rid hi i j) * 2 ^ 32

/-! ## Tables of like things -/

/-- A ring. -/
def getRing (s : State) (n : Nat) : Ring := Tab.get {} s.rings n
/-- A ring changed. -/
def updRing (s : State) (n : Nat) (f : Ring → Ring) : State := { s with rings := Tab.upd {} s.rings n f }
/-- What the device keeps of a function. -/
def getFn (s : State) (n : Nat) : FnState := Tab.get {} s.fns n
/-- A function's state changed. -/
def updFn (s : State) (n : Nat) (f : FnState → FnState) : State := { s with fns := Tab.upd {} s.fns n f }
/-- A completion counter. -/
def getCtr (s : State) (n : Nat) : Counter := Tab.get {} s.counters n
/-- A counter set. -/
def setCtr (s : State) (n : Nat) (c : Counter) : State := { s with counters := Tab.set {} s.counters n c }
/-- A cell. -/
def getCell (s : State) (n : Nat) : Cell := Tab.get {} s.cells n
/-- A cell changed. -/
def updCell (s : State) (n : Nat) (f : Cell → Cell) : State := { s with cells := Tab.upd {} s.cells n f }
/-- A block. -/
def getBlock (s : State) (n : Nat) : Block := Tab.get {} s.blocks n
/-- A block changed. -/
def updBlock (s : State) (n : Nat) (f : Block → Block) : State := { s with blocks := Tab.upd {} s.blocks n f }
/-- A region. -/
def getRegion (s : State) (n : Nat) : Region := Tab.get {} s.regions n
/-- A region changed. -/
def updRegion (s : State) (n : Nat) (f : Region → Region) : State := { s with regions := Tab.upd {} s.regions n f }
/-- A stack. -/
def getStack (s : State) (n : Nat) : Stack := Tab.get {} s.hbm n
/-- A stack changed. -/
def updStack (s : State) (n : Nat) (f : Stack → Stack) : State := { s with hbm := Tab.upd {} s.hbm n f }
/-- A port. -/
def getPort (s : State) (n : Nat) : Port := Tab.get {} s.ports n
/-- A port changed. -/
def updPort (s : State) (n : Nat) (f : Port → Port) : State := { s with ports := Tab.upd {} s.ports n f }
/-- A telemetry converter. -/
def getTadc (s : State) (n : Nat) : Tadc := Tab.get {} s.tadcs n
/-- A telemetry converter changed. -/
def updTadc (s : State) (n : Nat) (f : Tadc → Tadc) : State := { s with tadcs := Tab.upd {} s.tadcs n f }
/-- One leaf of a cell. -/
def Cell.leaf (c : Cell) : Leaf → LeafRec
  | .a => c.leafA
  | .b => c.leafB
/-- One leaf of a cell changed. -/
def Cell.updLeaf (c : Cell) (l : Leaf) (f : LeafRec → LeafRec) : Cell :=
  match l with
  | .a => { c with leafA := f c.leafA }
  | .b => { c with leafB := f c.leafB }
/-- The leaf a bit names: 0 A, 1 B. -/
def leafOf (n : Nat) : Leaf := if n % 2 = 0 then .a else .b
/-- The bit of a leaf. -/
def leafBit : Leaf → Nat
  | .a => 0
  | .b => 1

/-! ## The device as a whole -/

/-- Whether the device works at all: PERST# released, THERMTRIP# not asserted, no rail lost (R533, R537, R556, R621). -/
def live (s : State) : Bool :=
  !s.start.perst && !s.power.thermtrip && !s.power.railStop && !s.power.mgtLost

/-- Whether the host reaches the device: it is live, its configuration space is ready (R560) and its link clock runs. -/
def hostLive (s : State) : Bool := live s && s.start.configReady && !s.power.hostLost

/-- A value drawn from the free values (DESIGN CHOICE, log entry 3): the number of the draw, and the state with the
draw counted. -/
def draw (s : State) : Nat × State := (s.free, { s with free := s.free + 1 })

/-! ## Messages -/

/-- A message sent. -/
def send (s : State) (o : Out) : State := { s with out := o :: s.out }

/-- A posted write to host memory by a function. -/
def hostWrite (s : State) (fn addr : Nat) (bytes : List Byte) : State :=
  send { s with hostMem := Tab.setN 0#8 s.hostMem addr bytes } (.hostWrite fn addr bytes)

/-- An MSI-X message: held pending while its vector is masked (R13). -/
def msix (s : State) (fn vector : Nat) : State :=
  if (fn, vector) ∈ s.msixOpen then send s (.msix fn vector)
  else if (fn, vector) ∈ s.msixPending then s
  else { s with msixPending := (fn, vector) :: s.msixPending }

/-! ## The fabric link (R415–R423): flits out of a port -/

/-- CRC-32 with the reflected polynomial of 0x1EDC_6F41, one byte (R416). -/
def crcBits : Nat → Nat → Nat
  | 0, c => c
  | k + 1, c => crcBits k (if c % 2 = 1 then (c / 2) ^^^ 0x82F63B78 else c / 2)

/-- CRC-32 of some bytes (R416). -/
def crc32 (bs : List Byte) : Nat :=
  (bs.foldl (fun c b => crcBits 8 (c ^^^ b.toNat)) 0xFFFFFFFF) ^^^ 0xFFFFFFFF

/-- The class of a packet type (Table 11-5); none for an unknown type (R422). -/
def packetClass (t : Nat) : Option Nat :=
  if t = 0x01 then some 0
  else if 0x10 ≤ t ∧ t ≤ 0x15 then some 1
  else if 0x20 ≤ t ∧ t ≤ 0x23 then some 2
  else if t = 0x30 then some 3
  else if t = 0x40 then some 4
  else none

/-- The bytes of a packet: the header of Table 11-4 and what follows it (R421). -/
def packetBytes (p : Packet) : List Byte :=
  leBytes 2 p.dst ++ leBytes 2 p.src ++ leBytes 2 p.srcEpoch ++ leBytes 1 p.type
    ++ leBytes 1 (p.hops % 32 + 32 * bit p.retried) ++ leBytes 4 (p.txn % 2 ^ 20 + p.gen % 2 ^ 12 * 2 ^ 20)
    ++ leBytes 2 p.payload.length ++ leBytes 2 p.typeWord ++ p.payload

/-- The packet some bytes spell. -/
def packetOf (bs : List Byte) : Packet :=
  { dst := leAt bs 0 2, src := leAt bs 2 2, srcEpoch := leAt bs 4 2, type := leAt bs 6 1,
    hops := leAt bs 7 1 % 32, retried := flag (leAt bs 7 1) 5,
    txn := leAt bs 8 4 % 2 ^ 20, gen := leAt bs 8 4 / 2 ^ 20, typeWord := leAt bs 14 2,
    payload := (bs.drop 16).take (leAt bs 12 2) }

/-- The flits of a packet: 244 bytes each, marked first and last (R421, Table 11-3). -/
def packetFlits (p : Packet) (tag : Option (Nat × Nat × Nat)) : List TxFlit :=
  let parts := runs 244 (packetBytes p)
  (List.range parts.length).map fun i =>
    { cls := (packetClass p.type).getD 1, first := i == 0, last := i + 1 == parts.length,
      payload := padTo 244 (parts.getD i []), tag := tag }

/-- Bytes 0–251 of a flit and its CRC (Table 11-3). The ACK word names the last packet flit accepted. -/
def flitBytes (type flags seq ack credit : Nat) (payload : List Byte) : List Byte :=
  let body := leBytes 1 type ++ leBytes 1 flags ++ leBytes 2 seq ++ leBytes 2 ack ++ leBytes 2 credit ++ padTo 244 payload
  body ++ leBytes 4 (crc32 body)

/-- The ACK word a port sends: the last packet flit accepted, valid (R418). -/
def ackWord (p : Port) : Nat := (p.expected + 4095) % 4096 + 2 ^ 15

/-- The class whose freed buffers the next flit reports, with its count (Table 11-3). -/
def creditWord (p : Port) : Nat :=
  match p.freed with
  | [] => 0
  | (c, n) :: _ => min n 4095 + c * 2 ^ 12 + 2 ^ 15

/-- A flit sent from a port, carrying the port's acknowledgement and one class's credits. -/
def sendFlit (s : State) (port type flags seq : Nat) (payload : List Byte) : State :=
  let p := getPort s port
  let s := send s (.flit port (flitBytes type flags seq (ackWord p) (creditWord p) payload))
  updPort s port fun p => { p with freed := p.freed.drop 1, sinceAck := 0 }

/-- A packet flit sent: numbered, kept in the replay buffer (R417). -/
def sendPacketFlit (s : State) (port : Nat) (f : TxFlit) : State :=
  let p := getPort s port
  let flags := f.cls + 8 * bit f.first + 16 * bit f.last
  let s := sendFlit s port 1 flags p.nextSeq f.payload
  updPort s port fun q =>
    { q with nextSeq := (p.nextSeq + 1) % 4096,
             ackAt := if q.replay.isEmpty then s.time else q.ackAt,
             replay := q.replay ++ [{ seq := p.nextSeq, cls := f.cls, first := f.first, last := f.last, payload := f.payload, sends := 1, tag := f.tag }],
             credits := Tab.upd 0 q.credits f.cls (· - 1) }

/-- Take the first waiting flit of a class out of a queue. -/
def takeClass (cls : Nat) : List TxFlit → Option (TxFlit × List TxFlit)
  | [] => none
  | f :: fs =>
    if f.cls = cls then some (f, fs)
    else match takeClass cls fs with
      | some (g, gs) => some (g, f :: gs)
      | none => none

/-- The weight in flits of class 2, 3 or 4 (Table 11-12). -/
def classWeight (s : State) (port cls : Nat) : Nat := getFld s (rid .portClassCfg port) (8 * (cls - 2)) 8

/-- Whether a class has a flit waiting and a credit for it (R420). -/
def classReady (p : Port) (cls : Nat) : Bool :=
  (p.queue.any fun f => f.cls == cls) && decide (0 < Tab.get 0 p.credits cls)

/-- The class a port serves next (R423), and whether a new round starts. -/
def nextClass (s : State) (port : Nat) : Option (Nat × Bool) :=
  let p := getPort s port
  if classReady p 0 then some (0, false)
  else if classReady p 1 then some (1, false)
  else
    let req (fresh : Bool) (c : Nat) : Bool :=
      decide (2 ≤ c) && classReady p c && (fresh || decide (Tab.get 0 p.round c < classWeight s port c))
    match grantFrom (req false) 5 p.clsPtr with
    | some c => some (c, false)
    | none => (grantFrom (req true) 5 p.clsPtr).map fun c => (c, true)

/-- Send waiting flits while a class may send and the replay buffer has room (R417, R420, R423); at most `fuel` flits. -/
def pumpPort (port : Nat) : Nat → State → State
  | 0, s => s
  | fuel + 1, s =>
    let p := getPort s port
    if p.state ≠ .up ∨ 1024 ≤ p.replay.length then s
    else match nextClass s port with
      | none => s
      | some (c, fresh) =>
        match takeClass c p.queue with
        | none => s
        | some (f, rest) =>
          let s := updPort s port fun q => { q with
            queue := rest
            clsPtr := (c + 1) % 5
            round := if c < 2 then q.round else Tab.upd 0 (if fresh then [] else q.round) c (· + 1) }
          pumpPort port fuel (sendPacketFlit s port f)

/-- Send what a port may send now. -/
def pump (s : State) (port : Nat) : State := pumpPort port (getPort s port).queue.length s

/-- A packet put into a port's queue, and what may be sent sent. -/
def enqueue (s : State) (port : Nat) (p : Packet) (tag : Option (Nat × Nat × Nat) := none) : State :=
  pump (updPort s port fun q => { q with queue := q.queue ++ packetFlits p tag }) port

/-- Whether a port is usable (R427): UP, or TRAINING after link loss. -/
def portUsable (s : State) (port : Nat) : Bool :=
  let p := getPort s port
  p.state == .up || (p.state == .training && p.wasUp)

/-- The port a packet to a node leaves on (R427). -/
def routePort (s : State) (node : Nat) : Option Nat :=
  let e := Tab.get 0 s.routes node
  if flag e 3 && portUsable s (field e 0 3) then some (field e 0 3)
  else if flag e 7 && portUsable s (field e 4 3) then some (field e 4 3)
  else none

/-- The local node identifier (Table 11-8). -/
def nodeId (s : State) : Nat := getFld s (rid .fabNodeId) 0 16

/-- The ports that are UP. -/
def upPorts (s : State) : List Nat := (List.range 8).filter fun p => (getPort s p).state == .up

/-- Packets that leave on every UP port: the device fabric transmit arbiter issues them to the ports in turn (R34, Table
1-8). -/
def onPorts (s : State) (f : State → Nat → State) : State :=
  let ps := upPorts s
  (ps.filter (decide <| s.fabricPtr ≤ ·) ++ ps.filter (decide <| · < s.fabricPtr)).foldl
    (fun s p => f { s with fabricPtr := (p + 1) % 8 } p) s

/-- A packet of this device: source, epoch and 16 hops filled in (Table 11-4). -/
def ownPacket (s : State) (dst type : Nat) (payload : List Byte) : Packet :=
  { dst := dst, src := nodeId s, srcEpoch := getFld s (rid .fabNodeEpoch) 0 16, type := type, hops := 16,
    retried := false, txn := 0, gen := 0, typeWord := 0, payload := payload }

/-- A packet of this device sent to its destination: through the mesh when that is this node (R433), else out of its port;
none where no route is usable. -/
def dispatchPacket (s : State) (p : Packet) : Option State :=
  if p.dst = nodeId s then some (send s (.loopback p))
  else (routePort s p.dst).map fun port => enqueue s port p

/-- A notice or a completion sent where a route allows, else lost. -/
def sendIfRouted (s : State) (p : Packet) : State := (dispatchPacket s p).getD s

/-! ## Alarms (R11–R13, R507, R508) -/

/-- The count of an alarm class. -/
def alarmCount (s : State) (c : Nat) : Nat := getFld s (rid .hubAlarmCnt (c / 2)) (16 * (c % 2)) 16

/-- Whether an alarm class is latched. -/
def alarmLatched (s : State) (c : Nat) : Bool := getBit s (rid .hubAlarmStat (c / 32)) (c % 32)

/-- The alarm packet of a class: class, count and device time in 16 bytes (R508). The place of the three in the
payload is the model's choice (DESIGN CHOICE, log entry 9). -/
def alarmPacket (s : State) (c n : Nat) : Packet :=
  ownPacket s 0xFFFF 0x01 (leBytes 1 c ++ leBytes 1 0 ++ leBytes 2 n ++ leBytes 4 0 ++ leBytes 8 s.time)

/-- An alarm packet sent out of one port: to the node recorded there. -/
def sendAlarm (s : State) (c port n : Nat) : State :=
  enqueue s port { alarmPacket s c n with dst := getFld s (rid .portPeer port) 0 16 }

/-- Forwarding one occurrence on one port: at most one packet in 1 ms, the rest counted (R508). -/
def forwardAlarm (c : Nat) (s : State) (port : Nat) : State :=
  if s.alarmWin.any fun w => w.1 == c && w.2.1 == port then
    { s with alarmWin := s.alarmWin.map fun w =>
        if w.1 == c && w.2.1 == port then (w.1, w.2.1, satAdd 16 w.2.2.1 1, w.2.2.2) else w }
  else
    sendAlarm { s with alarmWin := s.alarmWin ++ [(c, port, 0, s.time)] } c port 1

/-- An occurrence of an alarm class: latched with count 1 and signalled when unmasked, or counted (R11, R13, R507). -/
def latchAlarm (s : State) (c : Nat) : State :=
  if alarmLatched s c then addFld s (rid .hubAlarmCnt (c / 2)) (16 * (c % 2)) 16 1
  else
    let s := setBit s (rid .hubAlarmStat (c / 32)) (c % 32) true
    let s := setFld s (rid .hubAlarmCnt (c / 2)) (16 * (c % 2)) 16 1
    if getBit s (rid .hubAlarmMask (c / 32)) (c % 32) then s else msix s 0 0

/-- An occurrence of an alarm class of this device: latched or counted, and forwarded where enabled (R508). -/
def raiseAlarm (s : State) (c : Nat) : State :=
  let s := latchAlarm s c
  if getBit s (rid .hubAlarmFwd (c / 32)) (c % 32) then onPorts s (forwardAlarm c) else s

/-- ALARM#: asserted while any unmasked alarm is latched (R13). -/
def alarmPin (s : State) : Bool :=
  (List.range 48).any fun c => alarmLatched s c && !getBit s (rid .hubAlarmMask (c / 32)) (c % 32)

/-! ## Records in rings -/

/-- Entries a ring holds. -/
def Ring.size (r : Ring) : Nat := 2 ^ r.ctx.log2Size

/-- Free entries of a completion or event ring by the host's consumer index last read. -/
def Ring.room (r : Ring) : Nat := r.size - (r.prod + 2 ^ 32 - r.cons) % 2 ^ 32

/-- The starting index a LOAD set: for an event ring without its default mark (R630). -/
def Ring.init (r : Ring) : Nat := if r.ctx.type = .event then r.ctx.initIdx % 2 ^ 31 else r.ctx.initIdx

/-- The phase bit of the record at the producer index (R120). -/
def Ring.phase (r : Ring) : Nat := 1 - ((r.prod + 2 ^ 32 - r.init) % 2 ^ 32 / r.size) % 2

/-- One record written to its ring, its vector signalled when due (R120, R125). -/
def postRecord (s : State) (ring width : Nat) (bytes : Nat → List Byte) (now : Bool) : State :=
  let r := getRing s ring
  let s := hostWrite s r.fn (r.ctx.base + width * (r.prod % r.size)) (bytes r.phase)
  let n := r.unsignalled + 1
  let fire := now || decide (max 1 r.ctx.modCount ≤ n)
  let s := updRing s ring fun r => { r with
    prod := (r.prod + 1) % 2 ^ 32, unsignalled := if fire then 0 else n
    firstAt := if r.unsignalled = 0 then s.time else r.firstAt }
  if fire then msix s r.fn r.ctx.vector else s

/-- The bytes of an event record (R121). -/
def eventBytes (e : EvRec) (phase : Nat) : List Byte :=
  leBytes 2 e.code ++ leBytes 2 e.srcType ++ leBytes 2 e.srcInst ++ leBytes 1 (phase + 2 * bit e.lost)
    ++ leBytes 1 e.fn ++ leBytes 8 e.time ++ padTo 16 e.detail

/-- The events-lost record of a ring (R15, Table 3-14). -/
def lostRecord (fn ring full rate first last : Nat) : EvRec :=
  { code := 0x00FF, srcType := 4, srcInst := ring, fn := fn, time := last, lost := true,
    detail := leBytes 4 full ++ leBytes 4 rate ++ leBytes 8 first }

/-- Write the events-lost record of a ring that owes one and has room (R15, R509), after its alarm (R10; DEDUCED, log entry
62). -/
def flushLost (s : State) (ring : Nat) : State :=
  let r := getRing s ring
  if r.state = .active ∧ 0 < r.lostFull + r.lostRate ∧ 0 < r.room then
    let s := raiseAlarm s 13
    let s := postRecord s ring 32 (eventBytes (lostRecord r.fn ring r.lostFull r.lostRate r.lostFirst r.lostLast)) false
    updRing s ring fun r => { r with lostFull := 0, lostRate := 0, lostFirst := 0, lostLast := 0 }
  else s

/-- The most events a source may place in an event ring per window (Table 3-3, R123). -/
def Ring.rate (r : Ring) : Nat := if r.ctx.rate = 0 then 64 else r.ctx.rate

/-- Whether an entry of the rate windows is the source's. -/
def RateWin.isFor (w : RateWin) (type inst : Nat) : Bool := w.srcType == type && w.srcInst == inst

/-- One more event of a source accepted in its window; its first one opens the window (R123; DEDUCED, log entry
62). -/
def countEvent (ws : List RateWin) (type inst time : Nat) : List RateWin :=
  if ws.any fun w => w.isFor type inst then
    ws.map fun w => if w.isFor type inst then { w with count := w.count + 1 } else w
  else ws ++ [{ srcType := type, srcInst := inst, since := time, count := 1 }]

/-- One more event of a source discarded by its rate (R123). -/
def dropEvent (ws : List RateWin) (type inst time : Nat) : List RateWin :=
  ws.map fun w =>
    if w.isFor type inst then
      { w with dropped := satAdd 32 w.dropped 1, first := if w.dropped = 0 then time else w.first, last := time }
    else w

/-- An event for an ACTIVE event ring: discarded by its source's rate (R123) or for want of room (R14), else written. -/
def placeEvent (s : State) (ring : Nat) (e : EvRec) : State :=
  let s := flushLost s ring
  let r := getRing s ring
  let n := ((r.windows.find? fun w => w.isFor e.srcType e.srcInst).map (·.count)).getD 0
  if r.rate ≤ n then
    updRing s ring fun r => { r with windows := dropEvent r.windows e.srcType e.srcInst s.time }
  else if r.room = 0 ∨ 0 < r.lostFull + r.lostRate then
    updRing s ring fun r => { r with
      lostFull := satAdd 32 r.lostFull 1
      lostFirst := if r.lostFull + r.lostRate = 0 then s.time else r.lostFirst
      lostLast := s.time }
  else
    let s := updRing s ring fun r => { r with windows := countEvent r.windows e.srcType e.srcInst s.time }
    postRecord s ring 32 (eventBytes e) e.irq

/-- Whether a ring is an ACTIVE event ring of a function. -/
def isEventRing (s : State) (fn ring : Nat) : Bool :=
  (getRing s ring).state == .active && (getRing s ring).ctx.type == .event && (getRing s ring).fn == fn

/-- An event of a function: to its default event ring; the PF keeps its events in the start log until it first loads one;
else it is counted as lost (R122, R565, R630). -/
def emitFn (s : State) (fn code type inst : Nat) (detail : List Byte) (irq : Bool := false) : State :=
  let e : EvRec :=
    { code := code, srcType := type, srcInst := inst, fn := fn, time := s.time, irq := irq, detail := detail }
  let f := getFn s fn
  match f.defaultRing.filter (isEventRing s fn) with
  | some r => placeEvent s r e
  | none =>
    if fn = 0 ∧ ¬ f.everDefault then
      if s.startLog.length < 256 then { s with startLog := s.startLog ++ [e] }
      else { s with startLost := satAdd 32 s.startLost 1,
                    startLostFirst := if s.startLost = 0 then s.time else s.startLostFirst, startLostLast := s.time }
    else
      updFn s fn fun f => { f with lost := satAdd 32 f.lost 1,
                                   lostFirst := if f.lost = 0 then s.time else f.lostFirst, lostLast := s.time }

/-- An event about a ring or one of its descriptors: to the EVT_RING of the ring's context when that is ACTIVE (R122,
R630). A DISABLED ring has no context. -/
def emitRing (s : State) (ring code type inst : Nat) (detail : List Byte) (irq : Bool := false) : State :=
  let r := getRing s ring
  if r.state ≠ .disabled ∧ (getRing s r.ctx.evtRing).state = .active ∧ (getRing s r.ctx.evtRing).ctx.type = .event then
    placeEvent s r.ctx.evtRing
      { code := code, srcType := type, srcInst := inst, fn := r.fn, time := s.time, irq := irq, detail := detail }
  else emitFn s r.fn code type inst detail irq

/-- The issuing ring of a remote descriptor is no ring of this device: it has this number. -/
def noRing : Nat := 65536

/-- An event about a descriptor: about its ring, or, for one of another node, an event of the function whose address space
it uses (R122; DEDUCED, log entry 62). -/
def emitDesc (s : State) (fn ring code type inst : Nat) (detail : List Byte) : State :=
  if ring = noRing then emitFn s fn code type inst detail else emitRing s ring code type inst detail

/-- An event of the hub for the PF. -/
def emitHub (s : State) (code : Nat) (detail : List Byte) : State := emitFn s 0 code 1 0 detail

/-! ## The Transom (R49–R62) -/

/-- The entries each stage appends, in order (Table 2-6). -/
def stageEntries (stage : Nat) (formats : List Nat) : List (Nat × Nat) :=
  let many (t n : Nat) : List (Nat × Nat) := (List.range n).map fun i => (t, i)
  if stage = 0 then [(1, 0)] ++ many 2 5 ++ many 3 64 ++ [(4, 0)] ++ (formats.map fun c => (5, c)) ++ [(6, 0)]
  else if stage = 1 then many 7 16 ++ many 8 128 ++ many 9 1024 ++ many 10 256 ++ many 11 128 ++ [(12, 0)]
  else if stage = 2 then many 13 16 ++ many 14 8
  else []

/-- The stage that adds an entry type (Table 2-6). -/
def entryStage (type : Nat) : Nat := if type ≤ 6 then 0 else if type ≤ 12 then 1 else 2

/-- The number under which an entry's status is kept. -/
def entryKey (type inst : Nat) : Nat := type * 65536 + inst

/-- An entry's status. -/
def getEntry (s : State) (type inst : Nat) : Entry := Tab.get {} s.transom.entries (entryKey type inst)

/-- An entry changed. -/
def updEntry (s : State) (type inst : Nat) (f : Entry → Entry) : State :=
  { s with transom := { s.transom with entries := Tab.upd {} s.transom.entries (entryKey type inst) f } }

/-- One odd-to-even span of the update sequence around a change, and its Transom-changed event (R56, R58; DESIGN
CHOICE, log entry 10). -/
def transomSpan (s : State) (f : State → State) : State :=
  let s := f s
  let q := (s.transom.seq + 2) % 2 ^ 32
  emitHub { s with transom := { s.transom with seq := q } } 0x0004 (leBytes 4 q)

/-- Whether an entry is PRESENT. -/
def present (s : State) (type inst : Nat) : Bool := (getEntry s type inst).present

/-- Whether a clock-enable index reads 1. -/
def clkEnabled (s : State) (idx : Nat) : Bool := getBit s (rid .hubClken (idx / 32)) (idx % 32)

/-- Whether the clock of an index runs. -/
def clkRuns (s : State) (idx : Nat) : Bool := getBit s (rid .hubClkst (idx / 32)) (idx % 32)

/-- Whether host accesses reach a register window: its enable reads 1, or it has none of its own (R65). -/
def windowOpen (s : State) (w : Nat × Nat) : Bool :=
  match clkIndex w.1 w.2 with
  | some i => clkEnabled s i
  | none => true

/-- Whether the table lists an entry now, so that its window is there. -/
def windowThere (s : State) (w : Nat × Nat) : Bool :=
  decide (entryStage w.1 < s.transom.appended) && (!s.start.recovery || decide (w = (1, 0)))

/-- Whether a block's clock enable reads 1 (R66). -/
def blockEnabled (s : State) (b : Nat) : Bool := clkEnabled s (32 + b)

end Sys2Proof.Machine
end

