-- ==== Sys2Proof/Machine/Operands.lean ====
section
/-! DEFINITION. Descriptors: the header of Table 3-9, the operand words of Table 3-12, the target levels and extensions of
Table 3-11, the header checks of R106 and R107, and who owns a ring or a counter (R80, R631). -/

namespace Sys2Proof.Machine

/-- The opcodes of Table 3-11. -/
inductive Op where
  | nop | ctrWrite | eventMark | ringKick | leafProgram | leafReadback | tileEvaluate | dmuProduct | dmuPair
  | vectorProgram | memCopy | memAtomic | collectiveStep | updateStep | snapshot | snapshotRestore
  deriving DecidableEq, Repr

/-- The opcode a code names (Table 3-11, R110). -/
def opOf (code : Nat) : Option Op :=
  match code with
  | 0x00 => some .nop | 0x01 => some .ctrWrite | 0x02 => some .eventMark | 0x03 => some .ringKick
  | 0x10 => some .leafProgram | 0x11 => some .leafReadback | 0x12 => some .tileEvaluate
  | 0x20 => some .dmuProduct | 0x21 => some .dmuPair | 0x28 => some .vectorProgram
  | 0x30 => some .memCopy | 0x31 => some .memAtomic | 0x38 => some .collectiveStep
  | 0x40 => some .updateStep | 0x48 => some .snapshot | 0x49 => some .snapshotRestore
  | _ => none

/-- The target levels an opcode allows (Table 3-11). -/
def opLevels : Op → List Nat
  | .leafProgram | .leafReadback | .tileEvaluate => [3]
  | .dmuProduct | .dmuPair => [2]
  | .vectorProgram => [0, 2]
  | .memCopy | .memAtomic => [0, 1]
  | .updateStep => [1]
  | _ => [0]

/-- Whether an opcode may take an extension, and whether it must (Table 3-11). -/
def opExt : Op → Bool × Bool
  | .dmuProduct | .updateStep => (true, false)
  | .dmuPair => (true, true)
  | _ => (false, false)

/-- The bits of a word below `n`. -/
def low (n : Nat) : Nat := 2 ^ n - 1

/-- The bits [hi : lo] of a word. -/
def span (hi lo : Nat) : Nat := 2 ^ (hi + 1) - 2 ^ lo

/-- The bits that Table 3-12 gives a meaning, in W0–W3. -/
def opWords : Op → List Nat
  | .nop => [0, 0, 0, 0]
  | .ctrWrite => [low 18, low 32, 0, 0]
  | .eventMark => [low 16, low 64, low 64, 0]
  | .ringKick => [low 16, low 32, 0, 0]
  | .leafProgram => [low 56, low 46, low 32, 0]
  | .leafReadback => [low 52, 2 ^ 44, 0, 0]
  | .tileEvaluate => [low 60, low 60, low 50, low 17]
  | .dmuProduct => [low 60, low 60, low 60, low 56]
  | .dmuPair => [low 60, low 52, low 60, low 56]
  | .vectorProgram => [low 52, low 52, low 32, 0]
  | .memCopy => [low 60, low 60, low 51, 0]
  | .memAtomic => [low 60, low 52, low 64, low 64]
  | .collectiveStep => [low 60, low 60, low 56, low 48]
  | .updateStep => [low 52, low 52, low 52, low 48]
  | .snapshot => [low 52, low 52, low 33, 0]
  | .snapshotRestore => [low 52, low 52, low 32, 0]

/-- The bits that Table 3-12 gives a meaning in X0 and X1. -/
def opXwords : Op → List Nat
  | .dmuProduct => [low 60]
  | .dmuPair => [low 60, low 60]
  | .updateStep => [low 52, low 52]
  | _ => []

/-- The bits that Table 3-12 gives a meaning in AUX. AUX and W3[49:48] of a DMU_PAIR pass here: R296 refuses them with a code
of its own. -/
def opAux : Op → Nat
  | .dmuProduct => 1
  | .dmuPair => low 32
  | _ => 0

/-- Bits of `n` outside a mask. -/
def outside (n mask : Nat) : Nat := n - (n &&& mask)

/-- A descriptor read from its slot and its extension slot (Table 3-9, R106). -/
def descOf (bs : List Byte) (ext : Option (List Byte)) : Desc :=
  { opcode := leAt bs 0 1, flags := leAt bs 1 1, seq := leAt bs 2 2, node := leAt bs 4 2, level := leAt bs 6 1,
    ndep := leAt bs 7 1, target := leAt bs 8 2, counter := leAt bs 10 2,
    deps := (List.range 4).map fun i => leAt bs (12 + 4 * i) 4,
    aux := leAt bs 28 4,
    w := (List.range 4).map fun i => leAt bs (32 + 8 * i) 8,
    x := match ext with
      | some e => (List.range 7).map fun i => leAt e (8 + 8 * i) 8
      | none => [],
    raw := bs ++ ext.getD [] }

/-- Operand word i. -/
def Desc.W (d : Desc) (i : Nat) : Nat := d.w.getD i 0
/-- Extension word i; 0 without an extension. -/
def Desc.X (d : Desc) (i : Nat) : Nat := d.x.getD i 0
/-- The VA of an address word (R109). -/
def vaOf (w : Nat) : Nat := field w 0 52
/-- The format byte of an address word. -/
def fmtOf (w : Nat) : Nat := field w 52 8
/-- The flags of Table 3-9. -/
def Desc.cmpl (d : Desc) : Bool := flag d.flags 0
/-- IRQ. -/
def Desc.irq (d : Desc) : Bool := flag d.flags 1
/-- FENCE. -/
def Desc.fence (d : Desc) : Bool := flag d.flags 2
/-- EXT. -/
def Desc.ext (d : Desc) : Bool := flag d.flags 3
/-- CTR. -/
def Desc.ctr (d : Desc) : Bool := flag d.flags 4
/-- The dependency tokens used. -/
def Desc.tokens (d : Desc) : List Nat := d.deps.take (field d.ndep 0 3)

/-- Whether an extension slot is well formed (R106): opcode 0xFE, byte 1 and bytes 4–7 zero. -/
def extOk (e : List Byte) : Bool := leAt e 0 1 == 0xFE && leAt e 1 1 == 0 && leAt e 4 4 == 0

/-- The VF whose range holds a ring, of VFs 1 to NumVFs; 0 for none (R80). -/
def rangeOwner (s : State) (ring : Nat) : Nat :=
  ((List.range s.numVfs).map (· + 1) |>.find? fun v =>
    let r := getReg s (rid .hubVfRing v)
    decide (field r 0 8 * 256 ≤ ring ∧ ring < field r 0 8 * 256 + field r 8 5 * 256)).getD 0

/-- The function that owns a ring or a counter (R80, R631). A ring of the PF that still drains passes to the VF of its range
only when it has completed. -/
def ownerOf (s : State) (ring : Nat) : Nat :=
  if (getRing s ring).state ≠ .disabled ∧ (getRing s ring).fn = 0 then 0 else rangeOwner s ring

/-- The first ring a VF owns. -/
def vfBase (s : State) (v : Nat) : Nat := if v = 0 then 0 else field (getReg s (rid .hubVfRing v)) 0 8 * 256

/-- Whether a token is met (R112). -/
def tokenMet (s : State) (tok : Nat) : Bool :=
  decide ((field (getCtr s (field tok 0 16)).value 0 16 + 2 ^ 16 - field tok 16 16) % 2 ^ 16 < 2 ^ 15)

/-- Whether a token names a counter that has FAILED set (R115). -/
def tokenFailed (s : State) (tok : Nat) : Bool := (getCtr s (field tok 0 16)).failed

/-- The number of targets a level has (R18): regions, blocks, cells. -/
def levelCount (level : Nat) : Nat := if level = 1 then 16 else if level = 2 then 128 else if level = 3 then 1024 else 1

/-- Whether a reserved bit or field of a descriptor is not 0 (R107): header bits, unused tokens, operand words, AUX and the
words of its extension, where that is well formed. -/
def reservedSet (o : Op) (d : Desc) (extGood : Bool) : Bool :=
  decide (field d.flags 5 3 ≠ 0) || decide (field d.ndep 3 5 ≠ 0)
    || ((d.deps.drop (field d.ndep 0 3)).any fun t => decide (t ≠ 0))
    || decide (outside d.aux (opAux o) ≠ 0)
    || (((opWords o).zip d.w).any fun p => decide (outside p.2 p.1 ≠ 0))
    || (extGood && (opExt o).1 && (List.range 7).any fun i => decide (outside (d.X i) ((opXwords o).getD i 0) ≠ 0))

/-- The counters a descriptor names (R107): its own with CTR set, a CTR_WRITE's, and those of its tokens. -/
def countersNamed (o : Op) (d : Desc) : List Nat :=
  (if d.ctr then [d.counter] else []) ++ (if o = .ctrWrite then [field (d.W 0) 0 16] else [])
    ++ d.tokens.map fun t => field t 0 16

/-- The refusals of R107 in their order, with the detail codes of Table 3-17; `extGood` says that the extension, where
EXT is set, is present and well formed. A TARGET other than 0 at level 0 is taken as out of range, and an EXT flag on
an opcode that takes no extension as a malformed extension (DEDUCED, log entry 11); a DMU_PAIR without its extension
carries the code of R296. -/
def headerRefusal (s : State) (fn : Nat) (d : Desc) (extGood : Bool) : Option Nat :=
  match opOf d.opcode with
  | none => some 0x01
  | some o =>
    if reservedSet o d extGood then some 0x02
    else if d.level ∉ opLevels o then some 0x03
    else if levelCount d.level ≤ d.target then some 0x04
    else if 4 < field d.ndep 0 3 then some 0x05
    else if (opExt o).2 && !d.ext then some 0x62
    else if d.ext && !((opExt o).1 && extGood) then some 0x06
    else if (countersNamed o d).any fun c => decide (ownerOf s c ≠ fn) then some 0x07
    else none

/-! ## Format fields (R130) -/

/-- The format bytes an opcode's words hold, with the use Table 4-1 must allow. DMU operands are DMU formats, the
input of an evaluation is a cell operand, and outputs and buffers are storage. -/
def opFormats (o : Op) (d : Desc) : List (Use × Nat) :=
  match o with
  | .tileEvaluate => [(.cell, fmtOf (d.W 0)), (.storage, fmtOf (d.W 1))]
  | .dmuProduct =>
    (if field (d.W 3) 32 16 = 0 then [(.storage, fmtOf (d.W 0)), (.storage, fmtOf (d.W 2))]
     else [(.dmu, fmtOf (d.W 0)), (.dmu, fmtOf (d.W 1)), (.storage, fmtOf (d.W 2))])
      ++ (if d.ext then [(.storage, fmtOf (d.X 0))] else [])
  | .dmuPair => [(.dmu, fmtOf (d.W 0)), (.dmu, fmtOf (d.W 2)), (.storage, fmtOf (d.X 0)), (.storage, fmtOf (d.X 1))]
  | .memCopy =>
    if fmtOf (d.W 0) % 128 = fmtOf (d.W 1) % 128 then [] else [(.storage, fmtOf (d.W 0)), (.storage, fmtOf (d.W 1))]
  | .collectiveStep => [(.storage, fmtOf (d.W 0)), (.storage, fmtOf (d.W 1))]
  | _ => []

/-- The weight-format field of LEAF_PROGRAM: a code for cell operands, with H at 0, because its data has no memory form
(R130, Table 5-2). -/
def weightFormatOk (b : Nat) : Bool := b < 128 && fmtUse .cell b

/-- R130 over a descriptor: true where it is refused with detail code 0x40. MEM_COPY refuses H with its own code (R355), so
its block-scaled codes are judged with H taken as set. -/
def formatRefused (o : Op) (d : Desc) : Bool :=
  ((opFormats o d).any fun p => !fmtByteOk p.1 p.2)
    || (o == .leafProgram && !weightFormatOk (field (d.W 1) 32 8))

end Sys2Proof.Machine
end

