-- ==== Sys2Proof/Machine/Flags.lean ====
section
/-! DEFINITION. Completion status: the codes of Table 0-3, how several of them join (R8), and the mask of success-class
conditions (R9). -/

namespace Sys2Proof.Machine

/-- Success-class codes run from 0x00 to 0x0F (R7). -/
def succeeded (status : Nat) : Bool := decide (status < 0x10)

/-- The mask bit of a success-class condition (Table 3-13): [0] fallback, [1] widened, [2] replayed. -/
def maskBit (status : Nat) : Nat := if status = 1 then 1 else if status = 2 then 2 else if status = 3 then 4 else 0

/-- A status that also applies: the mask takes its condition, and the higher-valued code stands (R8, R9). -/
def Work.also (w : Work) (status dcode : Nat) : Work :=
  let w := { w with mask := w.mask ||| maskBit status }
  if w.status < status then { w with status := status, dcode := dcode } else w

/-- The status codes of Table 0-3 that the VT2 writes (R6). -/
def statusCodes : List Nat :=
  [0x00, 0x01, 0x02, 0x03, 0x10, 0x11, 0x12, 0x13, 0x14, 0x15, 0x20, 0x21, 0x22, 0x30, 0x31, 0x3F]

/-- ABORTED. -/
def stAborted : Nat := 0x10
/-- BUSY_CONFLICT. -/
def stBusy : Nat := 0x11
/-- POOL_EXHAUSTED. -/
def stPool : Nat := 0x12
/-- REGION_UNAVAILABLE. -/
def stRegion : Nat := 0x13
/-- PEER_LOST. -/
def stPeer : Nat := 0x14
/-- TIMEOUT. -/
def stTimeout : Nat := 0x15
/-- BAD_DESCRIPTOR. -/
def stBad : Nat := 0x20
/-- GATED. -/
def stGated : Nat := 0x21
/-- ACCESS_DENIED. -/
def stDenied : Nat := 0x22
/-- UNCORRECTABLE_MEMORY. -/
def stMemory : Nat := 0x30
/-- CELL_RETIRED. -/
def stRetired : Nat := 0x31
/-- DEVICE_FAILED. -/
def stFailed : Nat := 0x3F

/-- A completion record's bytes (Table 3-13). -/
def cplBytes (r : CplRec) (phase : Nat) : List Byte :=
  leBytes 2 r.ring ++ leBytes 2 r.seq ++ leBytes 1 r.status ++ leBytes 1 r.mask ++ leBytes 1 (phase + 2 * bit r.remote)
    ++ leBytes 1 r.dcode ++ leBytes 4 r.detail ++ leBytes 4 r.time

end Sys2Proof.Machine
end

