-- ==== Sys2Proof/Machine/Access.lean ====
section
/-! DEFINITION. Device memory as engines reach it: the address mapping (R342, R343), page-table walks and cached translations
(R68–R78), the cache slices (R347–R353), the two error classes (R366–R368), the capture of undo units (R493), and reads and
writes by virtual address. -/

namespace Sys2Proof.Machine

/-! ## Mapping (R342, R343) -/

/-- Whether segment `n` is stack-local. -/
def segLocal (s : State) (n : Nat) : Bool := flag (getPair s .memMapLocalLo .memMapLocalHi) n

/-- XOR of the 4-bit slices of a number, `k` of them. -/
def fold4 : Nat → Nat → Nat
  | 0, _ => 0
  | k + 1, n => (n % 16) ^^^ fold4 k (n / 16)

/-- The stack and the local address of a device physical address. -/
def mapPa (s : State) (pa : Nat) : Nat × Nat :=
  if segLocal s (pa / 2 ^ 34) then (field pa 30 4, field pa 34 6 * 2 ^ 30 + pa % 2 ^ 30)
  else (fold4 8 (pa / 2 ^ 8), pa / 2 ^ 12 * 2 ^ 8 + pa % 2 ^ 8)

/-- The device physical address of a stack's local address. -/
def unmapPa (s : State) (stack la : Nat) : Nat :=
  if segLocal s (la / 2 ^ 30) then la / 2 ^ 30 * 2 ^ 34 + stack * 2 ^ 30 + la % 2 ^ 30
  else la / 2 ^ 8 * 2 ^ 12 + (stack ^^^ fold4 7 (la / 2 ^ 8)) * 2 ^ 8 + la % 2 ^ 8

/-- The number under which device memory lists the byte at a physical address. -/
def memKey (s : State) (pa : Nat) : Nat := let m := mapPa s pa; m.1 * 2 ^ 36 + m.2

/-- Bytes from a physical address on, as they stand, without checks; each run of a granule is contiguous. -/
def peekFuel (s : State) : Nat → Nat → Nat → List Byte
  | 0, _, _ => []
  | fuel + 1, pa, n =>
    if n = 0 then []
    else
      let k := min n (256 - pa % 256)
      Tab.getN 0#8 s.mem (memKey s pa) k ++ peekFuel s fuel (pa + k) (n - k)

/-- `n` bytes from a physical address on. -/
def peek (s : State) (pa n : Nat) : List Byte := peekFuel s (n / 256 + 2) pa n

/-- Bytes put at a physical address, cut at granules. -/
def pokeFuel : Nat → State → Nat → List Byte → State
  | 0, s, _, _ => s
  | fuel + 1, s, pa, bs =>
    match bs with
    | [] => s
    | _ =>
      let k := 256 - pa % 256
      pokeFuel fuel { s with mem := Tab.setN 0#8 s.mem (memKey s pa) (bs.take k) } (pa + k) (bs.drop k)

/-- Bytes put at a physical address, without checks. -/
def poke (s : State) (pa : Nat) (bs : List Byte) : State := pokeFuel (bs.length / 256 + 2) s pa bs

/-! ## How an engine access can end -/

/-- Why an engine's work stops. -/
inductive Err where
  /-- Its descriptor completes with a status and detail code. -/
  | fail (status dcode : Nat)
  /-- An access waits for a stack in the critical state (R372). -/
  | hold (stack : Nat)
  /-- A granule of the detection class at a stack's local address fails its check: it is to be recovered (R368). -/
  | crc (stack la : Nat)
  /-- The work waits, without effect, for something else, such as a segment whose mode is being changed (R344). -/
  | wait
  /-- The work waits, without effect, for a free record of a region (R479). -/
  | noRecord (region : Nat)
  /-- An error escalates to a region, with the cause byte of its reset: 1 a block, 2 a unit of the region (R29). -/
  | escalate (region cause : Nat)
  deriving DecidableEq, Repr

/-- An engine's work: it changes the state and ends with a result or an `Err`. -/
abbrev Eng (α : Type) : Type := ExceptT Err (StateM State) α

/-- The work run on a state. -/
def Eng.on {α : Type} (m : Eng α) (s : State) : Except Err α × State := m.run s

/-- A state change as work. -/
def act (f : State → State) : Eng Unit := modify f

/-- The descriptor completes with a status and detail code. -/
def failWith {α : Type} (status dcode : Nat) : Eng α := throw (.fail status dcode)

/-- A check: its descriptor completes with a status and detail code where it does not hold. -/
def ensure (b : Bool) (status dcode : Nat) : Eng Unit := if b then pure () else failWith status dcode

/-- Who makes an access: the descriptor's ring, its function, the address space, the MMU (0–15 a region's, 16 the
hub's), the block whose engine makes it, whether the descriptor is a COLLECTIVE_STEP, the cache hint with the VA at which its reads end, and whether the
snapshot engine writes a checkpoint, which no step captures (DESIGN CHOICE, log entry 34). -/
structure Who where
  ring : Nat
  index : Nat
  fn : Nat
  space : Nat
  mmu : Nat
  block : Option Nat := none
  coll : Bool := false
  hint : Nat := 0
  last : Nat := 0
  snap : Bool := false
  deriving DecidableEq, Repr

/-! ## Reports of memory errors -/

/-- An uncorrectable sector reported (R367): the address and count of the stack, the alarm and the event. -/
def reportSector (s : State) (fn stack la src : Nat) : State :=
  let s := setFld s (rid .memEccAddrLo stack) 5 27 (field la 5 27)
  let s := setFld s (rid .memEccAddrHi stack) 0 4 (field la 32 4)
  let s := addFld s (rid .memEccCnt stack) 16 8 1
  let s := raiseAlarm s 4
  emitFn s fn 0x0502 13 stack (leBytes 1 stack ++ leBytes 5 la ++ leBytes 1 src)

/-- As `reportSector`, for a descriptor. -/
def reportSectorOf (s : State) (w : Who) (stack la : Nat) : State :=
  let s := setFld s (rid .memEccAddrLo stack) 5 27 (field la 5 27)
  let s := setFld s (rid .memEccAddrHi stack) 0 4 (field la 32 4)
  let s := addFld s (rid .memEccCnt stack) 16 8 1
  let s := raiseAlarm s 4
  emitDesc s w.fn w.ring 0x0502 13 stack (leBytes 1 stack ++ leBytes 5 la ++ leBytes 1 0)

/-! ## Cache slices (R347–R353) -/

/-- The number of a granule's line. -/
def lineKey (stack la : Nat) : Nat := stack * 2 ^ 28 + la / 256

/-- The set of a line (R347): LA[19:8] XOR LA[31:20]. -/
def lineSet (key : Nat) : Nat := (key % 2 ^ 12) ^^^ (key / 2 ^ 12 % 2 ^ 12)

/-- The lines of one stack's set that are resident. -/
def setLines (s : State) (key : Nat) : List (Nat × Line) :=
  s.lines.filter fun p => decide (p.1 / 2 ^ 28 = key / 2 ^ 28) && decide (lineSet p.1 = lineSet key)

/-- The least recently used line of some lines. -/
def oldest (ls : List (Nat × Line)) : Option Nat :=
  (ls.foldl (fun a p => match a with
    | none => some p
    | some q => if p.2.used < q.2.used then some p else some q) (none : Option (Nat × Line))).map (·.1)

/-- The victim among the lines of a full set (R350): the oldest without the keep mark, else the oldest; a line with lost
sectors is pinned (R353). -/
def victim (ls : List (Nat × Line)) : Option Nat :=
  let free := ls.filter fun p => p.2.lost == 0
  match oldest (free.filter fun p => !p.2.keep) with
  | some k => some k
  | none => oldest free

/-- What an allocation does in its set (R350): the line that leaves, whether the keep mark is given, and whether there is
room at all. A keep mark beyond the twelfth takes the place of the oldest other keep line. -/
def allocation (s : State) (key : Nat) (keep : Bool) : Option Nat × Bool × Bool :=
  let l := Tab.get {} s.lines key
  let ls := (setLines s key).filter fun p => p.1 != key
  let kept := ls.filter fun p => p.2.keep
  let plain : Option Nat × Bool :=
    if l ≠ {} ∨ ls.length < 16 then (none, true)
    else match victim ls with
      | some k => (some k, true)
      | none => (none, false)
  if keep && !l.keep && decide (12 ≤ kept.length) then
    match oldest (kept.filter fun p => p.2.lost == 0) with
    | some k => (some k, true, true)
    | none => (plain.1, false, plain.2)
  else (plain.1, keep, plain.2)

/-- A line allocated for some sectors, its victim evicted; where every line of its set is pinned, none is allocated. -/
def allocLine (s : State) (key mask : Nat) (keep write : Bool) : State :=
  let a := allocation s key keep
  if a.2.2 then
    let s := match a.1 with
      | some v => { s with lines := Tab.del s.lines v }
      | none => s
    { s with lines := Tab.upd {} s.lines key fun l => { l with
        valid := l.valid ||| mask, dirty := if write then l.dirty ||| mask else l.dirty, keep := l.keep || a.2.1,
        used := s.useClock } }
  else s

/-- Whether a request for some sectors of a line is served from the slice. -/
def lineHit (s : State) (key mask : Nat) : Bool :=
  let l := Tab.get {} s.lines key
  decide ((l.valid ||| l.lost) &&& mask = mask)

/-- A single-bit error of a slice, corrected and counted at the request that meets it (R353). -/
def correctSlice (s : State) (stack : Nat) : State :=
  if Upset.sliceBit stack ∈ s.upsets then
    addFld { s with upsets := s.upsets.erase (.sliceBit stack) } (rid .memCacheErr stack) 0 16 1
  else s

/-- A line invalidated without write-back: it goes, but for the marks of its lost sectors (R350, R353). -/
def invalidate (s : State) (key : Nat) : State :=
  { s with lines := Tab.upd {} s.lines key fun l => if l.lost = 0 then {} else { lost := l.lost, used := l.used } }

/-- A request served (R349): hints 0 default, 1 stream through, 2 keep, 3 discard after last use (DESIGN CHOICE, log
entry 68). -/
def touchLine (s : State) (key mask hint : Nat) (write : Bool) : State :=
  let region := key / 2 ^ 28
  let s := correctSlice { s with useClock := s.useClock + 1 } region
  if lineHit s key mask then
    let s := addFld s (rid .memCacheHit region) 0 32 1
    if hint = 3 && !write then invalidate s key
    else if hint = 1 || hint = 3 then
      { s with lines := Tab.upd {} s.lines key fun l => { l with dirty := if write then l.dirty ||| mask else l.dirty } }
    else allocLine s key mask (hint == 2) write
  else
    let s := addFld s (rid .memCacheMiss region) 0 32 1
    if hint = 1 || hint = 3 then s else allocLine s key mask (hint == 2) write

/-- A granule read with the discard hint: its bytes have no defined value any more (R351; DESIGN CHOICE, log entry 3).
-/
def discardGranule (s : State) (stack la : Nat) : State :=
  let base := stack * 2 ^ 36 + la / 256 * 256
  { s with mem := Tab.setN 0#8 s.mem base ((List.range 256).map fun i => Config.freeByte (s.free + i)),
           free := s.free + 256 }

/-! ## Rows and sectors of a stack (R346, R366, R367, R369) -/

/-- Where a local address lies in its stack (R346). -/
structure Dram where
  pseudo : Nat
  bank : Nat
  row : Nat
  col : Nat
  deriving DecidableEq, Repr

/-- Pseudo-channel, bank, row and column of a local address (R346). -/
def dramOf (la : Nat) : Dram :=
  let pca := la / 2 ^ 14 * 2 ^ 8 + la % 256
  { pseudo := ((field la 8 6) ^^^ (field la 14 6) ^^^ (field la 20 6) ^^^ (field la 26 6)) ^^^ (field la 32 4)
    bank := (pca / 2 ^ 10 % 64) ^^^ (pca / 2 ^ 16 % 64)
    row := pca / 2 ^ 16
    col := pca % 2 ^ 10 }

/-- The number of a row. -/
def Dram.key (d : Dram) : Nat := (d.pseudo * 64 + d.bank) * 2 ^ 14 + d.row

/-- The sector number of a local address, as the table of erroneous bytes numbers it. -/
def sectorKey (stack la : Nat) : Nat := stack * 2 ^ 31 + la / 32

/-- Erroneous bytes of the sector at a local address. -/
def sectorErrs (s : State) (stack la : Nat) : Nat := Tab.get 0 s.bad (sectorKey stack la)

/-- Whether the check of the sector at a local address is in the detection class. -/
def sectorDetect (s : State) (stack la : Nat) : Bool := flag (Tab.get 0 s.detect (lineKey stack la)) (la / 32 % 8)

/-- Whether the slice holds a sector, and whether it has lost it (R353). -/
def sectorHeld (s : State) (stack la : Nat) : Bool := flag (Tab.get {} s.lines (lineKey stack la)).valid (la / 32 % 8)
/-- See `sectorHeld`. -/
def sectorLost (s : State) (stack la : Nat) : Bool := flag (Tab.get {} s.lines (lineKey stack la)).lost (la / 32 % 8)

/-- Whether a read in a class other than that of a sector's check finds an error: the spec leaves it open (R366; DESIGN
CHOICE, log entry 13). -/
def mixedClass (s : State) (stack la : Nat) (detect : Bool) : Bool :=
  decide (sectorDetect s stack la ≠ detect) && Config.otherClass s.free (sectorKey stack la)

/-- A correction-class read of a sector from the stack finds more than it corrects (R367). -/
def sectorFails (s : State) (stack la : Nat) : Bool := decide (3 ≤ sectorErrs s stack la) || mixedClass s stack la false

/-- A sector with 1 or 2 erroneous bytes corrected, counted and written back; the third of a row in a scrub cycle spares the
row (R367, R369). -/
def correctSector (s : State) (stack la : Nat) : State :=
  let s := addFld { s with bad := Tab.set 0 s.bad (sectorKey stack la) 0 } (rid .memEccCnt stack) 0 16 1
  let d := dramOf la
  let hit := (d.key, la / 32)
  let s := updStack s stack fun k => { k with scrubHits := if hit ∈ k.scrubHits then k.scrubHits else k.scrubHits ++ [hit] }
  let k := getStack s stack
  if 3 ≤ (k.scrubHits.filter fun h => h.1 == d.key).length ∧ d.key ∉ k.sparedRows then
    let s := updStack s stack fun k => { k with sparedRows := k.sparedRows ++ [d.key] }
    let s := addFld s (rid .memEccCnt stack) 24 8 1
    emitFn s 0 0x0501 13 stack (leBytes 1 stack ++ leBytes 1 d.pseudo ++ leBytes 1 d.bank ++ leBytes 2 d.row)
  else s

/-- The mask of the sectors that `n` bytes at a local address touch. -/
def sectorMask (la n : Nat) : Nat :=
  let a := la / 32 % 8
  let b := (la + n - 1) / 32 % 8
  2 ^ (b + 1) - 2 ^ a

/-- The local addresses of the sectors of the granule at a local address. -/
def granuleSectors (la : Nat) : List Nat := (List.range 8).map fun k => la / 256 * 256 + 32 * k

/-- The local addresses of the sectors that `n` bytes touch. -/
def sectorsOf (la n : Nat) : List Nat := (granuleSectors la).filter fun a => decide (a < la + n ∧ la < a + 32)

/-- Sectors wholly covered by a write of `n` bytes at a local address. -/
def wholeSectors (la n : Nat) : List Nat := (sectorsOf la n).filter fun a => decide (la ≤ a ∧ a + 32 ≤ la + n)

/-- The sectors that an access of `n` bytes reads: all it touches, or for a write those it covers in part. -/
def sectorsRead (la n : Nat) (write : Bool) : List Nat :=
  if write then (sectorsOf la n).filter fun a => decide (a ∉ wholeSectors la n) else sectorsOf la n

/-! ## Walks and translations (R69–R76) -/

/-- How a walk ends. -/
inductive WalkEnd where
  | ok (t : Tlb)
  | fault (level cause : Nat)
  /-- The stack of an entry is lost (R373), or not yet available (R66). -/
  | lost
  | gated (stack : Nat)
  /-- The sector of an entry cannot be read: beyond correction, or lost in its cache slice. -/
  | sector (stack la : Nat) (slice : Bool)
  deriving DecidableEq, Repr

/-- Alignment of what an entry of a level points to, as a power of two: tables of 4 KiB, 4 KiB and 256 bytes, pages of
2 MiB and 64 KiB (Table 2-11). -/
def pteAlign (level : Nat) (leaf : Bool) : Nat :=
  if leaf then (if level = 2 then 21 else 16) else (if level = 2 then 8 else 12)

/-- The index of a level (Table 2-11). -/
def pteIndex (va level : Nat) : Nat :=
  if level = 0 then field va 39 13 else if level = 1 then field va 30 9 else if level = 2 then field va 21 9 else field va 16 5

/-- The address of an entry in its table. -/
def ptePa (base va level : Nat) : Nat := base + 8 * pteIndex va level

/-- What an entry says (R69–R71): the walk ends, or goes on in a table. Of several faults the first in the order V, reserved
bits, LEAF, alignment, host table, 1 TiB is reported (DESIGN CHOICE, log entry 80). -/
def pteSays (mmu space va level e : Nat) : WalkEnd ⊕ Nat :=
  let leaf := flag e 1
  let addr := e / 256 * 256
  if !flag e 0 then .inl (.fault level 0)
  else if field e 5 3 ≠ 0 then .inl (.fault level 1)
  else if (leaf && decide (level < 2)) || (!leaf && decide (level = 3)) then .inl (.fault level 2)
  else if addr % 2 ^ pteAlign level leaf ≠ 0 then .inl (.fault level 3)
  else if !leaf && flag e 3 then .inl (.fault level 4)
  else if !flag e 3 && decide (2 ^ 40 ≤ addr) then .inl (.fault level 3)
  else if leaf then
    let size := 2 ^ pteAlign level true
    .inl (.ok { mmu := mmu, space := space, va := va / size * size, size := size, pte := e })
  else .inr addr

/-- One entry of a walk read, in the correction class (R66, R353, R366, R373). -/
def walkEntry (s : State) (mmu space va level base : Nat) : WalkEnd ⊕ Nat :=
  let pa := ptePa base va level
  let m := mapPa s pa
  let x := getEntry s 13 m.1
  if x.retired then .inl .lost
  else if !x.present then .inl (.gated m.1)
  else if sectorLost s m.1 m.2 then .inl (.sector m.1 m.2 true)
  else if !sectorHeld s m.1 m.2 && sectorFails s m.1 m.2 then .inl (.sector m.1 m.2 false)
  else pteSays mmu space va level (leNat (peek s pa 8))

/-- The walk from a level on (R69–R71). -/
def walkFrom (s : State) (mmu space va : Nat) : Nat → Nat → Nat → WalkEnd
  | 0, level, _ => .fault level 0
  | fuel + 1, level, base =>
    match walkEntry s mmu space va level base with
    | .inl e => e
    | .inr table => walkFrom s mmu space va fuel (level + 1) table

/-- The addresses of the entries that the walk reads, in order. -/
def walkPas (s : State) (mmu space va : Nat) : Nat → Nat → Nat → List Nat
  | 0, _, _ => []
  | fuel + 1, level, base =>
    ptePa base va level :: match walkEntry s mmu space va level base with
      | .inl _ => []
      | .inr table => walkPas s mmu space va fuel (level + 1) table

/-- Whether an address space is enabled (Table 2-13). -/
def spaceEnabled (s : State) (space : Nat) : Bool := getBit s (rid .hubMmuRootLo space) 0

/-- The L0 table of an address space. -/
def rootOf (s : State) (space : Nat) : Nat :=
  field (getReg s (rid .hubMmuRootLo space)) 16 16 * 2 ^ 16 + field (getReg s (rid .hubMmuRootHi space)) 0 8 * 2 ^ 32

/-- The translation of a VA that an MMU holds. -/
def cachedTlb (s : State) (mmu space va : Nat) : Option Tlb :=
  s.tlbs.find? fun t => decide (t.mmu = mmu ∧ t.space = space ∧ t.va ≤ va ∧ va < t.va + t.size)

/-- The translation of a VA by an MMU: a cached one first (DESIGN CHOICE, log entry 12), else a walk. -/
def lookup (s : State) (mmu space va : Nat) : WalkEnd :=
  if !spaceEnabled s space then .fault 0 6
  else match cachedTlb s mmu space va with
    | some t => .ok t
    | none => walkFrom s mmu space va 4 0 (rootOf s space)

/-- The addresses of the page-table entries that a translation reads. -/
def lookupPas (s : State) (mmu space va : Nat) : List Nat :=
  if spaceEnabled s space && (cachedTlb s mmu space va).isNone then walkPas s mmu space va 4 0 (rootOf s space) else []

/-- A translation kept in its MMU. -/
def cacheTlb (s : State) (t : Tlb) : State := if t ∈ s.tlbs then s else { s with tlbs := t :: s.tlbs }

/-- The source of a translation fault (Table 3-16): the MMU's region, or the hub. -/
def mmuSource (mmu : Nat) : Nat × Nat := if mmu < 16 then (7, mmu) else (1, 0)

/-- A translation-fault event about a descriptor (R71, R72). -/
def faultEvent (s : State) (w : Who) (level cause va : Nat) (write : Bool) : State :=
  let src := mmuSource w.mmu
  emitDesc s w.fn w.ring 0x0005 src.1 src.2
    (leBytes 1 w.space ++ leBytes 1 level ++ leBytes 1 cause ++ leBytes 1 (bit write) ++ leBytes 4 0 ++ leBytes 8 (va % 2 ^ 52))

/-- Whether a page-table entry maps host memory. -/
def Tlb.host (t : Tlb) : Bool := flag t.pte 3
/-- Whether it permits writes. -/
def Tlb.writable (t : Tlb) : Bool := flag t.pte 2
/-- Whether it is a detection-class page; ignored where it maps host memory (Table 2-12). -/
def Tlb.detect (t : Tlb) : Bool := flag t.pte 4 && !flag t.pte 3
/-- The address a VA of the page reaches. -/
def Tlb.addr (t : Tlb) (va : Nat) : Nat := t.pte / 256 * 256 + (va - t.va)

/-! ## Gates of an access -/

/-- A stack that engines can use: gated while not yet available (R66), lost once retired (R373). -/
def stackGate (stack : Nat) : Eng Unit := do
  let s ← get
  let e := getEntry s 13 stack
  if e.retired then failWith stMemory 0x8F
  else if !e.present then failWith stGated 0
  else pure ()

/-- Whether an access that must go to the stack waits for it to leave the critical state (R372). -/
def thermalWait (s : State) (stack key mask : Nat) : Bool :=
  decide ((getStack s stack).thermal = .critical) && !lineHit s key mask

/-- An access that must go to the stack waits while the stack is critical (R372). -/
def thermalGate (stack key mask : Nat) : Eng Unit := do
  let s ← get
  if thermalWait s stack key mask then throw (.hold stack) else pure ()

/-- The segments whose modes are being changed (R344). -/
def changedSegs (s : State) : Nat :=
  match s.mapBusy with
  | some m => (m.1 + m.2 * 2 ^ 32) ^^^ getPair s .memMapLocalLo .memMapLocalHi
  | none => 0

/-- An access to a segment whose mode is being changed is held (R344). -/
def mapGate (pa : Nat) : Eng Unit := do
  let s ← get
  if flag (changedSegs s) (pa / 2 ^ 34) then throw .wait else pure ()

/-! ## Translation for an engine -/

/-- A page-table entry read through its slice (R344, R347, R367, R372). -/
def walkRead (pa : Nat) : Eng Unit := do
  mapGate pa
  let s ← get
  let m := mapPa s pa
  let x := getEntry s 13 m.1
  if x.retired || !x.present || sectorLost s m.1 m.2 then pure ()
  else
    let key := lineKey m.1 m.2
    let mask := sectorMask m.2 8
    thermalGate m.1 key mask
    if sectorHeld s m.1 m.2 then act fun s => touchLine s key mask 0 false
    else if sectorFails s m.1 m.2 then pure ()
    else
      if 0 < sectorErrs s m.1 m.2 then act fun s => correctSector s m.1 m.2
      act fun s => touchLine s key mask 0 false

/-- The page-table entries of a walk read. -/
def walkReads : List Nat → Eng Unit
  | [] => pure ()
  | pa :: pas => do
    walkRead pa
    walkReads pas

/-- A VA translated for an engine (R66, R68, R71, R72). -/
def translate (w : Who) (va : Nat) (write : Bool) : Eng Tlb := do
  let s ← get
  walkReads (lookupPas s w.mmu w.space va)
  match lookup s w.mmu w.space va with
  | .ok t =>
    act fun s => cacheTlb s t
    if write && !t.writable then
      act fun s => faultEvent s w (if t.size = 2 ^ 21 then 2 else 3) 5 va write
      failWith stDenied 0
    else pure t
  | .fault level cause =>
    act fun s => faultEvent s w level cause va write
    failWith stBad 0
  | .lost => failWith stMemory 0x8F
  | .gated _ => failWith stGated 0
  | .sector stack la slice =>
    act fun s => reportSectorOf s w stack la
    failWith stMemory (if slice then 0x8A else 0x88)

/-! ## Accesses to device memory -/

/-- The check of the sectors that an access reads (R353, R366–R368): a lost sector, then those that come from the stack. -/
def checkSectors (w : Who) (stack la : Nat) (as : List Nat) (detect : Bool) : Eng Unit := do
  let s ← get
  match as.find? (sectorLost s stack) with
  | some a =>
    act fun s => reportSectorOf s w stack a
    failWith stMemory 0x8A
  | none =>
    let missing := as.filter fun a => !sectorHeld s stack a
    if missing.isEmpty then pure ()
    else if detect then
      if (granuleSectors la).any fun a => decide (0 < sectorErrs s stack a) || mixedClass s stack a true then throw (.crc stack la)
      else pure ()
    else
      match missing.find? (sectorFails s stack) with
      | some a =>
        act fun s => reportSectorOf s w stack a
        failWith stMemory 0x88
      | none =>
        act fun s => (missing.filter fun a => decide (0 < sectorErrs s stack a)).foldl (fun s a => correctSector s stack a) s

/-- The sectors that a read fetches: those it touches, or the whole granule of the detection class, which its check covers
(Table 9-3, R356). -/
def fetchMask (la n : Nat) (detect : Bool) : Nat := if detect then 255 else sectorMask la n

/-- A read within one granule. -/
def readGranule (w : Who) (pa n : Nat) (detect : Bool) : Eng (List Byte) := do
  let s ← get
  let m := mapPa s pa
  let key := lineKey m.1 m.2
  mapGate pa
  stackGate m.1
  thermalGate m.1 key (sectorMask m.2 n)
  checkSectors w m.1 m.2 (sectorsRead m.2 n false) detect
  let mask := if lineHit s key (sectorMask m.2 n) then sectorMask m.2 n else fetchMask m.2 n detect
  act fun s => touchLine s key mask w.hint false
  let s ← get
  let bs := Tab.getN 0#8 s.mem (m.1 * 2 ^ 36 + m.2) n
  if w.hint = 3 then act fun s => discardGranule s m.1 m.2
  pure bs

/-! ## Capture of undo units (R493) and the dirty map -/

/-- Whether a VA lies in the `n` bytes from `base`. -/
def within (va base n : Nat) : Bool := decide (base ≤ va ∧ va < base + n)

/-- The base of a register pair that holds a VA with bits [31:12] or [31:16] in its low half. -/
def vaPair (s : State) (lo hi : RegName) (fn shift : Nat) : Nat :=
  getReg s (rid lo fn) / 2 ^ shift * 2 ^ shift + field (getReg s (rid hi fn)) 0 20 * 2 ^ 32

/-- Size of the undo area in bytes. -/
def undoBytes (s : State) (fn : Nat) : Nat := getFld s (rid .fltUndoLo fn) 0 16 * 2 ^ 26
/-- Size of the step log in bytes. -/
def logBytes (s : State) (fn : Nat) : Nat := getFld s (rid .fltLogLo fn) 0 16 * 2 ^ 20

/-- VAs never captured (R493): the three group tables, the undo area and the step log. -/
def captureExempt (s : State) (fn va : Nat) : Bool :=
  within va (vaPair s .numGrpBaseLo .numGrpBaseHi fn 12) (4096 * 128)
    || within va (vaPair s .updGrpBaseLo .updGrpBaseHi fn 12) (4096 * 128)
    || within va (vaPair s .colGrpBaseLo .colGrpBaseHi fn 12) (4096 * 256)
    || within va (vaPair s .fltUndoLo .fltUndoHi fn 16) (undoBytes s fn)
    || within va (vaPair s .fltLogLo .fltLogHi fn 16) (logBytes s fn)

/-- The device physical base of the dirty map (Table 13-15). -/
def dirtyBase (s : State) : Nat :=
  field (getReg s (rid .snapDirtyLo)) 21 11 * 2 ^ 21 + field (getReg s (rid .snapDirtyHi)) 0 8 * 2 ^ 32

/-- Whether the dirty map is enabled. -/
def dirtyOn (s : State) : Bool := getBit s (rid .snapDirtyLo) 0

/-- Device memory with every dirty resident page in its place: what memory reads as to the functions that own the pages (R330,
R331). -/
def settledMem (s : State) : Tab Byte :=
  let page (s : State) (p : Page) : State := if p.dirty && !p.tlb.host then poke s (p.tlb.addr p.va) p.bytes else s
  (s.blocks.foldl (fun s b => b.2.pages.foldl page s) s).mem

/-- The listed bytes of a 64 KiB unit of device physical memory. -/
def unitCells (s : State) (unit : Nat) : Tab Byte :=
  (settledMem s).filter fun p => decide (unmapPa s (p.1 / 2 ^ 36) (p.1 % 2 ^ 36) / 2 ^ 16 = unit)

/-- Bytes of a function's counter image (R491): 4 bytes and one flag bit for each counter it owns. -/
def imageBytes (s : State) (fn : Nat) : Nat :=
  let n := if fn = 0 then 65536 else field (getReg s (rid .hubVfRing fn)) 8 5 * 256
  4 * n + n / 8

/-- A write noted for every SNAPSHOT in flight, so that it does not clear the unit's dirty bit (R503). -/
def touchUnit (s : State) (unit : Nat) : State :=
  { s with work := s.work.map fun w => match w.image with
      | some i => if unit ∈ i.touched then w else { w with image := some { i with touched := unit :: i.touched } }
      | none => w }

/-- The marks of the sectors that a write of `n` bytes replaces cleared, and the class of its check recorded: of the sectors
it touches, or of the whole granule in the detection class, whose check covers it (R353, R366, R367). -/
def clearMarks (s : State) (stack la n : Nat) (detect : Bool) : State :=
  let whole := wholeSectors la n
  let key := lineKey stack la
  let mask := whole.foldl (fun m a => m ||| 2 ^ (a / 32 % 8)) 0
  let old := Tab.get 0 s.detect key
  { s with
    bad := whole.foldl (fun b a => Tab.set 0 b (sectorKey stack a) 0) s.bad
    lines := Tab.upd {} s.lines key fun l => { l with lost := l.lost - (l.lost &&& mask) }
    detect := Tab.set 0 s.detect key (if detect then 255 else old - (old &&& sectorMask la n)) }

/-- The descriptor that last wrote a granule of the detection class (R368). -/
def noteWriter (s : State) (w : Who) (key : Nat) (detect : Bool) : State :=
  { s with writers := Tab.set (noRing, 0) s.writers key (if detect then (w.ring, w.index) else (noRing, 0)) }

/-- A write within one granule that no step captures: gates, checks, the cache, and the bytes. Parts of sectors are read before
they are written. -/
def putGranule (w : Who) (pa : Nat) (bs : List Byte) (detect : Bool) : Eng Unit := do
  let s ← get
  let m := mapPa s pa
  let key := lineKey m.1 m.2
  mapGate pa
  stackGate m.1
  thermalGate m.1 key (sectorMask m.2 bs.length)
  checkSectors w m.1 m.2 (sectorsRead m.2 bs.length true) detect
  act fun s => touchLine s key (sectorMask m.2 bs.length) w.hint true
  act fun s => clearMarks s m.1 m.2 bs.length detect
  act fun s => noteWriter s w key detect
  act fun s => poke s pa bs

/-- The accesses that the VT2 makes for a function on its own. -/
def hubWho (fn : Nat) : Who := { ring := noRing, index := 0, fn := fn, space := fn, mmu := 16 }

/-- Work of which only a wait counts: what it cannot do otherwise leaves no trace. -/
def besides (m : Eng Unit) : Eng Unit := fun s =>
  match m.on s with
  | (.error (.fail _ _), _) | (.error (.crc _ _), _) => (.ok (), s)
  | r => r

/-- The dirty-map bit of a unit set or cleared (R503), by an access of the hub to device memory. -/
def markDirty (pa : Nat) (v : Bool) : Eng Unit := do
  let s ← get
  if dirtyOn s then
    let a := dirtyBase s + pa / 2 ^ 16 / 8
    if v then act fun s => touchUnit s (pa / 2 ^ 16)
    besides do
      let bs ← readGranule (hubWho 0) a 1 false
      putGranule (hubWho 0) a [BitVec.ofNat 8 (setField (leNat bs) (pa / 2 ^ 16 % 8) 1 (bit v))] false

/-- A host page's translation, where the function uses ATS: held, or obtained from the host (R77). -/
def atsHold (s : State) (fn page : Nat) : Option Nat × State :=
  if fn ∈ s.atsOn then
    match s.ats.find? fun t => decide (t.1 = fn ∧ t.2.1 = page) with
    | some t => (some t.2.2, s)
    | none =>
      let d := draw s
      let q := Config.atsPage d.1 fn page
      let mine := (s.ats.filter fun t => t.1 == fn).take 4095
      (some q, send { d.2 with ats := (fn, page, q) :: mine ++ s.ats.filter fun t => t.1 != fn } (.atsRequest fn (page * 4096)))
  else (none, s)

/-- A write to a host-backed page (R77, R377). The host's memory is listed under the address that the page table gives, to
which a translated address leads as well (DESIGN CHOICE, log entry 61). -/
def hostPut (s : State) (fn addr : Nat) (bs : List Byte) : State :=
  match atsHold s fn (addr / 4096) with
  | (some q, t) => send { t with hostMem := Tab.setN 0#8 t.hostMem addr bs } (.atsWrite fn addr q bs)
  | (none, t) => hostWrite t fn addr bs

/-- A read request to a host-backed page (R77, R377). -/
def hostAsk (s : State) (fn addr n : Nat) : State :=
  match atsHold s fn (addr / 4096) with
  | (some q, t) => send t (.atsRead fn addr q n)
  | (none, t) => send t (.hostRead fn addr n)

/-- Bytes the VT2 writes for itself within one granule of a function's undo area or step log; an address that does not
translate to a writable page takes none (DEDUCED, log entry 15). -/
def areaGranule (fn va : Nat) (bs : List Byte) : Eng Unit := besides do
  let t ← translate (hubWho fn) va true
  if t.host then act fun s => hostPut s fn (t.addr va) bs
  else
    putGranule (hubWho fn) (t.addr va) bs t.detect
    markDirty (t.addr va) true

/-- Bytes written into an area from a VA on, cut at granules. -/
def areaFuel (fn : Nat) : Nat → Nat → List Byte → Eng Unit
  | 0, _, _ => pure ()
  | fuel + 1, va, bs =>
    match bs with
    | [] => pure ()
    | _ => do
      let k := 256 - va % 256
      areaGranule fn va (bs.take k)
      areaFuel fn fuel (va + k) (bs.drop k)

/-- Bytes written into an area from a VA on. -/
def areaWrite (fn va : Nat) (bs : List Byte) : Eng Unit := areaFuel fn (bs.length / 256 + 2) va bs

/-- The VA of a function's undo area. -/
def undoBase (s : State) (fn : Nat) : Nat := vaPair s .fltUndoLo .fltUndoHi fn 16
/-- The VA of a function's step log. -/
def logBase (s : State) (fn : Nat) : Nat := vaPair s .fltLogLo .fltLogHi fn 16

/-- The granules of a unit read by the hub, as they stand: `n` of them from a physical address on. -/
def unitReads (pa : Nat) : Nat → Eng Unit
  | 0 => pure ()
  | n + 1 => do
    let _ ← besides (do let _ ← readGranule (hubWho 0) pa 256 false)
    unitReads (pa + 256) n

/-- A captured unit copied into the undo area: 65,600 bytes, of which the spec does not say what the 64 beside the unit's
contents hold, so these are free values (R493; log entries 3, 15). -/
def copyUnit (fn k unit : Nat) : Eng Unit := do
  unitReads (unit * 2 ^ 16) 256
  let s ← get
  let head := (List.range 64).map fun i => Config.freeByte (s.free + i)
  act fun s => { s with free := s.free + 64 }
  areaWrite fn (undoBase s fn + imageBytes s fn + 65600 * k) (head ++ peek { s with mem := settledMem s } (unit * 2 ^ 16) 65536)

/-- The unit of a write captured before its first write in the step (R493); a full undo area fails the descriptor with
0xC0 (R499). -/
def capture (w : Who) (va pa : Nat) (detect : Bool) : Eng Unit := do
  let s ← get
  let f := getFn s w.fn
  let unit := pa / 2 ^ 16
  let inMap := dirtyOn s && within pa (dirtyBase s) (2 ^ 21)
  if !f.recOpen || w.snap || detect || captureExempt s w.fn va || inMap || f.undo.any (fun c => c.unit == unit) then pure ()
  else if undoBytes s w.fn < imageBytes s w.fn + 65600 * (f.undo.length + 1) then failWith stPool 0xC0
  else
    copyUnit w.fn f.undo.length unit
    act fun s => updFn s w.fn fun f => { f with undo := f.undo ++ [{ unit := unit, collective := w.coll, cells := unitCells s unit }] }

/-- A write within one granule, with the capture of its unit (`cap`, for a write by virtual address) and its mark in the dirty
map. The access stands at its gates before anything is captured. -/
def writeGranule (w : Who) (cap : Bool) (va pa : Nat) (bs : List Byte) (detect : Bool) : Eng Unit := do
  let s ← get
  let m := mapPa s pa
  mapGate pa
  stackGate m.1
  thermalGate m.1 (lineKey m.1 m.2) (sectorMask m.2 bs.length)
  checkSectors w m.1 m.2 (sectorsRead m.2 bs.length true) detect
  if cap then capture w va pa detect
  putGranule w pa bs detect
  markDirty pa true

/-! ## Reads and writes by virtual address -/

/-- A read of at most one granule by virtual address, from memory. -/
def plainRead (w : Who) (va n : Nat) : Eng (List Byte) := do
  let t ← translate w va false
  if t.host then
    let s ← get
    let a := t.addr va
    act fun s => hostAsk s w.fn a n
    if a / 4096 ∈ s.hostErr then
      act fun s => send s (.aer w.fn a)
      failWith stMemory 0x8B
    else pure (Tab.getN 0#8 s.hostMem a n)
  else
    -- a discard frees a granule with the last bytes that are read of it
    let ends := decide ((va + n) % 256 = 0 ∨ va + n = w.last)
    readGranule { w with hint := if w.hint = 3 && !ends then 1 else w.hint } (t.addr va) n t.detect

/-- A write of at most one granule by virtual address, to memory. -/
def plainWrite (w : Who) (va : Nat) (bs : List Byte) : Eng Unit := do
  let t ← translate w va true
  if t.host then act fun s => hostPut s w.fn (t.addr va) bs
  else writeGranule w true va (t.addr va) bs t.detect

/-! ## Residency windows (R330, R331) -/

/-- The VA of a residency window of a block, and whether the window is enabled (Table 8-8). -/
def windowVa (s : State) (b n : Nat) : Nat :=
  getReg s (rid .blkResLo b n) / 4096 * 4096 + field (getReg s (rid .blkResHi b n)) 0 20 * 2 ^ 32
/-- See `windowVa`. -/
def windowOn (s : State) (b n : Nat) : Bool := getBit s (rid .blkResCtl b n) 0

/-- Whether a VA of a space lies in a window of a block, whatever EN says. -/
def inWindow (s : State) (b space va n : Nat) : Bool :=
  decide (getFld s (rid .blkResCtl b n) 3 5 = space) && within va (windowVa s b n) (4096 * getFld s (rid .blkResCtl b n) 8 11)

/-- The block and the enabled window that serve an access; none for one that memory serves. -/
def servedBy (s : State) (w : Who) (va : Nat) : Option (Nat × Nat) :=
  match w.block with
  | some b => ((List.range 8).find? fun n => windowOn s b n && inWindow s b w.space va n).map fun n => (b, n)
  | none => none

/-- Whether an access must wait for a window's write-back (R332). -/
def flushingAt (s : State) (w : Who) (va : Nat) : Bool :=
  match w.block with
  | some b => (getBlock s b).flushing.any fun n => inWindow s b w.space va n
  | none => false

/-- The page evicted when all 448 are in use: the oldest last access, ties to the lower window and page (R331). -/
def evicted (ps : List Page) : Option Page :=
  ps.foldl (fun a p => match a with
    | none => some p
    | some q => if p.used < q.used ∨ (p.used = q.used ∧ 2048 * p.window + p.page < 2048 * q.window + q.page) then some p
                else some q) none

/-- Bytes written into device memory from a physical address on, a granule at a time: of a page, whose unit was captured and
marked when the page was written. -/
def backFuel (w : Who) (detect : Bool) : Nat → Nat → List Byte → Eng Unit
  | 0, _, _ => pure ()
  | fuel + 1, pa, bs => do
    besides (putGranule w pa (bs.take 256) detect)
    backFuel w detect fuel (pa + 256) (bs.drop 256)

/-- A dirty page written back (R331, R332). -/
def pageBack (p : Page) : Eng Unit :=
  let w := hubWho p.tlb.space
  if !p.dirty then pure ()
  else if p.tlb.host then act fun s => hostPut s w.fn (p.tlb.addr p.va) p.bytes
  else backFuel w p.tlb.detect 16 (p.tlb.addr p.va) p.bytes

/-- The pages of a window written back, as far as they are dirty (R332). -/
def flushPages (b n : Nat) : Eng Unit := do
  let s ← get
  ((getBlock s b).pages.filter fun p => p.window == n).forM pageBack

/-- A page changed. -/
def updPage (s : State) (b n page : Nat) (f : Page → Page) : State :=
  updBlock s b fun k => { k with pages := k.pages.map fun p => if p.window = n ∧ p.page = page then f p else p }

/-- The bytes of a page read from memory, from a VA on. -/
def fillFuel (w : Who) : Nat → Nat → Eng (List Byte)
  | 0, _ => pure []
  | fuel + 1, va => do
    let a ← plainRead w va 256
    let b ← fillFuel w fuel (va + 256)
    pure (a ++ b)

/-- A page of a window filled from memory through class 4; when all 448 are in use the oldest goes, written back first if it is
dirty (R330, R331). -/
def fillPage (w : Who) (b n page : Nat) : Eng Page := do
  let s ← get
  let va := windowVa s b n + 4096 * page
  let t ← translate { w with hint := 0 } va false
  let bytes ← fillFuel { w with hint := 0 } 16 va
  match (if 448 ≤ (getBlock s b).pages.length then evicted (getBlock s b).pages else none) with
  | some q => do
    pageBack q
    act fun s => updBlock (addFld s (rid .blkSramStat b) 24 8 1) b fun k => { k with pages := k.pages.erase q }
  | none => pure ()
  let s ← get
  let p : Page := { window := n, page := page, dirty := false, used := s.useClock + 1, tlb := t, va := va, bytes := bytes }
  act fun s => updBlock { s with useClock := s.useClock + 1 } b fun k => { k with classPtr := 0, pages := k.pages ++ [p] }
  pure p

/-- Single-bit errors of a block's SRAM, corrected and counted (R339). -/
def correctSram (s : State) (b : Nat) : State :=
  (s.upsets.filter (· == .sramBit b)).foldl (fun s _ => addFld s (rid .blkSramStat b) 16 8 1)
    { s with upsets := s.upsets.filter (· != .sramBit b) }

/-- A double-bit error of a block's SRAM reported (Table 8-11). -/
def sramEvent (s : State) (b offset : Nat) (dirty : Bool) : State :=
  emitFn s 0 0x0404 8 b (leBytes 2 b ++ leBytes 4 offset ++ leBytes 1 (bit dirty))

/-- The double-bit error that an access to a page meets, if any: the SRAM offset (R339). -/
def pageUpset (s : State) (b n page : Nat) : Option Nat :=
  s.upsets.findSome? fun u => match u with
    | .sramPage b' n' p' o => if b' = b ∧ n' = n ∧ p' = page then some o else none
    | _ => none

/-- A resident page: filled on its first touch, and again after a double-bit error while it is clean; the error in a dirty page
escalates (R330, R339). -/
def residentPage (w : Who) (b n page : Nat) : Eng Page := do
  act fun s => correctSram s b
  let s ← get
  let held := (getBlock s b).pages.find? fun p => p.window == n && p.page == page
  let bad := pageUpset s b n page
  act fun s => match bad with | some o => { s with upsets := s.upsets.erase (.sramPage b n page o) } | none => s
  match held, bad with
  | some p, none => pure p
  | none, _ => fillPage w b n page
  | some p, some o =>
    act fun s => sramEvent s b o p.dirty
    if p.dirty then throw (.escalate (b / 8) 1)
    else
      act fun s => { s with work := s.work.map fun v => if v.ring = w.ring ∧ v.index = w.index then v.also 3 0x79 else v }
      act fun s => updBlock s b fun k => { k with pages := k.pages.erase p }
      fillPage w b n page

/-- A read served from a page. -/
def pageRead (w : Who) (b n va len : Nat) : Eng (List Byte) := do
  let s ← get
  let off := va - windowVa s b n
  let p ← residentPage w b n (off / 4096)
  act fun s => updPage { s with useClock := s.useClock + 1 } b n (off / 4096) fun p => { p with used := s.useClock + 1 }
  pure ((p.bytes.drop (off % 4096)).take len)

/-- A write served from a page, which is dirty from then on. The step's unit is captured, and marked in the dirty map, as the
write is made (R493, R503). -/
def pageWrite (w : Who) (b n va : Nat) (bs : List Byte) : Eng Unit := do
  let s ← get
  let off := va - windowVa s b n
  let p ← residentPage w b n (off / 4096)
  if !p.tlb.writable then
    let _ ← translate w va true
  let pa := p.tlb.addr p.va + off % 4096
  if !p.tlb.host then capture w va pa p.tlb.detect
  act fun s => updPage { s with useClock := s.useClock + 1 } b n (off / 4096) fun p => { p with
    used := s.useClock + 1, dirty := true
    bytes := p.bytes.take (off % 4096) ++ bs ++ p.bytes.drop (off % 4096 + bs.length) }
  if !p.tlb.host then markDirty pa true

/-! ## Reads and writes of any length -/

/-- A read of at most one granule by virtual address. -/
def readPiece (w : Who) (va n : Nat) : Eng (List Byte) := do
  let s ← get
  if flushingAt s w va then throw .wait
  match servedBy s w va with
  | some k => pageRead w k.1 k.2 va n
  | none => plainRead w va n

/-- A write of at most one granule by virtual address. -/
def writePiece (w : Who) (va : Nat) (bs : List Byte) : Eng Unit := do
  let s ← get
  if flushingAt s w va then throw .wait
  match servedBy s w va with
  | some k => pageWrite w k.1 k.2 va bs
  | none => plainWrite w va bs

/-- A read cut at granules. -/
def vreadFuel (w : Who) : Nat → Nat → Nat → Eng (List Byte)
  | 0, _, _ => pure []
  | fuel + 1, va, n =>
    if n = 0 then pure []
    else do
      let k := min n (256 - va % 256)
      let a ← readPiece w va k
      let b ← vreadFuel w fuel (va + k) (n - k)
      pure (a ++ b)

/-- `n` bytes read from a VA on. -/
def vread (w : Who) (va n : Nat) : Eng (List Byte) := vreadFuel w (n / 256 + 2) va n

/-- A write cut at granules. -/
def vwriteFuel (w : Who) : Nat → Nat → List Byte → Eng Unit
  | 0, _, _ => pure ()
  | fuel + 1, va, bs =>
    match bs with
    | [] => pure ()
    | _ => do
      let k := 256 - va % 256
      writePiece w va (bs.take k)
      vwriteFuel w fuel (va + k) (bs.drop k)

/-- Bytes written from a VA on. -/
def vwrite (w : Who) (va : Nat) (bs : List Byte) : Eng Unit := vwriteFuel w (bs.length / 256 + 2) va bs

/-- `n` bytes read from a device physical address on, in the correction class, cut at granules. -/
def preadFuel (w : Who) : Nat → Nat → Nat → Eng (List Byte)
  | 0, _, _ => pure []
  | fuel + 1, pa, n =>
    if n = 0 then pure []
    else do
      let k := min n (256 - pa % 256)
      let a ← readGranule w pa k false
      let b ← preadFuel w fuel (pa + k) (n - k)
      pure (a ++ b)

/-- `n` bytes read from a device physical address on. -/
def pread (w : Who) (pa n : Nat) : Eng (List Byte) := preadFuel w (n / 256 + 2) pa n

/-- Bytes written from a device physical address on, in the correction class, cut at granules. -/
def pwriteFuel (w : Who) : Nat → Nat → List Byte → Eng Unit
  | 0, _, _ => pure ()
  | fuel + 1, pa, bs =>
    match bs with
    | [] => pure ()
    | _ => do
      let k := 256 - pa % 256
      writeGranule w false 0 pa (bs.take k) false
      pwriteFuel w fuel (pa + k) (bs.drop k)

/-- Bytes written from a device physical address on. -/
def pwrite (w : Who) (pa : Nat) (bs : List Byte) : Eng Unit := pwriteFuel w (bs.length / 256 + 2) pa bs

/-- A number of `n` bytes read at a VA. -/
def vreadNat (w : Who) (va n : Nat) : Eng Nat := do
  let bs ← vread w va n
  pure (leNat bs)

end Sys2Proof.Machine
end

