-- ==== Sys2Proof/Machine/Clock.lean ====
section
/-! DEFINITION. The passing of device time, and the errors that strike the device as it passes. -/

namespace Sys2Proof.Machine

/-- An error that strikes the device: bytes of a sector of device memory are erroneous from now on, up to all 32 (R366); any other
stays until the unit that holds it meets it. A single bit of a record is corrected and counted at once (R480). -/
def strike (s : State) (u : Upset) : State :=
  match u with
  | .sector stack sector bytes =>
    { s with bad := Tab.upd 0 s.bad (sectorKey stack (32 * sector)) fun n => min 32 (n + bytes) }
  | .recordBit region => updRegion s region fun g => { g with recFixed := g.recFixed + 1 }
  | u => { s with upsets := s.upsets ++ [u] }

/-- One management-clock cycle of the 64-bit device time, which counts while PERST# is released and PLL_MGT runs (R116,
R537, R556). The error that strikes at a device time is a free value (DESIGN CHOICE, log entry 71). -/
def tick (s : State) : State :=
  if s.start.perst ∨ s.power.thermtrip ∨ s.power.railStop ∨ s.power.mgtLost then s
  else { (match Config.upsetAt s.time with | some u => strike s u | none => s) with time := (s.time + 1) % 2 ^ 64 }

end Sys2Proof.Machine
end

