-- ==== Sys2Proof/Machine/Tensor.lean ====
section
/-! DEFINITION. Tensors in memory: headers and their checks (R146–R149), group table entries (R156), reading a tensor
narrow or wide (R147, R174), and writing one: scales, probe mode, widening into the oasis (R151–R155, R172–R178). -/

namespace Sys2Proof.Machine

/-- A tensor header (Table 4-6). -/
structure Hdr where
  va : Nat
  bytes : List Byte
  deriving DecidableEq, Repr

/-- Format code. -/
def Hdr.fmt (h : Hdr) : Nat := leAt h.bytes 4 1 % 128
/-- LOG2_BLOCK. -/
def Hdr.log2 (h : Hdr) : Nat := leAt h.bytes 5 1
/-- HEADROOM. -/
def Hdr.headroom (h : Hdr) : Nat := leAt h.bytes 6 1 % 4
/-- FLAGS.WIDE. -/
def Hdr.wide (h : Hdr) : Bool := flag (leAt h.bytes 7 1) 0
/-- GROUP. -/
def Hdr.group (h : Hdr) : Nat := leAt h.bytes 8 2
/-- TSCALE. -/
def Hdr.tscale (h : Hdr) : Nat := leAt h.bytes 12 4
/-- ELEMENTS. -/
def Hdr.elements (h : Hdr) : Nat := leAt h.bytes 16 8
/-- Address of WIDE_PA. -/
def Hdr.widePa (h : Hdr) : Nat := field (leAt h.bytes 24 8) 0 40
/-- Wide format code of WIDE_PA. -/
def Hdr.wideFmt (h : Hdr) : Nat := field (leAt h.bytes 24 8) 40 8

/-- The header's own refusals under R148, its element count apart: MAGIC, FORMAT, LOG2_BLOCK, GROUP, reserved fields,
ELEMENTS out of range. -/
def Hdr.refused (h : Hdr) (fmtByte : Nat) : Bool :=
  decide (h.bytes.take 4 ≠ [0x56#8, 0x54#8, 0x48#8, 0x44#8])
    || decide (leAt h.bytes 4 1 ≠ fmtByte) || !fmtBlockOk h.fmt h.log2
    || decide (4095 < h.group)
    || decide (field (leAt h.bytes 6 1) 2 6 ≠ 0) || decide (field (leAt h.bytes 7 1) 1 7 ≠ 0)
    || decide (leAt h.bytes 10 2 ≠ 0) || decide (field (leAt h.bytes 24 8) 48 16 ≠ 0) || decide (leAt h.bytes 44 20 ≠ 0)
    || decide (h.elements = 0 ∨ 2 ^ 40 < h.elements)

/-- A group table entry (Table 4-7). -/
structure Grp where
  bytes : List Byte
  deriving DecidableEq, Repr

/-- CLASS. -/
def Grp.cls (g : Grp) : Nat := leAt g.bytes 0 1 % 8
/-- NORM_EN. -/
def Grp.normEn (g : Grp) : Bool := flag (leAt g.bytes 0 1) 3
/-- WIDE_FMT. -/
def Grp.wideFmt (g : Grp) : Nat := leAt g.bytes 1 1
/-- GROWTH. -/
def Grp.growth (g : Grp) : Nat := leAt g.bytes 2 1 % 4
/-- NORM_FACTOR, 0 meaning 8. -/
def Grp.factor (g : Grp) : Nat := if leAt g.bytes 3 1 = 0 then 8 else leAt g.bytes 3 1
/-- HIST: the next slot. -/
def Grp.slot (g : Grp) : Nat := leAt g.bytes 4 1 % 16
/-- HIST_VALID. -/
def Grp.histValid (g : Grp) : Bool := flag (leAt g.bytes 4 1) 4
/-- PROBE. -/
def Grp.probe (g : Grp) : Bool := flag (leAt g.bytes 4 1) 5
/-- HIST_COUNT. -/
def Grp.count (g : Grp) : Nat := leAt g.bytes 5 1
/-- HISTORY. -/
def Grp.history (g : Grp) : List Nat := (List.range 16).map fun i => leAt g.bytes (64 + 4 * i) 4

/-- The entry's refusals under R148. -/
def Grp.refused (g : Grp) : Bool :=
  decide (5 ≤ g.cls) || decide (field (leAt g.bytes 0 1) 4 4 ≠ 0) || decide (field (leAt g.bytes 2 1) 2 6 ≠ 0)
    || decide (field (leAt g.bytes 4 1) 6 2 ≠ 0) || decide (1 < g.wideFmt) || decide (leAt g.bytes 3 1 = 1)

/-- Whether a function's group table is enabled. -/
def grpEnabled (s : State) (fn : Nat) : Bool := getBit s (rid .numGrpBaseLo fn) 0

/-- The VA of a group's entry. -/
def grpVa (s : State) (fn g : Nat) : Nat := vaPair s .numGrpBaseLo .numGrpBaseHi fn 12 + 128 * g

/-- The step number of a function. -/
def stepOf (s : State) (fn : Nat) : Nat := getReg s (rid .numStep fn)

/-- A group's entry read; its refusals carry 0x41. -/
def readGrp (w : Who) (g : Nat) : Eng Grp := do
  let s ← get
  ensure (grpEnabled s w.fn) stBad 0x41
  let bs ← vread w (grpVa s w.fn g) 128
  ensure (!(Grp.mk bs).refused) stBad 0x41
  pure ⟨bs⟩

/-- A header read and checked with its group (R148). A count the descriptor gives must agree, or the refusal carries
`code`. -/
def readHdr (w : Who) (va fmtByte : Nat) (count : Option Nat) (code : Nat) : Eng (Hdr × Grp) := do
  let bs ← vread w va 64
  let h : Hdr := ⟨va, bs⟩
  ensure (!h.refused fmtByte) stBad 0x41
  match count with
  | some n => ensure (decide (h.elements = n)) stBad code
  | none => pure ()
  let g ← readGrp w h.group
  pure (h, g)

/-- The copy of the oasis that a header's WIDE_PA names, for its function and group (R174). -/
def wideCopyOf (s : State) (fn : Nat) (h : Hdr) : Option WideCopy :=
  s.oasis.find? fun c => decide (c.pa = h.widePa ∧ c.fn = fn ∧ c.group = h.group)

/-- The values of a headed tensor: from its wide copy where WIDE is 1 (R174), else from its narrow area (R147). -/
def readBody (w : Who) (h : Hdr) : Eng (List Val) := do
  let s ← get
  let n := h.elements
  if h.wide then
    match wideCopyOf s w.fn h with
    | none => failWith stDenied 0x40
    | some _ =>
      let bs ← pread w h.widePa (areaBytes h.wideFmt n)
      pure (decodeTensor h.wideFmt 0 n 0 [] bs)
  else
    let blocks := ceilDiv n (2 ^ h.log2)
    let scales ← if fmtScaled h.fmt then vread w (h.va + 64) blocks else pure []
    let area ← vread w (h.va + areaOffset h.fmt h.log2 n) (areaBytes h.fmt n)
    pure (decodeTensor h.fmt h.log2 n h.tscale scales area)

/-- The values of an operand: `fmtByte` with H at 1 names a header, else the first element (R129). -/
def readTensor (w : Who) (va fmtByte count code : Nat) : Eng (List Val) := do
  if flag fmtByte 7 then
    let hg ← readHdr w va fmtByte (some count) code
    readBody w hg.1
  else
    let c := fmtByte % 128
    let bs ← vread w va (areaBytes c count)
    pure (decodeTensor c 0 count 0 [] bs)

/-! ## The oasis (R172–R176) -/

/-- Base of the pool. -/
def oasisBase (s : State) : Nat :=
  field (getReg s (rid .numOasisBaseLo)) 21 11 * 2 ^ 21 + field (getReg s (rid .numOasisBaseHi)) 0 8 * 2 ^ 32

/-- 64 KiB units of the pool. -/
def oasisUnits (s : State) : Nat := getFld s (rid .numOasisSize) 0 16 * 1024

/-- Units held, by a function or by all. -/
def oasisUsed (s : State) : Nat := s.oasis.foldl (fun n c => n + c.units) 0
/-- Units a function holds. -/
def oasisUsedBy (s : State) (fn : Nat) : Nat := (s.oasis.filter fun c => c.fn == fn).foldl (fun n c => n + c.units) 0

/-- The quota of a function in units; none for no limit. -/
def oasisQuota (s : State) (fn : Nat) : Option Nat :=
  let q := getFld s (rid .numOasisQuota fn) 0 16
  if q = 0xFFFF then none else some (q * 1024)

/-- A place for `n` units: the lowest free run (DESIGN CHOICE, log entry 14). -/
def oasisPlace (s : State) (n : Nat) : Option Nat :=
  let base := oasisBase s
  let top := base + oasisUnits s * 65536
  let starts := base :: s.oasis.map fun c => c.pa + c.units * 65536
  let fits (a : Nat) : Bool :=
    decide (a + n * 65536 ≤ top) && s.oasis.all fun c => decide (a + n * 65536 ≤ c.pa ∨ c.pa + c.units * 65536 ≤ a)
  (starts.filter fits).foldl (fun m a => match m with | none => some a | some b => some (min a b)) none

/-- An allocation: the quota first, then the pool (R172). A failure is remembered for the next fence (R177). -/
def oasisAlloc (w : Who) (group headerVa units : Nat) : Eng Nat := do
  let s ← get
  let lost (quota : Bool) : Eng Nat := do
    act fun s => updFn s w.fn fun f =>
      { f with oasisFail := match f.oasisFail with | some x => some x | none => some (w.ring, group, units, quota) }
    failWith stPool (if quota then 0x41 else 0x40)
  -- after a failure every descriptor that needs space fails, up to the boundary (R177)
  match (getFn s w.fn).oasisFail with
  | some x => let _ ← lost x.2.2.2
  | none => pure ()
  match oasisQuota s w.fn with
  | some q => if q < oasisUsedBy s w.fn + units then let _ ← lost true
  | none => pure ()
  match (if oasisUnits s < oasisUsed s + units then none else oasisPlace s units) with
  | none => lost false
  | some pa =>
    act fun s => { s with
      oasis := s.oasis ++ [{ fn := w.fn, group := group, headerVa := headerVa, pa := pa, units := units, step := stepOf s w.fn }]
      oasisPtr := (min w.mmu 16 + 1) % 17 }
    pure pa

/-- A copy freed. -/
def oasisFree (s : State) (pa : Nat) : State := { s with oasis := s.oasis.filter fun c => decide (c.pa ≠ pa) }

/-! ## Writing -/

/-- The units a wide copy of `n` elements takes. -/
def wideUnits (fmt n : Nat) : Nat := ceilDiv (areaBytes fmt n) 65536

/-- What a write of a tensor leaves for its descriptor's completion. -/
structure Wrote where
  group : Option GroupWrite
  widened : Bool
  deriving DecidableEq, Repr

/-- Free bytes for an area whose contents are not defined (R173; DESIGN CHOICE, log entry 3). -/
def freeBytes (n : Nat) : Eng (List Byte) := do
  let s ← get
  act fun s => { s with free := s.free + n }
  pure ((List.range n).map fun i => Config.freeByte (s.free + i))

/-- The header fields the VT2 writes (R149): FLAGS, TSCALE, WIDE_PA, AMAX, STEP, NORM. STEP is NUM_STEP as the header is written
(DESIGN CHOICE, log entry 84). -/
def writeHdr (w : Who) (va : Nat) (wide : Bool) (tscale widePa amax norm : Nat) : Eng Unit := do
  let s ← get
  vwrite w (va + 7) (leBytes 1 (bit wide))
  vwrite w (va + 12) (leBytes 4 tscale)
  vwrite w (va + 24) (leBytes 8 widePa ++ leBytes 4 amax ++ leBytes 4 (stepOf s w.fn) ++ leBytes 4 norm)

/-- The code of 1.0 in FP32. -/
def one32 : Nat := 0x3F800000

/-- The codes of a tensor's values in a wide format. -/
def wideCodes (fmt : Nat) (vs : List Val) : List Nat := vs.map fun v => ((if fmt = 1 then bf16 else fp32).convert v).code

/-- Probe mode (R178): PROBE set with its event, and the result written in WIDE_FMT to a transient allocation, which is then
freed. -/
def probeWrite (w : Who) (h : Hdr) (g : Grp) (vs : List Val) : Eng Unit := do
  if !g.probe then
    let s ← get
    vwrite w (grpVa s w.fn h.group + 4) (leBytes 1 (leAt g.bytes 4 1 + 32))
    act fun s => emitDesc s w.fn w.ring 0x0106 5 0 (leBytes 2 h.group)
  let pa ← oasisAlloc w h.group h.va (wideUnits g.wideFmt h.elements)
  pwrite w pa (packArea g.wideFmt (wideCodes g.wideFmt vs))
  act fun s => oasisFree s pa

/-- The copy that a header with WIDE 1 names; one that is no copy of its function and group is refused (R174). -/
def heldCopy (w : Who) (h : Hdr) : Eng (Option WideCopy) := do
  let s ← get
  if h.wide then
    match wideCopyOf s w.fn h with
    | some c => pure (some c)
    | none => failWith stDenied 0x40
  else pure none

/-- The group update of a write of `n` elements with a census (R157). -/
def groupWrite (w : Who) (h : Hdr) (g : Grp) (n : Nat) (c : Census) (amax norm : Nat) : GroupWrite :=
  { space := w.space, headerVa := h.va, group := h.group, elements := n, zeros := c.zeros, saturated := c.saturated,
    nonfinite := c.nonfinite, amax := amax, norm := norm, alloc := 0, free := 0, probe := false,
    normed := g.normEn && decide (g.cls = 2 ∨ g.cls = 3), grad := decide (g.cls = 3) }

/-- A write that does not widen frees the tensor's wide copy (R175). -/
def narrowWrote (old : Option WideCopy) (gw : GroupWrite) : Eng Wrote :=
  match old with
  | some cpy => do
    act fun s => oasisFree s cpy.pa
    pure ⟨some { gw with free := cpy.units }, false⟩
  | none => pure ⟨some gw, false⟩

/-- The wide copy of a widened write (R173): the tensor's own where it has the size, else a new one, and the old one freed
(DESIGN CHOICE, log entry 86). It answers the address and the units allocated and freed. -/
def copyFor (w : Who) (h : Hdr) (old : Option WideCopy) (units : Nat) : Eng (Nat × Nat × Nat) := do
  match old with
  | some cpy =>
    if cpy.units = units then pure (cpy.pa, 0, 0)
    else
      let pa ← oasisAlloc w h.group h.va units
      act fun s => oasisFree s cpy.pa
      pure (pa, units, cpy.units)
  | none =>
    let pa ← oasisAlloc w h.group h.va units
    pure (pa, units, 0)

/-- A headed tensor written (R149, R151–R155, R173, R175, R178): `xs` are codes of `src`, in element order (DEDUCED,
log entry 45). AMAX and T follow the values themselves; the norm is formed of the values converted into FP32 (DESIGN CHOICE,
log entry 83). -/
def writeHeaded (w : Who) (h : Hdr) (g : Grp) (src : Bin) (xs : List Nat) : Eng Wrote := do
  let c := h.fmt
  let vq := decide (0x20 ≤ c)
  let top := src.amax xs
  let amax := toFp32 (src.decode top)
  let norm := if g.cls = 2 ∨ g.cls = 3 then norm32 (xs.map fun x => toFp32 (src.decode x)) else 0
  let old ← heldCopy w h
  let probing := vq && !g.histValid
  if probing then probeWrite w h g (xs.map src.decode)
  let k : Int :=
    if !vq then 0
    else if probing then tensorScaleOf (src.parts top).1 (src.parts top).2 (vqMax c) g.growth
    else tensorScaleExp (historyMax g.slot g.count g.history) (vqMax c) g.growth
  let enc := encodeTensor src c h.log2 h.headroom k xs
  let tscale := if vq then pow2code k else one32
  if enc.overflow then
    let wf := g.wideFmt
    let units := wideUnits wf xs.length
    let pa ← copyFor w h old units
    let codes := wideCodes wf (wideValues src c k enc.blocks (runs (2 ^ h.log2) xs))
    pwrite w pa.1 (packArea wf codes)
    let sc ← freeBytes (ceilDiv xs.length (2 ^ h.log2))
    vwrite w (h.va + 64) sc
    let ar ← freeBytes (areaBytes c (padded h.log2 xs.length))
    vwrite w (h.va + areaOffset c h.log2 xs.length) ar
    writeHdr w h.va true tscale (pa.1 + wf * 2 ^ 40) amax norm
    act fun s => emitDesc s w.fn w.ring 0x0101 5 0 (leBytes 2 h.group ++ leBytes 4 units)
    let zeros := (codes.filter (if wf = 1 then bf16 else fp32).isZero).length
    let gw := groupWrite w h g xs.length { enc.census with zeros := zeros } amax norm
    pure ⟨some { gw with probe := probing, alloc := pa.2.1, free := pa.2.2 }, true⟩
  else
    if fmtScaled c then vwrite w (h.va + 64) enc.scales
    vwrite w (h.va + areaOffset c h.log2 xs.length) enc.area
    writeHdr w h.va false tscale 0 amax norm
    narrowWrote old { groupWrite w h g xs.length enc.census amax norm with probe := probing }

/-- An operand written: headed, with its checks, or element by element (counted nowhere, R162). -/
def writeTensor (w : Who) (va fmtByte code : Nat) (src : Bin) (xs : List Nat) : Eng Wrote := do
  if flag fmtByte 7 then
    let hg ← readHdr w va fmtByte (some xs.length) code
    writeHeaded w hg.1 hg.2 src xs
  else
    match fmtBin (fmtByte % 128) with
    | some f =>
      vwrite w va (packArea (fmtByte % 128) (convertAll src f xs).1)
      pure ⟨none, false⟩
    | none => pure ⟨none, false⟩

end Sys2Proof.Machine
end

