-- ==== Sys2Proof/Machine/Work.lean ====
section
/-! DEFINITION. Work in flight: the dispatched descriptors, their transaction records (R477–R479), who accesses memory for
them, and how a command runs one of them on its engine. -/

namespace Sys2Proof.Machine

/-- What a meaning answers: the state it makes, with the queue of waiting commands as it stood. A command acts on everything
but the queue. -/
def finish (s t : State) : Host.Outcome State Fault Refusal := .next { t with pending := s.pending }

/-- A command that acts while the device is live; else nothing happens (DESIGN CHOICE, log entry 5). -/
def whenLive (s : State) (f : State → State) : Host.Outcome State Fault Refusal := finish s (if live s then f s else s)

/-- A command of the host: it acts while the host reaches the device (DESIGN CHOICE, log entry 5). -/
def whenHost (s : State) (f : State → State) : Host.Outcome State Fault Refusal := finish s (if hostLive s then f s else s)

/-! ## Accesses while the device is stopped under R621 -/

/-- Whether the device is stopped under R621 with its host link up: the hub's windows still answer (DEDUCED, log entry
48). -/
def railMode (s : State) : Bool :=
  s.power.railStop && !s.start.perst && !s.power.thermtrip && !s.power.mgtLost && !s.power.hostLost && s.start.configReady

/-- What a message of the device is while it is stopped under R621: only completions of host accesses leave it. -/
def Out.answers : Out → Bool
  | .completion .. => true
  | _ => false

/-- The effect of an access while the device is stopped under R621: on registers, and no request of its own. -/
def railEffect (s t : State) : State :=
  { s with
    regs := t.regs
    heldLow := t.heldLow
    shadow := t.shadow
    free := t.free
    out := (t.out.take (t.out.length - s.out.length)).filter Out.answers ++ s.out }

/-- An access of the host to a window: it acts while the host reaches the device; under R621 only in the hub's window, and any
other completes with Completer Abort. -/
def whenWindow (s : State) (fn : Nat) (w : Nat × Nat) (f : State → State) : Host.Outcome State Fault Refusal :=
  finish s <|
    if hostLive s then f s
    else if railMode s then
      if w = (1, 0) then railEffect s (f s) else send s (.completion fn .completerAbort [])
    else s

/-- Whether a function's access reaches a register (R45, R603): one of the device's, in a window of the function that
is there, with its clock enabled. The registers that each function has are in its own windows (DESIGN CHOICE, log
entry 47). -/
def reaches (s : State) (fn : Nat) (r : RegId) : Bool :=
  regExists r && decide (fn ≤ s.numVfs) && (if regInVf r.name then r.i == fn else fn == 0)
    && windowThere s (regWindow r) && windowOpen s (regWindow r)

/-- A write of a register that is a command of its own: it acts where the function's access reaches the register. Under R621 one
in the hub's window does nothing (DEDUCED, log entry 48), and any other completes with Completer Abort. -/
def whenReg (s : State) (fn : Nat) (r : RegId) (f : State → State) : Host.Outcome State Fault Refusal :=
  finish s <|
    if hostLive s then (if reaches s fn r then f s else s)
    else if railMode s ∧ regWindow r ≠ (1, 0) then send s (.completion fn .completerAbort [])
    else s

/-! ## The list of dispatched descriptors -/

/-- Whether a descriptor is the one of a ring and an index. -/
def Work.isAt (ring index : Nat) (w : Work) : Bool := w.ring == ring && w.index == index

/-- A dispatched descriptor. -/
def findWork (s : State) (ring index : Nat) : Option Work := s.work.find? (Work.isAt ring index)

/-- A dispatched descriptor changed. -/
def updWork (s : State) (ring index : Nat) (f : Work → Work) : State :=
  { s with work := s.work.map fun w => if w.isAt ring index then f w else w }

/-- A dispatched descriptor replaced by its new value. -/
def putWork (s : State) (w : Work) : State := updWork s w.ring w.index fun _ => w

/-- A dispatched descriptor taken off the list. -/
def dropWork (s : State) (ring index : Nat) : State := { s with work := s.work.filter fun w => !w.isAt ring index }

/-- Descriptors of a ring dispatched and not complete. -/
def inFlight (s : State) (ring : Nat) : Nat := (s.work.filter fun w => w.ring == ring).length

/-- The opcode of a dispatched descriptor. -/
def Work.op (w : Work) : Option Op := opOf w.desc.opcode

/-- A descriptor whose work ends with a status and a detail code (R8, R9). -/
def Work.fail (w : Work) (status dcode : Nat) : Work := { w.also status dcode with phase := .done }

/-- The region whose records and MMU a place uses: region 4 for hub placement (Table 13-2). -/
def Place.regionOf : Place → Nat
  | .hub => 4
  | .block b => b / 8
  | .region r => r

/-- The MMU of a place: its region's, or the hub's (16). -/
def Place.mmuOf : Place → Nat
  | .hub => 16
  | .block b => b / 8
  | .region r => r

/-- The accesses of a dispatched descriptor. -/
def whoOf (w : Work) : Who :=
  { ring := w.ring, index := w.index, fn := w.fn, space := w.fn, mmu := w.place.mmuOf
    block := match w.place with | .block b => some b | _ => none
    coll := w.desc.opcode == 0x38 }

/-- The state with nothing that holds an access: no stack in the critical state, no change of a segment's mode. -/
def unheld (s : State) : State :=
  { s with
    mapBusy := none
    hbm := s.hbm.map fun k => (k.1, if k.2.thermal = .critical then { k.2 with thermal := .hot } else k.2) }

/-- What holds accesses in `s` put back into `t`. -/
def heldAgain (s t : State) : State :=
  { t with mapBusy := s.mapBusy, hbm := t.hbm.map fun k => (k.1, { k.2 with thermal := (getStack s k.1).thermal }) }

/-- Engine work outside any descriptor that leaves no trace when it cannot be done. Accesses of it that a critical stack or a
change of a segment's mode holds are carried out all the same, for nothing else can reach their bytes meanwhile (DESIGN
CHOICE, log entry 81). -/
def quiet {α : Type} (m : Eng α) (s : State) : Option α × State :=
  match m.on (unheld s) with
  | (.ok a, t) => (some a, heldAgain s t)
  | (.error _, _) => (none, s)

/-! ## Transaction records (R477–R479) -/

/-- Records held in a region. -/
def recsIn (s : State) (region : Nat) : Nat := (s.recs.filter fun n => n / 65536 == region).length

/-- The lowest free record at or after a number; `fuel` bounds the search. -/
def freeFrom (s : State) : Nat → Nat → Nat
  | 0, n => n
  | fuel + 1, n => if n ∈ s.recs then freeFrom s fuel (n + 1) else n

/-- An engine of a region begins to wait for a free record; the wait is counted (R479). -/
def recordWait (s : State) (region : Nat) : State :=
  if (getRegion s region).recWait.isSome then s
  else updRegion (addFld s (rid .fltRecStat region) 17 15 1) region fun g => { g with recWait := some s.time }

/-- A record taken in a region, the lowest free one (DESIGN CHOICE, log entry 16): its number, and its generation
raised. None when the region's share is full; the wait is counted (R479). -/
def takeRec (s : State) (region : Nat) : Option Nat × State :=
  if 65536 ≤ recsIn s region then (none, recordWait s region)
  else
    let n := freeFrom s (recsIn s region) (65536 * region)
    (some n, { s with recs := n :: s.recs, recGen := Tab.upd 0 s.recGen n fun g => (g + 1) % 4096 })

/-- A record freed; a wait for one ends. -/
def freeRec (s : State) (n : Nat) : State :=
  let s := if (getRegion s (n / 65536)).recWait.isSome then
      updRegion s (n / 65536) fun g => { g with recWait := none } else s
  { s with recs := s.recs.filter (· ≠ n) }

/-! ## The engines that hold a descriptor -/

/-- Whether an issue hold is in force (R524). -/
def issueHold (s : State) : Bool := s.power.sagHold || !s.power.pllHold.isEmpty

/-- A leaf whose LEAF_PROGRAM or LEAF_READBACK ends before its time, where `p` names the descriptor: EMPTY after a LEAF_PROGRAM
(R230); after a LEAF_READBACK VALID with its old image, or PROGRAMMED where it has none (Table 5-5) (DEDUCED, log entry 88). -/
def LeafRec.letGo (p : Nat → Nat → Bool) (l : LeafRec) : LeafRec :=
  match l.owner with
  | some k =>
    if p k.1 k.2 then
      { l with owner := none, toRead := 0, rounds := 0
               state := match l.state with
                 | .programming => .empty
                 | .reading => if l.record.isSome then .valid else .programmed
                 | st => st }
    else l
  | none => l

/-- A block whose clone goes back to EMPTY once no TILE_EVALUATE of the retired cell is left but those that `p` names (R268). -/
def Block.letClone (s : State) (p : Nat → Nat → Bool) (b : Block) : Block :=
  match b.clone with
  | some cell =>
    if s.work.any fun w => w.op == some .tileEvaluate && w.desc.target == cell && !p w.ring w.index then b
    else { b with clone := none, cloneLeaf := .empty }
  | none => b

/-- Every engine lets go of the descriptors that `p` names. -/
def clearEngines (s : State) (p : Nat → Nat → Bool) : State :=
  let cell (c : Cell) : Cell :=
    let c := { c with leafA := c.leafA.letGo p, leafB := c.leafB.letGo p }
    match c.eval with
    | some e => if p e.ring e.index then { c with eval := none } else c
    | none => c
  let block (b : Block) : Block := { b.letClone s p with
    vec := b.vec.filter fun v => !p v.ring v.index
    dmu0 := b.dmu0.filter fun k => !p k.1 k.2
    dmu1 := b.dmu1.filter fun k => !p k.1 k.2 }
  let region (r : Region) : Region := { r with rule := r.rule.filter fun v => !p v.ring v.index }
  let stack (k : Stack) : Stack := { k with held := k.held.filter fun h => !p h.1 h.2 }
  { s with
    cells := s.cells.map fun c => (c.1, cell c.2)
    blocks := s.blocks.map fun b => (b.1, block b.2)
    regions := s.regions.map fun r => (r.1, region r.2)
    hbm := s.hbm.map fun k => (k.1, stack k.2) }

/-- Whether a region's engines run: no reset is running (R487). -/
def regionRuns (s : State) (r : Nat) : Bool := (getRegion s r).resetSince.isNone

/-- Whether a descriptor's engine may work on it now: nothing holds the engines, the descriptor's step is not being rolled
back (R495), and the clock of its block runs (R64). -/
def engineRuns (s : State) (w : Work) : Bool :=
  !s.failStop && !issueHold s && !w.stopped && w.phase != .granted
    && (regionRuns s w.place.regionOf || w.place == .hub)
    && ((getFn s w.fn).rollWait.isNone || w.op == some .snapshot)
    && (match w.place with | .block b => clkRuns s (32 + b) | _ => true)

/-- The UPDATE_STEP descriptors of a region's unit whose work has not ended, in dispatch order (R393). -/
def updWaiting (s : State) (r : Nat) : List Work :=
  s.work.filter fun w => w.op == some .updateStep && w.place == .region r && w.phase == .running

/-- The descriptors in the queue of a region's unit: all but the one it runs (R393). -/
def updQueued (s : State) (r : Nat) : Nat := (updWaiting s r).length - 1

/-- A descriptor whose access waits for a stack in the critical state (R372) (DEDUCED, log entry 58). -/
def holdAt (s : State) (stack ring index : Nat) : State :=
  updStack s stack fun k => if (ring, index) ∈ k.held then k else { k with held := k.held ++ [(ring, index)] }

end Sys2Proof.Machine
end

