-- ==== Sys2Proof/Machine/Bar4.lean ====
section
/-! DEFINITION. Accesses through BAR4 (R41–R43, R366, R367, R372). -/

namespace Sys2Proof.Machine

/-- A part of a BAR4 access within one granule: where it goes, and whether in the detection class. -/
structure Part4 where
  host : Bool
  addr : Nat
  len : Nat
  detect : Bool
  deriving DecidableEq, Repr

/-- Bytes of an access. -/
def accessLen : Access → Nat
  | .read n => n
  | .write bs => bs.length

/-- How a part of an access stands: it may go ahead, it waits, or it is aborted with a report already made. -/
inductive Stand where
  | ok
  | wait
  | abort (s : State)

/-- A gated-access event of BAR4 (R43, Table 3-16): cause 1 the stack is not PRESENT, 2 at or above 1 TiB, 3 the translation. -/
def gated4 (s : State) (fn type inst cause addr : Nat) (write : Bool) : State :=
  emitFn s fn 0x0001 type inst
    (leBytes 1 4 ++ leBytes 1 cause ++ leBytes 2 0xFFFF ++ leBytes 1 (bit write) ++ leBytes 3 0 ++ leBytes 8 addr)

/-- Size of a function's BAR4 as a power of two: 256 MiB after reset (R40). No command of the table changes it (DESIGN CHOICE, log
entry 99). -/
def barLog (s : State) (fn : Nat) : Nat := Tab.get 28 s.bar4Log fn

/-- Where the PF's BAR4 begins: the low bits of its base below the BAR's size are ignored (R42). -/
def bar4Base (s : State) : Nat := getPair s .hubBar4BaseLo .hubBar4BaseHi / 2 ^ barLog s 0 * 2 ^ barLog s 0

/-- Whether a part waits for an entry of its page tables: a segment whose mode is being changed, or a critical stack (R344,
R372). -/
def walkWaits (s : State) (fn x : Nat) : Bool :=
  (lookupPas s 16 fn x).any fun pa =>
    let m := mapPa s pa
    flag (changedSegs s) (pa / 2 ^ 34)
      || (present s 13 m.1 && !sectorLost s m.1 m.2 && thermalWait s m.1 (lineKey m.1 m.2) (sectorMask m.2 8))

/-- Where a part of an access at offset `x` of the BAR goes: the PF's to HUB_BAR4_BASE + x in the correction class, a VF's through
its address space (R41, R43, R366, R367). -/
def part4 (s : State) (fn x len : Nat) (write : Bool) : Part4 ⊕ Stand :=
  if fn = 0 then .inl ⟨false, bar4Base s + x, len, false⟩
  else if walkWaits s fn x then .inr .wait
  else match lookup s 16 fn x with
    | .ok p =>
      if write && !p.writable then .inr (.abort (gated4 s fn 1 0 3 x write)) else .inl ⟨p.host, p.addr x, len, p.detect⟩
    | .sector stack la _ => .inr (.abort (reportSector s fn stack la 2))
    | .gated stack => .inr (.abort (gated4 s fn 13 stack 1 x write))
    | _ => .inr (.abort (gated4 s fn 1 0 3 x write))

/-- The sector of a part that cannot be read, if any: lost in the slice, or beyond correction; a granule whose detection
check fails counts as uncorrectable (DEDUCED, log entry 28). -/
def badSector (s : State) (stack la : Nat) (as : List Nat) (detect : Bool) : Option Nat :=
  match as.find? (sectorLost s stack) with
  | some a => some a
  | none =>
    let missing := as.filter fun a => !sectorHeld s stack a
    if missing.isEmpty then none
    else if detect then (granuleSectors la).find? fun a => decide (0 < sectorErrs s stack a) || mixedClass s stack a true
    else missing.find? (sectorFails s stack)

/-- How a part stands (R43, R344, R367, R372). -/
def stand4 (s : State) (fn x : Nat) (write : Bool) (p : Part4) : Stand :=
  if p.host then
    if !write && decide (p.addr / 4096 ∈ s.hostErr) then .abort (send s (.aer fn p.addr)) else .ok
  else if 2 ^ 40 ≤ p.addr then .abort (gated4 s fn 1 0 2 x write)
  else
    let m := mapPa s p.addr
    if !present s 13 m.1 then .abort (gated4 s fn 13 m.1 1 x write)
    else if flag (changedSegs s) (p.addr / 2 ^ 34) then .wait
    else if thermalWait s m.1 (lineKey m.1 m.2) (sectorMask m.2 p.len) then .wait
    else match badSector s m.1 m.2 (sectorsRead m.2 p.len write) p.detect with
      | some a => .abort (reportSector s fn m.1 a 2)
      | none => .ok

/-- The parts of an access, cut at granules, or how the first one stands that may not go ahead. -/
def parts4 (fn : Nat) (write : Bool) : Nat → State → Nat → Nat → List Part4 ⊕ Stand
  | 0, _, _, _ => .inl []
  | fuel + 1, s, x, n =>
    if n = 0 then .inl []
    else
      let k := min n (256 - x % 256)
      match part4 s fn x k write with
      | .inr r => .inr r
      | .inl p =>
        match stand4 s fn x write p with
        | .ok =>
          match parts4 fn write fuel s (x + k) (n - k) with
          | .inl ps => .inl (p :: ps)
          | .inr r => .inr r
        | r => .inr r

/-- The page-table entries that an access of a VF reads, through their slices, and the translations they give kept. -/
def walks4 (fn x n : Nat) (s : State) : State :=
  if fn = 0 then s
  else (List.range ((x + n - 1) / 65536 - x / 65536 + 1)).foldl (fun s k =>
    let va := max x ((x / 65536 + k) * 65536)
    let t := (quiet (walkReads (lookupPas s 16 fn va)) s).2
    match lookup s 16 fn va with
    | .ok p => cacheTlb t p
    | _ => t) s

/-- A part read. -/
def readPart4 (fn : Nat) (p : Part4) (s : State) : List Byte × State :=
  if p.host then
    (Tab.getN 0#8 s.hostMem p.addr p.len, hostAsk s fn p.addr p.len)
  else
    let r := quiet (readGranule (hubWho fn) p.addr p.len p.detect) s
    (r.1.getD [], r.2)

/-- A part written. No step captures it: it is no descriptor's write. -/
def writePart4 (fn : Nat) (p : Part4) (bs : List Byte) (s : State) : State :=
  if p.host then hostPut s fn p.addr bs
  else (quiet (writeGranule (hubWho fn) false 0 p.addr bs p.detect) s).2

/-- Every part read, in order. -/
def readAll4 (fn : Nat) : List Part4 → State → List Byte × State
  | [], s => ([], s)
  | p :: ps, s =>
    let a := readPart4 fn p s
    let b := readAll4 fn ps a.2
    (a.1 ++ b.1, b.2)

/-- Every part written, in order. -/
def writeAll4 (fn : Nat) : List Part4 → List Byte → State → State
  | [], _, s => s
  | p :: ps, bs, s => writeAll4 fn ps (bs.drop p.len) (writePart4 fn p (bs.take p.len) s)

/-- A BAR4 access (R41, R43): all of it goes ahead, waits, or completes with Completer Abort (DEDUCED, log entry 53). -/
def bar4 (s : State) (fn addr : Nat) (access : Access) : State :=
  let write := match access with | .read _ => false | .write _ => true
  let n := accessLen access
  match parts4 fn write (n / 256 + 2) s addr n with
  | .inr (.abort t) => send t (.completion fn .completerAbort [])
  | .inr _ => { s with heldAccess := s.heldAccess ++ [{ fn := fn, addr := addr, access := access }] }
  | .inl ps =>
    let s := walks4 fn addr n s
    match access with
    | .read _ => let r := readAll4 fn ps s; send r.2 (.completion fn .success r.1)
    | .write bs => send (writeAll4 fn ps bs s) (.completion fn .success [])

/-- The accesses that waited issued again, in their arrival order (R344, R372); those that still wait stay. -/
def issueHeld4 (s : State) : State :=
  s.heldAccess.foldl (fun s h => bar4 s h.fn h.addr h.access) { s with heldAccess := [] }

/-- BAR4_ACCESS. A VF that is not enabled has no BAR4, an access beyond the BAR's size is none of the function's,
and in recovery there is no BAR4 (R591). -/
def execBar4Access (fn addr : Nat) (access : Access) (s : State) : Host.Outcome State Fault Refusal :=
  whenHost s fun s => if s.start.recovery = false ∧ fn ≤ s.numVfs ∧ addr + accessLen access ≤ 2 ^ barLog s fn then bar4 s fn addr access else s

end Sys2Proof.Machine
end

