-- ==== Sys2Proof/Machine/Escalate.lean ====
section
/-! DEFINITION. Leaves as every engine meets them, and the beginning of a region reset (R485, R487), to which errors escalate
(R29). -/

namespace Sys2Proof.Machine

/-! ## Leaves -/

/-- One leaf of a cell. -/
def getLeaf (s : State) (cell : Nat) (l : Leaf) : LeafRec := (getCell s cell).leaf l

/-- One leaf of a cell changed. -/
def updLeaf (s : State) (cell : Nat) (l : Leaf) (f : LeafRec → LeafRec) : State := updCell s cell fun c => c.updLeaf l f

/-- A leaf leaves VALID: its leaf record is freed (Table 13-2), and it takes a new state. -/
def leaveValid (s : State) (cell : Nat) (l : Leaf) (st : LeafState) : State :=
  let s := match (getLeaf s cell l).record with
    | some n => freeRec s n
    | none => s
  updLeaf s cell l fun x => { x with state := st, record := none }

/-! ## A region reset begins -/

/-- Whether a descriptor holds a record in a region: it is placed there and its work has not ended. -/
def Work.inRegion (r : Nat) (w : Work) : Bool :=
  w.phase != .held && w.phase != .remote && w.phase != .done
    && (match w.place with | .block b => b / 8 == r | .region k => k == r | .hub => false)

/-- The cells of a region. -/
def regionCells (r : Nat) : List Nat := (List.range 64).map (64 * r + ·)

/-- The blocks of a region. -/
def regionBlocks (r : Nat) : List Nat := (List.range 8).map (8 * r + ·)

/-- The leaves of a region with a leaf record: the VALID ones, one read back anew, and one still being restored. -/
def validLeaves (s : State) (r : Nat) : List (Nat × Leaf) :=
  (regionCells r).flatMap fun c => [(c, Leaf.a), (c, Leaf.b)].filter fun x =>
    (getLeaf s x.1 x.2).state == .valid || (getLeaf s x.1 x.2).record.isSome || (getLeaf s x.1 x.2).restoring

/-- The functions that own a dirty resident page of a region's blocks (R488). -/
def dirtyOwners (s : State) (r : Nat) : List Nat :=
  ((regionBlocks r).flatMap fun b => (getBlock s b).pages.filterMap fun p =>
    if p.dirty then some (getFld s (rid .blkResCtl b p.window) 3 5) else none).eraseDups

/-- A micro-program stopped by a reset: what its ended iterations stored to headed arguments stays with its descriptor. -/
def keepCensus (s : State) (b : Nat) : State :=
  match (getBlock s b).vec with
  | some v => updWork s v.ring v.index fun w => { w with census := v.written }
  | none => s

/-- A cell's digital logic reset: its leaves are EMPTY (R189), a full calibration in progress is lost, and the watch
on its columns begins afresh (DEDUCED, log entry 33). -/
def resetCell (s : State) (c : Nat) : State :=
  let s := leaveValid (leaveValid s c .a .empty) c .b .empty
  let leaf (l : LeafRec) : LeafRec := { l with owner := none, toRead := 0, rounds := 0, restoring := false }
  let s := if (getCell s c).cal.isSome then
      setBit (setBit s (rid .cellCalCmd c) 0 false) (rid .cellCalStat c) 1 false else s
  updCell s c fun k => { k with
    leafA := leaf k.leafA, leafB := leaf k.leafB, eval := none, cal := none, suspects := [], violations := [], dead := []
    sentinels := 0, offPeriods := [], offSums := [], onSpare := none, moveDue := false }

/-- A caravan slot of a block reset: what lies on the die is lost, the overflow in memory stays (DEDUCED, log entry
33). -/
def resetSlot (k : Slot) : Slot := { k with onDie := [], keys := [] }

/-- A block's reset domain reset: arbiter pointers at 0 (R32), engines, pages and clones gone. The registers stay (log
entry 33). -/
def resetBlock (s : State) (b : Nat) : State :=
  updBlock (keepCensus s b) b fun k => { k with
    classPtr := 0, entryPtr := [], rebuilding := false, vec := none, pages := [], dmu0 := [], dmu1 := [], clone := none
    cloneLeaf := .empty
    slots := k.slots.map fun x => (x.1, resetSlot x.2) }

/-- ISOLATED of a region's entry set or cleared, under the update sequence. -/
def isolate (s : State) (r : Nat) (on : Bool) : State :=
  transomSpan s fun s => updEntry s 7 r fun e => { e with isolated := on }

/-- A region reset begins (R485, Table 13-5 t0 to t3): a trigger during a reset, and one on a retired region, is discarded. -/
def beginReset (s : State) (r cause : Nat) : State :=
  let g := getRegion s r
  if 16 ≤ r || g.resetSince.isSome || g.retired then s
  else
    let s := isolate s r true
    let s := raiseAlarm s 7
    let s := emitFn s 0 0x0901 7 r (leBytes 1 r ++ leBytes 1 cause)
    let ctl := rid .rgnShutterCtl r
    let s := addFld (setFld s ctl 0 2 3) ctl 8 8 1
    let mine := s.work.filter (Work.inRegion r)
    let leaves := validLeaves s r
    let lost := dirtyOwners s r
    let s := (regionBlocks r).foldl resetBlock s
    let s := clearEngines s fun ring index => mine.any fun w => w.isAt ring index
    let s := (regionCells r).foldl resetCell s
    updRegion { s with tlbs := s.tlbs.filter fun t => t.mmu != r } r fun g => { g with
      resetSince := some s.time, resetTimes := s.time :: g.resetTimes, stops := [], rule := none
      atReset := mine.map fun w => (w.ring, w.index), leavesAtReset := leaves, lostPages := lost }

end Sys2Proof.Machine
end

