-- ==== Sys2Proof/Machine/Bucket.lean ====
section
/-! DEFINITION. Buckets of a collective as the rest of the device meets them: the packets they send (R447, R455), their
closing with its mark and digest record (R464, R467), and their withdrawal (R470). -/

namespace Sys2Proof.Machine

/-- Whether a bucket is the one of a function, a group and a number. -/
def Bucket.isFor (fn group bucket : Nat) (b : Bucket) : Bool := b.fn == fn && b.group == group && b.bucket == bucket

/-- An open bucket. -/
def findBucket (s : State) (fn group bucket : Nat) : Option Bucket := s.buckets.find? (Bucket.isFor fn group bucket)

/-- An open bucket changed. -/
def updBucket (s : State) (fn group bucket : Nat) (f : Bucket → Bucket) : State :=
  { s with buckets := s.buckets.map fun b => if b.isFor fn group bucket then f b else b }

/-- An open bucket replaced by its new value. -/
def putBucket (s : State) (b : Bucket) : State := updBucket s b.fn b.group b.bucket fun _ => b

/-- The accesses of a bucket's reduction engine: the MMU of the first region that serves its concurrent ring (R451). -/
def bucketWho (b : Bucket) : Who :=
  { ring := b.ring, index := b.index, fn := b.fn, space := b.fn, mmu := b.cring, coll := true }

/-- An event about a bucket, from the first region that serves its concurrent ring (DESIGN CHOICE, log entry 17). -/
def emitBucket (s : State) (b : Bucket) (code : Nat) (detail : List Byte) : State :=
  emitRing s b.ring code 7 b.cring (leBytes 2 b.group ++ leBytes 4 b.bucket ++ detail)

/-! ## What is kept of a group's buckets (R464) -/

/-- The signed difference of two bucket numbers modulo 2^32. -/
def diff32 (a b : Nat) : Int := signed 32 ((a + 2 ^ 32 - b % 2 ^ 32) % 2 ^ 32)

/-- What is kept of a group. -/
def colGroup (s : State) (fn group : Nat) : ColGroup :=
  (s.colGroups.find? fun g => g.fn == fn && g.group == group).getD { fn := fn, group := group, highest := none, closed := [] }

/-- What is kept of a group replaced. -/
def putColGroup (s : State) (g : ColGroup) : State :=
  { s with colGroups := g :: s.colGroups.filter fun h => !(h.fn == g.fn && h.group == g.group) }

/-- The mark of a closed bucket: the reason of a withdraw that came before it was dispatched (0 for none), and whether a
withdraw has come; none for one not closed. -/
def closedMark (s : State) (fn group bucket : Nat) : Option (Nat × Bool) :=
  ((colGroup s fn group).closed.find? fun c => c.1 == bucket).map (·.2)

/-- A closed mark set; marks more than 4,095 below the highest bucket number are dropped. -/
def markClosed (s : State) (fn group bucket reason : Nat) (seen : Bool) : State :=
  let g := colGroup s fn group
  let keep (c : Nat) : Bool := match g.highest with
    | some h => decide (diff32 h c ≤ 4095)
    | none => true
  putColGroup s { g with closed := (bucket, reason, seen) :: g.closed.filter fun c => c.1 != bucket && keep c.1 }

/-- Whether a bucket number is stale: more than 4,095 below the highest dispatched. -/
def bucketStale (s : State) (fn group bucket : Nat) : Bool :=
  match (colGroup s fn group).highest with
  | some h => decide (4095 < diff32 h bucket)
  | none => false

/-! ## Packets of a bucket -/

/-- The chunk header of Table 12-4. -/
def chunkHeader (b : Bucket) (ccw : Bool) (phase owner blocks first tscale value : Nat) (escape : Nat) : List Byte :=
  leBytes 2 b.group ++ leBytes 1 (b.cring + 8 * bit ccw + 16 * phase)
    ++ leBytes 1 (b.kind + 4 * bit b.mx + 8 * bit b.ordered) ++ leBytes 4 b.bucket ++ leBytes 4 b.stepNo
    ++ leBytes 2 b.n ++ leBytes 2 owner ++ leBytes 2 b.pos ++ leBytes 2 blocks ++ leBytes 4 first
    ++ leBytes 8 b.elements ++ leBytes 4 tscale ++ leBytes 4 value ++ leBytes 24 escape

/-- Whether a direction of a bucket's ring has a usable port or route (R427, R472). -/
def bucketPath (s : State) (b : Bucket) (ccw : Bool) : Bool :=
  let port := if ccw then b.prevPort else b.nextPort
  let node := if ccw then b.prev else b.next
  if port < 8 then portUsable s port else node == nodeId s || (routePort s node).isSome

/-- A chunk packet sent in a direction and added to that direction's digest (R455, R467). Where no path is usable nothing
is sent. -/
def sendChunk (s : State) (b : Bucket) (ccw : Bool) (payload : List Byte) : State :=
  if !bucketPath s b ccw then s
  else
    let port := if ccw then b.prevPort else b.nextPort
    let node := if ccw then b.prev else b.next
    let p := ownPacket s node 0x30 payload
    let tag := some (b.fn, b.group, b.bucket)
    let s :=
      if port < 8 then enqueue s port p tag
      else if node = nodeId s then send s (.loopback p)
      else match routePort s node with
        | some q => enqueue s q p tag
        | none => s
    updBucket s b.fn b.group b.bucket fun b =>
      if ccw then { b with sendCcw := b.sendCcw ++ payload } else { b with sendCw := b.sendCw ++ payload }

/-- A withdraw packet sent in a direction (R470). -/
def sendWithdraw (s : State) (b : Bucket) (ccw : Bool) (reason : Nat) : State :=
  sendChunk s b ccw (chunkHeader b ccw 4 0 0 0 0 reason 0)

/-! ## Closing and withdrawing -/

/-- The VA of a collective group's entry (Table 12-1). -/
def colVa (s : State) (fn g : Nat) : Nat := vaPair s .colGrpBaseLo .colGrpBaseHi fn 12 + 256 * g

/-- The blocks that escaped here counted in ESCAPES of the group's entry, with the bucket's one event (R461). -/
def noteEscapes (s : State) (b : Bucket) : State :=
  if b.escapes = 0 then s
  else
    let va := colVa s b.fn b.group + 32
    let m : Eng Unit := do
      let e ← vread (bucketWho b) va 4
      vwrite (bucketWho b) va (leBytes 4 (satAdd 32 (leNat e) b.escapes))
    emitBucket (quiet m s).2 b 0x0801 (leBytes 4 b.escapes)

/-- The digest record of a bucket that closes (Table 12-5). -/
def digestRecord (s : State) (b : Bucket) (status : Nat) : List Byte :=
  leBytes 2 b.group ++ leBytes 1 b.cring ++ leBytes 1 status ++ leBytes 4 b.bucket ++ leBytes 4 b.stepNo
    ++ leBytes 2 b.pos ++ leBytes 2 b.n ++ leBytes 8 s.time ++ leBytes 40 0
    ++ padTo 64 (Config.sha512 b.sendCw) ++ padTo 64 (Config.sha512 b.sendCcw)
    ++ padTo 64 (Config.sha512 b.recvCw) ++ padTo 64 (Config.sha512 b.recvCcw)

/-- The digest record written into the next slot of the digest buffer, when COL_DIG.EN is 1 (R467). -/
def writeDigest (s : State) (b : Bucket) (status : Nat) : State :=
  if getBit s (rid .colDigLo b.fn) 0 then
    let n := getReg s (rid .colDigIdx b.fn)
    let slot := n % 2 ^ (getFld s (rid .colDigLo b.fn) 1 4 + 6)
    let va := vaPair s .colDigLo .colDigHi b.fn 12 + 320 * slot
    let s := (quiet (vwrite (bucketWho b) va (digestRecord s b status)) s).2
    setReg s (rid .colDigIdx b.fn) (n + 1)
  else s

/-- A bucket closed: its escapes noted, its digest record, its mark, its record freed (R461, R464, R467, R478). -/
def closeBucket (s : State) (b : Bucket) (status : Nat) : State :=
  let b := (findBucket s b.fn b.group b.bucket).getD b
  let s := writeDigest (noteEscapes s b) b status
  let s := { s with buckets := s.buckets.filter fun c => !c.isFor b.fn b.group b.bucket }
  freeRec (markClosed s b.fn b.group b.bucket 0 b.gotWithdraw) b.record

/-- A withdrawal of a bucket by this member (R470): withdraw packets in both directions, its event and count, and the
bucket closed. Its descriptor, still running, ends with the status given. -/
def withdrawBucket (s : State) (b : Bucket) (status dcode reason : Nat) : State :=
  let s := sendWithdraw (sendWithdraw s b false reason) b true reason
  let s := addFld s (rid .colCnt b.fn) 16 8 1
  let s := emitBucket s b 0x0804 (leBytes 1 reason)
  let s := closeBucket s b status
  updWork s b.ring b.index fun w => { w.fail status dcode with detail := b.bucket }

/-- Every open bucket that `p` chooses withdrawn with a reason. -/
def withdrawAll (s : State) (p : Bucket → Bool) (status dcode reason : Nat) : State :=
  (s.buckets.filter p).foldl (fun s b => withdrawBucket s b status dcode reason) s

end Sys2Proof.Machine
end

