-- ==== Sys2Proof/Machine/Steps.lean ====
section
/-! DEFINITION. Steps: what a step close does (R159, R168, R169, R179, R459, R491), what a completed write does to its
group's entry (R157, R162–R167, R634), and step rollback (R495–R499). -/

namespace Sys2Proof.Machine

/-! ## Group entries -/

/-- Bytes of a group's entry read without leaving a trace, where they can be. -/
def peekGrp (s : State) (fn g : Nat) : Option (List Byte) :=
  if grpEnabled s fn then (quiet (vread (hubWho fn) (grpVa s fn g) 128) s).1 else none

/-- Bytes of a group's entry written; none where the entry cannot be reached. -/
def pokeGrp (s : State) (fn g off : Nat) (bs : List Byte) : Option State :=
  if grpEnabled s fn then
    match quiet (vwrite (hubWho fn) (grpVa s fn g + off) bs) s with
    | (some _, t) => some t
    | (none, _) => none
  else none

/-- An update of a group's entry that could not be made (R634). -/
def lostUpdate (s : State) (fn ring group update units : Nat) : State :=
  emitDesc s fn ring 0x0109 5 0 (leBytes 2 group ++ leBytes 1 update ++ leBytes 4 units)

/-- WIDE_UNITS raised and lowered (R173, R175). -/
def wideUpdate (s : State) (fn ring group up down : Nat) : State :=
  if up = 0 ∧ down = 0 then s
  else
    let done : Option State := match peekGrp s fn group with
      | some bs => pokeGrp s fn group 52 (leBytes 4 (leAt bs 52 4 + up - down))
      | none => none
    match done with
    | some t => t
    | none =>
      let s := if up = 0 then s else lostUpdate s fn ring group 2 up
      if down = 0 then s else lostUpdate s fn ring group 3 down

/-- The running norm after a write that does not trip (R164), and its count. The difference, its sixteenth and the sum are each
rounded to FP32 (DESIGN CHOICE, log entry 83). -/
def nextEma (ema writes norm : Nat) : Nat × Nat :=
  if writes = 0 then (norm, 1)
  else (fp32.add ema (fp32.mul (fp32.sub norm ema) 0x3D800000), satAdd 32 writes 1)

/-- Whether a write's norm trips the watcher (R165). -/
def normTrips (ema writes factor norm : Nat) : Bool :=
  !fp32.finite norm
    || (decide (16 ≤ writes) && ((fp32.decode ema).mul (.fin false factor 0)).lt (fp32.decode norm))

/-- Bytes 4 to 63 of an entry after a write, with the history slot apart (R157, R162, R164, R165). -/
def entryAfter (g : Grp) (gw : GroupWrite) (trip : Bool) (step : Nat) : List Byte :=
  let ema := leAt g.bytes 8 4
  let writes := leAt g.bytes 12 4
  let band := if trip then (ema, 0) else if gw.normed then nextEma ema writes gw.norm else (ema, writes)
  let slot := (g.slot + 1) % 16
  let hist := setField (leAt g.bytes 4 1) 0 4 slot
  let count := if trip then 1 else min 16 (g.count + 1)
  leBytes 1 hist ++ leBytes 1 count ++ leBytes 2 (leAt g.bytes 6 2) ++ leBytes 4 band.1 ++ leBytes 4 band.2
    ++ leBytes 8 (leAt g.bytes 16 8 + gw.elements) ++ leBytes 8 (leAt g.bytes 24 8 + gw.zeros)
    ++ leBytes 8 (leAt g.bytes 32 8 + gw.saturated) ++ leBytes 8 (leAt g.bytes 40 8 + gw.nonfinite)
    ++ leBytes 4 step

/-- The wide copies of a tensor are counted in WIDE_UNITS, its last write being complete. -/
def countCopy (s : State) (gw : GroupWrite) : State :=
  { s with oasis := s.oasis.map fun c => if c.fn = gw.space ∧ c.headerVa = gw.headerVa then { c with counted := true } else c }

/-- What a write of a gradient leaves for the zero-streak evaluation (R167, R168). -/
def noteZero (s : State) (fn : Nat) (gw : GroupWrite) : State :=
  if gw.grad then updFn s fn fun f => { f with
    gradWrite := true
    zeroWrite := f.zeroWrite || decide (gw.elements * 999 ≤ gw.zeros * 1000)
    zeroGroup := if gw.elements * 999 ≤ gw.zeros * 1000 then gw.group else f.zeroGroup }
  else s

/-- A trip of the norm watcher (R165, R166): its register and its event; it calls for a rollback unless the step is a replayed
one. -/
def noteTrip (s : State) (ring fn : Nat) (gw : GroupWrite) (ema : Nat) : Bool × State :=
  let s := setFld s (rid .numNormStat fn) 0 12 gw.group
  let s := addFld s (rid .numNormStat fn) 16 16 1
  let again := decide (0 < getFld s (rid .fltStepCtl fn) 3 2)
  (!again, emitRing s ring (if again then 0x0104 else 0x0103) 5 0
    (leBytes 2 gw.group ++ leBytes 4 gw.norm ++ leBytes 4 ema))

/-- The group update of one completed headed write (R157). What cannot be written to its entry is dropped, and nothing else
(R634). It answers whether the norm watcher calls for a rollback. -/
def applyWrite (s : State) (ring fn : Nat) (gw : GroupWrite) : Bool × State :=
  let lost (s : State) : State :=
    let s := lostUpdate s fn ring gw.group 0 0
    if gw.normed then lostUpdate s fn ring gw.group 1 0 else s
  let s := noteZero s fn gw
  let r : Bool × State :=
    match peekGrp s fn gw.group with
    | none =>
      let d := draw (lost s)
      if gw.normed && !fp32.finite gw.norm then noteTrip d.2 ring fn gw (Config.freeNat d.1) else (false, d.2)
    | some bs =>
      let g : Grp := ⟨bs⟩
      let ema := leAt bs 8 4
      let trip := gw.normed && normTrips ema (leAt bs 12 4) g.factor gw.norm
      let put : Option State := (pokeGrp s fn gw.group (64 + 4 * g.slot) (leBytes 4 gw.amax)).bind fun s =>
        pokeGrp s fn gw.group 4 (entryAfter g gw trip (stepOf s fn))
      let s := put.getD (lost s)
      if trip then noteTrip s ring fn gw ema else (false, s)
  let s := if gw.probe then updFn r.2 fn fun f =>
      { f with probeGroups := if gw.group ∈ f.probeGroups then f.probeGroups else f.probeGroups ++ [gw.group] } else r.2
  (r.1, countCopy (wideUpdate s fn ring gw.group gw.alloc gw.free) gw)

/-- The group updates of a descriptor, in the order of its writes; one that ends outside the success class only moves
WIDE_UNITS (R157, R173, R175). -/
def applyWrites (s : State) (w : Work) : Bool × State :=
  w.writes.foldl (fun r gw =>
    if succeeded w.status then
      let q := applyWrite r.2 w.ring gw.space gw
      (r.1 || q.1, q.2)
    else (r.1, countCopy (wideUpdate r.2 gw.space w.ring gw.group gw.alloc gw.free) gw)) (false, s)

/-! ## The step close -/

/-- The counters a function owns that do not hold 0, for the counter image (R491). -/
def ownCounters (s : State) (fn : Nat) : Tab Counter := s.counters.filter fun c => ownerOf s c.1 == fn

/-- The counter image at the head of the undo area (R491): the values in order of their numbers, 4 bytes each, then
one FAILED bit for each, which is what the 264 KiB of the PF come to (DEDUCED, log entry 15). An area too small for it
takes none. -/
def writeCounters (s : State) (fn : Nat) : State :=
  let n := if fn = 0 then 65536 else field (getReg s (rid .hubVfRing fn)) 8 5 * 256
  let one (i : Nat) : Counter := if ownerOf s (vfBase s fn + i) = fn then getCtr s (vfBase s fn + i) else {}
  let values := (List.range n).flatMap fun i => leBytes 4 (one i).value
  let flags := (List.range (n / 8)).map fun k =>
    BitVec.ofNat 8 ((List.range 8).foldl (fun a b => a + bit (one (8 * k + b)).failed * 2 ^ b) 0)
  if undoBytes s fn < imageBytes s fn then s else (quiet (areaWrite fn (undoBase s fn) (values ++ flags)) s).2

/-- Zero-streak evaluation (R168, R169). -/
def closeStreak (s : State) (fn : Nat) : State :=
  let f := getFn s fn
  let r := rid .numZsCtl fn
  let n := getFld s r 16 13
  let n := if f.zeroWrite then satAdd 13 n 1 else if f.gradWrite then 0 else n
  let s := setFld s r 16 13 n
  if getFld s r 0 13 ≤ n ∧ ¬ getBit s (rid .numZsStat fn) 0 then
    let s := setFld s (rid .numZsStat fn) 0 2 3
    let s := setFld s (rid .numZsStat fn) 16 12 f.zeroGroup
    let s := raiseAlarm s 1
    emitFn s fn 0x0105 5 0 (leBytes 2 f.zeroGroup ++ leBytes 2 n)
  else s

/-- Probe-mode exit of one group (R179). -/
def closeProbe (fn : Nat) (s : State) (group : Nat) : State :=
  let s := match peekGrp s fn group with
    | some bs => (pokeGrp s fn group 4 (leBytes 1 (setField (setField (leAt bs 4 1) 4 1 1) 5 1 0))).getD s
    | none => s
  emitFn s fn 0x0107 5 0 (leBytes 2 group ++ leBytes 4 (stepOf s fn))

/-- The scale history of one collective group at a step close (R459). -/
def closeColGroup (fn : Nat) (s : State) (group : Nat) : State :=
  match (quiet (vread (hubWho fn) (colVa s fn group) 256) s).1 with
  | none => s
  | some bs =>
    let slot := leAt bs 7 1 % 16
    let hist := ((List.range 16).map fun i => leAt bs (128 + 4 * i) 4).set slot (leAt bs 28 4)
    let k := tensorScaleExp (historyMax 0 16 hist) 127 (leAt bs 6 1 % 4)
    let flags := setField (setField (leAt bs 5 1) 1 1 1) 2 1 0
    let m : Eng Unit := do
      vwrite (hubWho fn) (colVa s fn group + 5) (leBytes 1 flags)
      vwrite (hubWho fn) (colVa s fn group + 7) (leBytes 1 ((slot + 1) % 16))
      vwrite (hubWho fn) (colVa s fn group + 24) (leBytes 4 (pow2code k) ++ leBytes 4 0)
      vwrite (hubWho fn) (colVa s fn group + 128 + 4 * slot) (leBytes 4 (leAt bs 28 4))
    (quiet m s).2

/-- A step closes (R159, R168, R169, R179, R459, R491): the step counter now holds `value`. -/
def stepClose (s : State) (fn value : Nat) : State :=
  let f := getFn s fn
  let s := setReg s (rid .numStep fn) value
  let s := closeStreak s fn
  let s := f.probeGroups.foldl (closeProbe fn) s
  let s := f.colGroups.foldl (closeColGroup fn) s
  let s := setReg s (rid .fltStepTime fn) (min ((s.time - f.stepSince) / 400) (2 ^ 32 - 1))
  let s := setFld s (rid .fltStepCtl fn) 3 2 0
  let keep := getBit s (rid .fltStepCtl fn) 0
  let image : Tab Counter := ownCounters s fn
  let s := if keep then writeCounters s fn else s
  updFn s fn fun f => { f with
    stepSince := s.time
    gradWrite := false
    zeroWrite := false
    probeGroups := []
    colGroups := []
    recOpen := keep
    log := []
    undo := []
    counterImage := if keep then image else [] }

/-- A completion counter set; a change of a function's step counter closes its step (R159). -/
def putCtr (s : State) (n : Nat) (c : Counter) : State :=
  let old := (getCtr s n).value
  let s := setCtr s n c
  let fn := ownerOf s n
  if c.value ≠ old ∧ getFld s (rid .numStepCfg fn) 0 16 = n then stepClose s fn c.value else s

/-- A counter raised by the tokens of a success (R114, R333). -/
def addCtr (s : State) (n k : Nat) : State :=
  let c := getCtr s n
  putCtr s n { c with value := (c.value + k) % 2 ^ 32 }

/-! ## Rollback -/

/-- The submission rings of a function. -/
def submissionRings (s : State) (fn : Nat) : List Nat :=
  (s.rings.filter fun r => r.2.fn == fn && r.2.state != .disabled && r.2.ctx.type == .submission).map (·.1)

/-- A function's ACTIVE submission rings halted. -/
def haltRings (s : State) (fn : Nat) : State :=
  (submissionRings s fn).foldl (fun s n => updRing s n fun r => if r.state = .active then { r with state := .halted } else r) s

/-- Whether a function has a SNAPSHOT in flight. -/
def snapshotInFlight (s : State) (fn : Nat) : Bool := s.work.any fun w => w.fn == fn && w.op == some .snapshot

/-- A captured unit written back (R495): the bytes of the unit as they were before the step. The resident pages that hold bytes of
it go, to be filled again; the write of whole sectors replaces those that failed their check or were lost (R353, R367). -/
def restoreUnit (s : State) (c : Captured) : State :=
  let keep (p : Nat × Byte) : Bool := decide (unmapPa s (p.1 / 2 ^ 36) (p.1 % 2 ^ 36) / 2 ^ 16 ≠ c.unit)
  let stays (p : Page) : Bool := p.tlb.host || decide (p.tlb.addr p.va / 2 ^ 16 ≠ c.unit)
  let outside (p : Nat × Nat) : Bool := decide (unmapPa s (p.1 / 2 ^ 31) (p.1 % 2 ^ 31 * 32) / 2 ^ 16 ≠ c.unit)
  let whole (l : Nat × Line) : Nat × Line :=
    if unmapPa s (l.1 / 2 ^ 28) (l.1 % 2 ^ 28 * 256) / 2 ^ 16 = c.unit then (l.1, { l.2 with lost := 0 }) else l
  { s with
    blocks := s.blocks.map fun b => (b.1, { b.2 with pages := b.2.pages.filter stays })
    bad := s.bad.filter outside
    lines := s.lines.map whole
    mem := c.cells.foldl (fun m p => Tab.set 0#8 m p.1 p.2) (s.mem.filter keep) }

/-- A wide copy of a rolled-back step freed (R175): its units leave WIDE_UNITS where they had been counted there. -/
def dropCopy (s : State) (c : WideCopy) : State :=
  wideUpdate (oasisFree s c.pa) c.fn noRing c.group 0 (if c.counted then c.units else 0)

/-- The rollback itself (R495, R497). The spec does not number the causes of Table 13-7, so that the cause byte of the event is
a free value for each (DESIGN CHOICE, log entry 3). -/
def rollbackNow (s : State) (fn cause : Nat) (pend : Bool) : State :=
  let f := getFn s fn
  let mine := s.work.filter fun w => w.fn == fn && w.op != some .snapshot
  let opened := (s.buckets.filter fun b => b.fn == fn).map fun b => (b.ring, b.index)
  let s := withdrawAll s (fun b => b.fn == fn) stPeer 0xC6 1
  let s := clearEngines s fun r i => mine.any fun w => w.isAt r i
  let s := mine.foldl (fun s w => freeRec s w.record) s
  let s := { s with work := s.work.filter fun w => w.fn != fn || w.op == some .snapshot,
                    fabRecs := s.fabRecs.filter fun r => !(mine.any fun w => w.isAt r.ring r.index) }
  let s := (f.undo.filter fun c => !c.collective).foldl restoreUnit s
  let s := { s with counters := f.counterImage.foldl (fun (t : Tab Counter) (c : Nat × Counter) => Tab.set {} t c.1 c.2)
                                  (s.counters.filter fun c => ownerOf s c.1 != fn) }
  let s := (s.oasis.filter fun c => c.fn == fn && c.step == stepOf s fn).foldl dropCopy s
  let s := raiseAlarm s 9
  let s := emitFn s fn 0x0904 4 0
    (leBytes 4 (stepOf s fn) ++ leBytes 4 f.log.length ++ leBytes 1 (Config.rollbackCause cause))
  let ctl := rid .fltStepCtl fn
  let s := setFld s ctl 3 2 (getFld s ctl 3 2 + 1)
  let s := setBit (setBit s ctl 1 (!pend)) ctl 2 pend
  let log := f.log.map fun e => if (e.ring, e.index) ∈ opened then { e with openBucket := true } else e
  let s := updFn s fn fun f => { f with
    log := log, replaying := log, replayActive := !pend, rollWait := none, oasisFail := none
    gradWrite := false, zeroWrite := false, probeGroups := [] }
  if pend then haltRings s fn else s

/-- A step that cannot be rolled back (R498) (DEDUCED, log entry 63). -/
def unrecoverable (s : State) (fn : Nat) : State :=
  let s := withdrawAll s (fun b => b.fn == fn) stAborted 0xC2 1
  let s := clearEngines s fun r i => s.work.any fun w => w.fn == fn && w.isAt r i
  let s := { s with work := s.work.map fun w => if w.fn = fn then w.fail stAborted 0xC2 else w }
  let s := haltRings s fn
  let s := raiseAlarm s 10
  let s := emitFn s fn 0x0906 4 0 (leBytes 4 (stepOf s fn))
  let s := setFld s (rid .fltStepCtl fn) 1 2 0
  updFn s fn fun f => { f with replaying := [], replayActive := false, rollWait := none, oasisFail := none }

/-- A rollback of a function's step is called for (R495, R498, Table 13-7): absorbed while one waits; not possible
without records or after two; and waiting while a SNAPSHOT of the function is in flight (DEDUCED, log entry 46). -/
def callRollback (s : State) (fn cause : Nat) (pend : Bool) : State :=
  let f := getFn s fn
  if f.rollWait.isSome || getBit s (rid .fltStepCtl fn) 2 then s
  else if !f.recOpen || !getBit s (rid .fltStepCtl fn) 0 || decide (2 ≤ getFld s (rid .fltStepCtl fn) 3 2) then unrecoverable s fn
  else if snapshotInFlight s fn then
    updFn (setBit s (rid .fltStepCtl fn) 1 true) fn fun f => { f with rollWait := some (cause, pend) }
  else rollbackNow s fn cause pend

/-- A waiting rollback carried out once no SNAPSHOT of its function is in flight (R495). -/
def settleRollback (s : State) (fn : Nat) : State :=
  match (getFn s fn).rollWait with
  | some (cause, pend) => if snapshotInFlight s fn then s else rollbackNow s fn cause pend
  | none => s

end Sys2Proof.Machine
end

