-- ==== Sys2Proof/Machine/Board.lean ====
section
/-! DEFINITION. The block scoreboard: the tensor ranges of each descriptor (R315, Table 8-2), readiness (R316, R317), the
dispatch queue and its entries (R314), and the issue classes (R310, R318). -/

namespace Sys2Proof.Machine

/-! ## Ranges -/

/-- A range of bytes as 64-byte granules; a range of length 0 is none (R315). -/
def spanOf (space : Option Nat) (va len : Nat) (write : Bool) : List SbRange :=
  if len = 0 then [] else [{ space := space, first := va / 64, last := (va + len - 1) / 64, write := write }]

/-- The one granule of a leaf, outside every address space. -/
def leafRange (cell : Nat) (l : Nat) (write : Bool) : SbRange :=
  { space := none, first := 2 * cell + l, last := 2 * cell + l, write := write }

/-- The bytes of a headed tensor with its header and scales (R147). -/
def headedBytes (c log2 n : Nat) : Nat := areaOffset c log2 n + areaBytes c (if fmtScaled c then padded log2 n else n)

/-- The bytes of an operand: of a headed tensor as its header gives them, else of its elements. -/
def operandBytes (s : State) (w : Who) (va fmtByte count : Nat) : Nat :=
  if flag fmtByte 7 then
    match (quiet (vread w va 64) s).1 with
    | some bs => let h : Hdr := ⟨va, bs⟩; headedBytes h.fmt (min h.log2 16) h.elements
    | none => 64
  else areaBytes (fmtByte % 128) count

/-- An operand's range. -/
def operandRange (s : State) (w : Who) (word count : Nat) (write : Bool) : List SbRange :=
  spanOf (some w.space) (vaOf word) (operandBytes s w (vaOf word) (fmtOf word) count) write

/-- The VA of an activation table (R215). -/
def actVa (s : State) (block n : Nat) : Nat := vaPair s .blkActBaseLo .blkActBaseHi block 12 + 4096 * (n - 1)

/-- The ranges of a VECTOR_PROGRAM: its program, its argument block, and its range arguments. -/
def vectorRanges (s : State) (w : Who) (d : Desc) : List SbRange :=
  let prog := (quiet (vread w (vaOf (d.W 0)) 16) s).1.getD []
  let args := (quiet (vread w (vaOf (d.W 1)) 256) s).1.getD []
  spanOf (some w.space) (vaOf (d.W 0)) (16 + 8 * min (leAt prog 4 2) 1022) false
    ++ spanOf (some w.space) (vaOf (d.W 1)) 256 false
    ++ (List.range 16).flatMap fun i =>
        let word := leAt args (16 * i) 8
        let len := leAt args (16 * i + 8) 6
        let fl := leAt args (16 * i + 14) 1
        (if flag fl 0 then spanOf (some w.space) (vaOf word) len false else [])
          ++ (if flag fl 1 then spanOf (some w.space) (vaOf word) len true else [])

/-- The leaf of a descriptor of class 0. -/
def Work.leafNo (w : Work) : Nat :=
  if w.op = some .tileEvaluate then field (w.desc.W 2) 32 1 else field (w.desc.W 1) 44 1

/-- Rows and columns of the tile that a TILE_EVALUATE finds in its leaf: of the last LEAF_PROGRAM placed before it on that leaf
and not yet complete, else of the tile the leaf holds (DEDUCED, log entry 18). -/
def tileFor (s : State) (w : Work) : Nat × Nat :=
  let before := s.work.filter fun v =>
    v.op == some .leafProgram && v.place == w.place && v.desc.target == w.desc.target && v.leafNo == w.leafNo
      && v.phase != .done && decide (v.order < w.order)
  match before.foldl (fun (a : Option Work) v => match a with
      | none => some v
      | some u => if u.order < v.order then some v else some u) none with
  | some v => (field (v.desc.W 1) 0 16, field (v.desc.W 1) 16 16)
  | none => let l := (getCell s w.desc.target).leaf (leafOf w.leafNo); (l.rows, l.cols)

/-- The ranges of a descriptor in a block (Table 8-2). -/
def rangesOf (s : State) (w : Work) : List SbRange :=
  let d := w.desc
  let who := whoOf w
  match w.op with
  | some .leafProgram =>
    spanOf (some w.fn) (vaOf (d.W 0)) (field (d.W 1) 0 16 * field (d.W 2) 0 32) false
      ++ [leafRange d.target (field (d.W 1) 44 1) true]
  | some .leafReadback =>
    spanOf (some w.fn) (vaOf (d.W 0)) (operandBytes s who (vaOf (d.W 0)) 0xA0 0) true
      ++ [leafRange d.target (field (d.W 1) 44 1) true]
  | some .tileEvaluate =>
    let n := field (d.W 2) 0 32
    let act := field (d.W 2) 34 8
    let tile := tileFor s w
    let pool := if field (d.W 2) 42 2 = 0 then 1 else (field (d.W 2) 44 3 + 1) * (field (d.W 2) 47 3 + 1)
    let out := tile.2 * (n / pool)
    operandRange s who (d.W 0) (tile.1 * n) false
      ++ [leafRange d.target (field (d.W 2) 32 1) false]
      ++ (if act = 0 then [] else spanOf (some w.fn) (actVa s (d.target / 8) act) 4096 false)
      ++ (if flag (d.W 2) 33 then operandRange s who (d.W 1) out false else [])
      ++ operandRange s who (d.W 1) out true
  | some .dmuProduct =>
    let m := field (d.W 3) 0 16
    let n := field (d.W 3) 16 16
    let k := field (d.W 3) 32 16
    operandRange s who (d.W 0) (if k = 0 then m * n else m * k) false
      ++ (if k = 0 then [] else operandRange s who (d.W 1) (k * n) false)
      ++ (if field (d.W 3) 54 2 = 0 then [] else operandRange s who (d.X 0) (m * n) false)
      ++ operandRange s who (d.W 2) (m * n) true
  | some .dmuPair =>
    let t := field (d.W 3) 0 16
    let r := field (d.W 3) 16 16
    let c := field (d.W 3) 32 16
    let add := decide (field (d.W 3) 54 2 = 1)
    operandRange s who (d.W 0) (t * c) false
      ++ spanOf (some w.fn) (vaOf (d.W 1)) (operandBytes s who (vaOf (d.W 1)) 0xA0 0) false
      ++ operandRange s who (d.W 2) (t * r) false
      ++ (if add then operandRange s who (d.X 0) (t * r) false ++ operandRange s who (d.X 1) (r * c) false else [])
      ++ operandRange s who (d.X 0) (t * r) true ++ operandRange s who (d.X 1) (r * c) true
  | some .vectorProgram => vectorRanges s who d
  | _ => []

/-- Whether two ranges overlap with at least one of them a write (R316). -/
def SbRange.conflicts (a b : SbRange) : Bool :=
  a.space == b.space && decide (a.first ≤ b.last ∧ b.first ≤ a.last) && (a.write || b.write)

/-! ## The dispatch queue and the entries (R314) -/

/-- Whether a descriptor waits in a block's dispatch queue. -/
def Work.queuedAt (b : Nat) (w : Work) : Bool := w.place == .block b && w.phase == .queued

/-- Whether a descriptor holds a scoreboard entry of a block, which it keeps until its record is posted. -/
def Work.boardAt (b : Nat) (w : Work) : Bool :=
  w.place == .block b && (w.phase == .board || w.phase == .granted || w.phase == .running || w.phase == .done)

/-- Descriptors in a block's dispatch queue. -/
def queueCount (s : State) (b : Nat) : Nat := (s.work.filter (Work.queuedAt b)).length

/-- Occupied scoreboard entries of a block. -/
def boardCount (s : State) (b : Nat) : Nat := (s.work.filter (Work.boardAt b)).length

/-- The lowest-numbered free entry at or after one; `fuel` bounds the search. -/
def freeEntry (s : State) (b : Nat) : Nat → Nat → Nat
  | 0, n => n
  | fuel + 1, n => if s.work.any fun w => w.boardAt b && w.entry == n then freeEntry s b fuel (n + 1) else n

/-- The first placed of some descriptors. -/
def firstPlaced (ws : List Work) : Option Work :=
  ws.foldl (fun a w => match a with
    | none => some w
    | some v => if w.order < v.order then some w else some v) none

/-- Descriptors moved from a block's dispatch queue to free entries; at most `fuel` of them. -/
def admitBlock (b : Nat) : Nat → State → State
  | 0, s => s
  | fuel + 1, s =>
    if 256 ≤ boardCount s b then s
    else match firstPlaced (s.work.filter (Work.queuedAt b)) with
      | none => s
      | some w => admitBlock b fuel (putWork s { w with
          phase := .board, entry := freeEntry s b 256 0, ranges := rangesOf s w })

/-- The dispatch queue of a block moved on. -/
def fillBoard (s : State) (b : Nat) : State := admitBlock b (queueCount s b) s

/-! ## Readiness and classes (R316–R318) -/

/-- The cell of a descriptor of class 0. -/
def Work.cell (w : Work) : Nat := w.desc.target

/-- Whether an entry is ready: no earlier entry of its block, not yet complete, conflicts with it (R316), and for a
TILE_EVALUATE none of the same cell is still to issue (R317). -/
def entryReady (s : State) (b : Nat) (w : Work) : Bool :=
  s.work.all fun v =>
    !(v.boardAt b && decide (v.order < w.order)
      && ((v.ranges.any fun x => w.ranges.any fun y => x.conflicts y)
          || (v.op == some .tileEvaluate && w.op == some .tileEvaluate && v.cell == w.cell && v.phase == .board)))

/-- Whether a product passes an operand through the hinge buffer, and so takes class 3 first (Table 8-1). -/
def needsHinge (w : Work) : Bool :=
  w.op == some .dmuPair || (w.op == some .dmuProduct && decide (field (w.desc.W 3) 48 2 ≠ 0))

/-- The engine class an entry asks for now (Table 8-1): class 3 for the set-up of a transposed operand, then class 1. -/
def issueClass (w : Work) : Nat :=
  match w.op with
  | some .dmuProduct | some .dmuPair => if needsHinge w && !w.setUp then 3 else 1
  | some .vectorProgram => 2
  | _ => 0

/-- Whether another descriptor of the same opcode runs on a cell. -/
def cellBusy (s : State) (b : Nat) (w : Work) : Bool :=
  s.work.any fun v => v.boardAt b && v.cell == w.cell && v.op == w.op && (v.phase == .granted || v.phase == .running)

/-- Device time in management cycles per second. -/
def cyclesPerSecond : Nat := 400000000

/-- The step of Table 6-3 that a full calibration has come to, by the cycles since it began; 6 once the five are over. -/
def calStep (cycles : Nat) : Nat :=
  if cycles < 40000000 then 1 else if cycles < 240000000 then 2 else if cycles < 1280000000 then 3
  else if cycles < 2353740000 then 4 else if cycles < 2393740000 then 5 else 6

/-- Whether a full calibration holds the evaluation on a cell: in every step but the third (Table 6-3). -/
def calHolds (s : State) (c : Cell) : Bool :=
  match c.cal with
  | some t => calStep (s.time - t) != 3
  | none => false

/-- Whether a leaf accepts a descriptor: one that is PROGRAMMING or READING makes every later one wait (Table 5-5). -/
def LeafRec.accepts (l : LeafRec) : Bool := l.state != .programming && l.state != .reading

/-- Whether the engine of an entry can take it (R318): a cell under R200 and R220, where a full calibration holds everything
but a LEAF_PROGRAM (R246, R248); the named DMU, or both, at the last output-tile boundary of at most one earlier work (R293,
R300); the vector engine between two micro-programs. -/
def engineFree (s : State) (b : Nat) (w : Work) : Bool :=
  let blk := getBlock s b
  match issueClass w with
  | 0 => !cellBusy s b w && ((getCell s w.cell).leaf (leafOf w.leafNo)).accepts
      && (w.op == some .leafProgram || !calHolds s (getCell s w.cell))
      && (w.op != some .tileEvaluate || (getCell s w.cell).eval.isNone)
  | 1 =>
    if w.op = some .dmuPair then decide (blk.dmu0.length < 2 ∧ blk.dmu1.length < 2)
    else if field w.desc.aux 0 1 = 0 then decide (blk.dmu0.length < 2) else decide (blk.dmu1.length < 2)
  | 2 => blk.vec.isNone
      && s.work.all fun v => !(v.boardAt b && issueClass v == 2 && (v.phase == .granted || v.phase == .running))
  | _ => true

/-- Whether an entry is issuable (R318): ready, and its engine can take it. -/
def issuable (s : State) (b : Nat) (w : Work) : Bool :=
  w.boardAt b && w.phase == .board && !w.awaitLeaf && entryReady s b w && engineFree s b w

end Sys2Proof.Machine
end

