-- ==== Sys2Proof/Machine/Complete.lean ====
section
/-! DEFINITION. Completion of a descriptor (R114–R120, R157, R474–R478): group updates, counter, record, and what the
completion sets free; and how an opcode's command runs its descriptor. -/

namespace Sys2Proof.Machine

/-- The completion record of a descriptor (Table 3-13). -/
def cplOf (w : Work) (time : Nat) : CplRec :=
  { ring := w.ring, seq := w.desc.seq, status := w.status, mask := w.mask, remote := w.byPeer, dcode := w.dcode,
    detail := w.detail, irq := w.desc.irq, time := time }

/-- A record written to a completion ring, or owed to it where it has no room (R98, R633). -/
def postCpl (s : State) (ring : Nat) (r : CplRec) : State :=
  let c := getRing s ring
  if c.state ≠ .disabled ∧ c.owed = [] ∧ 0 < c.room then
    postRecord s ring 16 (cplBytes r) r.irq
  else updRing s ring fun c => { c with owed := c.owed ++ [r] }

/-- Owed records written as room allows (R633); at most `fuel` of them. -/
def payOwed (ring : Nat) : Nat → State → State
  | 0, s => s
  | fuel + 1, s =>
    let c := getRing s ring
    match c.owed with
    | [] => s
    | r :: rest =>
      if 0 < c.room then
        payOwed ring fuel
          (postRecord (updRing s ring fun c => { c with owed := rest }) ring 16 (cplBytes r) r.irq)
      else s

/-- R114 applied to a descriptor's counter. -/
def applyCtr (s : State) (d : Desc) (status : Nat) : State :=
  if !d.ctr then s
  else if succeeded status then addCtr s d.counter 1
  else setCtr s d.counter { getCtr s d.counter with failed := true }

/-- The log entry of a descriptor marked with its outcome (R496). -/
def markLog (s : State) (w : Work) : State :=
  updFn s w.fn fun f => { f with log := f.log.map fun e =>
    if e.ring = w.ring ∧ e.index = w.index then { e with ok := succeeded w.status } else e }

/-- The bucket of a COLLECTIVE_STEP that completes, closed (R452, R464). -/
def completeBucket (s : State) (w : Work) : State :=
  match s.buckets.find? fun b => b.ring == w.ring && b.index == w.index with
  | some b => closeBucket s b w.status
  | none => s

/-- Whether the layer boundary of an oasis failure has come (R177): the failing ring's next descriptor has FENCE set. While
the log is dispatched again, the next descriptor is the log's (Table 13-7). -/
def atBoundary (s : State) (fn : Nat) : Bool :=
  match (getFn s fn).oasisFail with
  | some (ring, _, _, _) =>
    match (getFn s fn).replaying, (getRing s ring).fetched with
    | e :: _, _ => e.ring == ring && flag (leAt e.raw 1 1) 2
    | [], d :: _ => flag (leAt d.bytes 1 1) 2
    | [], [] => false
  | none => false

/-- An oasis failure acted on at its boundary, once the descriptors dispatched before it have completed (R177)
(DEDUCED, log entry 64). -/
def settleOasis (s : State) (fn : Nat) : State :=
  match (getFn s fn).oasisFail with
  | some (ring, group, units, quota) =>
    if atBoundary s fn && !(s.work.any fun w => w.fn == fn) then
      let s := emitRing s ring 0x0102 5 0 (leBytes 2 group ++ leBytes 4 units ++ leBytes 1 (bit quota))
      callRollback (updFn s fn fun f => { f with oasisFail := none }) fn 3 true
    else s
  | none => s

/-- An armed adoption after a restore (R436, Table 11-7): this device takes the identity and says so on every UP port, or the
adoption has failed. -/
def settleAdoption (s : State) (w : Work) : State :=
  let r := rid .fabAdopt
  let id := getFld s r 0 16
  if !getBit s r 16 then s
  else if succeeded w.status then
    let epoch := (w.ckEpoch + 1) % 65536
    let s := setFld (setFld s (rid .fabNodeId) 0 16 id) (rid .fabNodeEpoch) 0 16 epoch
    let s := setFld s r 16 3 2
    let s := emitHub s 0x0708 (leBytes 2 id ++ leBytes 2 epoch ++ leBytes 1 0)
    onPorts s fun s p =>
      enqueue s p (ownPacket s (getFld s (rid .portPeer p) 0 16) 0x11 (leBytes 2 id ++ leBytes 2 epoch ++ leBytes 12 0))
  else emitHub (setFld s r 16 3 (getFld s r 17 1 * 2 + 4)) 0x0709 (leBytes 2 id ++ leBytes 1 0)

/-- What the end of a SNAPSHOT or SNAPSHOT_RESTORE brings beside its record: an event, the alarm of a failure (Table 13-9), and
an armed adoption settled. -/
def settleSnapshot (s : State) (w : Work) : State :=
  let restore := decide (w.op = some .snapshotRestore)
  if !restore && w.op != some .snapshot then s
  else
    let step := leBytes 4 (field (w.desc.W 2) 0 32)
    let s := if succeeded w.status then emitRing s w.ring 0x0907 1 0 (step ++ leBytes 4 w.seqNo ++ leBytes 1 (bit restore))
             else emitRing (raiseAlarm s 11) w.ring 0x0908 1 0 (step ++ leBytes 1 w.dcode)
    if restore then settleAdoption s w else s

/-- A descriptor whose work has ended completes: its group updates, its counter, its record, and what it held set free. -/
def completeWork (s : State) (w : Work) : State :=
  let r := applyWrites s w
  let s := applyCtr r.2 w.desc w.status
  let s := markLog s w
  let s := if w.desc.cmpl || decide (w.status ≠ 0) then postCpl s (getRing s w.ring).ctx.cmplRing (cplOf w s.time) else s
  let s := settleSnapshot (completeBucket s w) w
  let s := freeRec (dropWork s w.ring w.index) w.record
  let s := match w.place with
    | .block b => fillBoard (updBlock s b (Block.letClone s fun _ _ => false)) b
    | _ => s
  let s := if w.op = some .snapshotRestore then updFn s w.fn fun f => { f with restoring := false } else s
  let s := settleRollback s w.fn
  let s := if w.status = stPool ∧ (w.dcode = 0xC0 ∨ w.dcode = 0xC1) then callRollback s w.fn 4 true else s
  let s := if r.1 then callRollback s w.fn 1 false else s
  settleOasis s w.fn

/-! ## Running an opcode -/

/-- The engine's start and stop of a descriptor draw slew credit (Table 8-5): the step in units of 1/6,400 A, 0 for work
that draws none. -/
def slewStep (w : Work) : Nat :=
  match w.op with
  | some .dmuProduct | some .dmuPair => 21760
  | some .vectorProgram => 7680
  | some .leafProgram => 1920
  | some .tileEvaluate => 960
  | _ => 0

/-- The engines that a descriptor holds let go: the DMUs, the vector engine, and the leaf that it programs or reads (R230); the
update unit of a region. -/
def releaseEngines (s : State) (w : Work) : State :=
  let mine (r i : Nat) : Bool := w.isAt r i
  match w.place with
  | .block b =>
    let s := updBlock s b fun k => { k with
      dmu0 := k.dmu0.filter fun x => !mine x.1 x.2, dmu1 := k.dmu1.filter fun x => !mine x.1 x.2
      vec := k.vec.filter fun v => !mine v.ring v.index }
    if w.op = some .leafProgram ∨ w.op = some .leafReadback then
      updCell s w.desc.target fun c => { c with leafA := c.leafA.letGo mine, leafB := c.leafB.letGo mine }
    else s
  | .region k =>
    if w.op = some .updateStep then updRegion s k fun g => { g with rule := g.rule.filter fun v => !mine v.ring v.index } else s
  | .hub => s

/-- The slew credit of a region now, in units of 1/6,400 A: it grows by LIMIT in each management-clock cycle, up to 3.4 A
(R337). -/
def creditNow (s : State) (r : Nat) : Nat :=
  let g := getRegion s r
  min 21760 (g.credit + getFld s (rid .hubSlewCfg) 0 9 * (s.time - g.creditAt))

/-- A step deducted from a region's credit; none where the credit does not cover it (R337). -/
def takeCredit (s : State) (r step : Nat) : Option State :=
  if step ≤ creditNow s r then some (updRegion s r fun g => { g with credit := creditNow s r - step, creditAt := s.time })
  else none

/-- One engine of a descriptor stops, or runs idle fill until credit lets it (R338). -/
def stopEngine (s : State) (w : Work) : State :=
  let r := w.place.regionOf
  match takeCredit s r (slewStep w) with
  | some t => t
  | none =>
    addFld (updRegion s r fun g => { g with stops := g.stops ++ [(w.ring, w.index, slewStep w)] }) (rid .rgnSlewStat r) 16 16 1

/-- Whether a DMU of a descriptor's block has no issued work. -/
def dmuIdle (s : State) (w : Work) (i : Nat) : Bool :=
  match w.place with
  | .block b => if i = 0 then (getBlock s b).dmu0.isEmpty else (getBlock s b).dmu1.isEmpty
  | _ => true

/-- The engines that stop as a descriptor ends, once it holds none: those it had started and not yet stopped; a DMU stops only
with nothing issued (Table 8-5). -/
def stopsOf (s : State) (w : Work) : Nat :=
  match w.op with
  | some .dmuProduct => bit (decide (1 ≤ w.starts) && dmuIdle s w (field w.desc.aux 0 1))
  | some .dmuPair => bit (decide (1 ≤ w.starts) && !w.half && dmuIdle s w 0) + bit (decide (2 ≤ w.starts) && dmuIdle s w 1)
  | _ => bit (decide (1 ≤ w.starts))

/-- The engines of a descriptor stop; `w` is the descriptor as it stood while it ran. -/
def stopEngines (s : State) (w : Work) : State :=
  if slewStep w = 0 then s else (List.range (stopsOf s w)).foldl (fun s _ => stopEngine s w) s

/-- The start of a descriptor's next engine, of `n` that its work needs now (R337, R338): whether they have started. Where the
credit does not cover it, the start is counted as delayed and the descriptor waits for it. -/
def engineStart (w : Work) (n : Nat) : Eng Bool := do
  let s ← get
  let v := (findWork s w.ring w.index).getD w
  if slewStep w = 0 ∨ n ≤ v.starts then pure true
  else match takeCredit s w.place.regionOf (slewStep w) with
    | some t =>
      act fun _ => updWork t w.ring w.index fun v => { v with starts := v.starts + 1 }
      pure true
    | none =>
      act fun s => addFld (updWork s w.ring w.index fun v => { v with phase := .granted }) (rid .rgnSlewStat w.place.regionOf) 0 16 1
      pure false

/-- The work of a descriptor has ended: its engine lets it go and stops (R338). -/
def endWork (s : State) (w : Work) : State :=
  let v := (findWork s w.ring w.index).getD w
  stopEngines (releaseEngines (putWork s { w with phase := .done }) w) v

/-- Whether a descriptor can be run again to write once more what it wrote (R368): its record is still held, its inputs are too,
which none of its own writes has replaced, and its engine is free (DESIGN CHOICE, log entry 82). -/
def rerunnable (s : State) (v : Work) : Bool :=
  v.phase == .done && succeeded v.status && !v.again && (v.writes.all fun g => g.alloc == 0 && g.free == 0)
    && !(v.ranges.any fun x => x.write && v.ranges.any fun y => !y.write && x.conflicts y)
    && (match v.op with
        | some .dmuProduct | some .dmuPair => true
        | some .tileEvaluate => (getCell s v.cell).eval.isNone
        | _ => false)

/-- Recovery of a granule of the detection class whose check a read of `w` fails (R368): the descriptor that last wrote it runs
again, from `s`, the state before the piece of work; else the step is rolled back from `t`, the state at the failure, where its
records allow; else the error is not recovered. -/
def recoverCrc (s t : State) (w : Work) (stack la : Nat) : State :=
  let by' := Tab.get (noRing, 0) s.writers (lineKey stack la)
  let note (s : State) (code : Nat) : State :=
    emitDesc (addFld s (rid .memEccCnt stack) 16 8 1) w.fn w.ring code 13 stack (leBytes 1 stack ++ leBytes 5 la ++ leBytes 2 w.ring)
  let other := (findWork s by'.1 by'.2).filter fun v => !v.isAt w.ring w.index
  match other with
  | some v =>
    if v.again && v.phase != .done then s
    else if rerunnable s v then
      let s := putWork (note s 0x0503) { v with phase := .running, again := true, writes := [], starts := 0, half := false }
      updWork s w.ring w.index fun x => x.also 3 0x8C
    else rolled note
  | none => rolled note
where
  /-- Recovery by rollback, and the error that nothing recovers. -/
  rolled (note : State → Nat → State) : State :=
    if (getFn t w.fn).recOpen && decide (getFld t (rid .fltStepCtl w.fn) 3 2 < 2) then
      let mark (e : LogEntry) : LogEntry := if e.ring = w.ring ∧ e.index = w.index then { e with recovered := true } else e
      callRollback (updFn (note t 0x0503) w.fn fun f => { f with log := f.log.map mark }) w.fn 2 false
    else
      let v := (findWork t w.ring w.index).getD w
      endWork (note t 0x0504) (v.fail stMemory 0x89)

/-- A piece of a descriptor's work done by its engine. It may end with an error: the descriptor ends with its status; the
access is held or the engine waits, and the piece has had no effect (R344, R372, R479); a granule is recovered (R368); or an error escalates to the
region (R29). -/
def runPiece (s : State) (w : Work) (m : Eng Unit) : State :=
  match m.on s with
  | (.ok _, t) => t
  | (.error (.fail status dcode), t) =>
    let v := (findWork t w.ring w.index).getD w
    endWork t (v.fail status dcode)
  | (.error (.hold stack), _) => holdAt s stack w.ring w.index
  | (.error (.crc stack la), t) => recoverCrc s t w stack la
  | (.error .wait, _) => s
  | (.error (.noRecord region), _) => recordWait s region
  | (.error (.escalate region cause), t) => beginReset t region cause

/-- A descriptor taken out of its engine with a status. -/
def killWork (s : State) (w : Work) (status dcode : Nat) : State :=
  endWork (clearEngines s fun r i => w.isAt r i) (w.fail status dcode)

/-- The command of an opcode: it runs its descriptor when that has reached its engine (`Phase.running`) and the engine may
work. -/
def runOp (s : State) (op : Op) (ring index : Nat) (m : Work → Eng Unit) : State :=
  match findWork s ring index with
  | some w => if w.op = some op ∧ w.phase = .running ∧ engineRuns s w = true then runPiece s w (m w) else s
  | none => s

/-- The descriptor ends well, changed by `f`. -/
def endWith (w : Work) (f : Work → Work) : Eng Unit :=
  act fun s => match findWork s w.ring w.index with
    | some v => endWork s (f v)
    | none => s

/-- The descriptor ends well. -/
def endOk (w : Work) : Eng Unit := endWith w id

/-- What a written tensor leaves on its descriptor: its group update, and OK_WIDENED where it was widened (R173). -/
def noteWrite (w : Work) (x : Wrote) : Eng Unit :=
  act fun s => updWork s w.ring w.index fun v =>
    let v := match x.group with | some g => { v with writes := v.writes ++ [g] } | none => v
    if x.widened then v.also 2 0 else v

end Sys2Proof.Machine
end

