-- ==== Sys2Proof/Machine/Records.lean ====
section
/-! DEFINITION. Fabric transaction records (R478, R481, R482): a packet of class 2 or 4 sent with its record, resent, and
ended; and the packets that end it. -/

namespace Sys2Proof.Machine

/-- The record and generation of a packet in one word, as its header holds them (Table 11-4). -/
def txnWord (txn gen : Nat) : Nat := txn % 2 ^ 20 + gen % 2 ^ 12 * 2 ^ 20

/-- The fabric record of a number. -/
def findRec (s : State) (txn : Nat) : Option FabRec := s.fabRecs.find? fun r => r.txn == txn

/-- A fabric record changed. -/
def updRec (s : State) (txn : Nat) (f : FabRec → FabRec) : State :=
  { s with fabRecs := s.fabRecs.map fun r => if r.txn = txn then f r else r }

/-- A fabric record freed. -/
def dropRec (s : State) (txn : Nat) : State :=
  freeRec { s with fabRecs := s.fabRecs.filter fun r => r.txn != txn } txn

/-- Every fabric record of a descriptor freed. -/
def dropRecs (s : State) (ring index : Nat) : State :=
  (s.fabRecs.filter fun r => r.ring == ring && r.index == index).foldl (fun s r => dropRec s r.txn) s

/-- Whether a descriptor still has a fabric record. -/
def recOpen (s : State) (ring index : Nat) : Bool := s.fabRecs.any fun r => r.ring == ring && r.index == index

/-- A descriptor of a fabric record ends with PEER_LOST (Table 13-3). -/
def peerLost (s : State) (r : FabRec) : State :=
  let s := dropRecs s r.ring r.index
  match findWork s r.ring r.index with
  | some w => endWork s (w.fail stPeer 0xA0)
  | none => s

/-- A failed send: the first is tried again after 1 ms, the second ends the descriptor (Table 13-3). -/
def recFailed (s : State) (r : FabRec) : State :=
  if 0 < r.failures then peerLost s r
  else updRec s r.txn fun r => { r with waiting := true, failures := 1, sentAt := s.time }

/-- A packet sent with a fabric record of a region; none where no record is free (R479). A packet without a usable route
waits for its one resend (Table 13-3). -/
def sendTracked (s : State) (region : Nat) (p : Packet) (ring index : Nat) : Option State :=
  match takeRec s region with
  | (none, _) => none
  | (some n, s) =>
    let p := { p with txn := n, gen := Tab.get 0 s.recGen n }
    let r : FabRec := { txn := n, gen := p.gen, packet := p, sends := 1, waiting := false, failures := 0, heldBy := false,
                        ring := ring, index := index, resent := false, sentAt := s.time }
    let s := { s with fabRecs := s.fabRecs ++ [r] }
    match dispatchPacket s p with
    | some t => some t
    | none => some (recFailed s r)

/-- A packet sent again from its record, with RETRIED set, and its event (R481). -/
def resendRec (s : State) (r : FabRec) : State :=
  let p := { r.packet with retried := true }
  let s := updRec s r.txn fun r =>
    { r with packet := p, sends := r.sends + 1, waiting := false, heldBy := false, resent := true, sentAt := s.time }
  let s := emitRing s r.ring 0x0909 14 ((routePort s p.dst).getD 0) (leBytes 2 p.dst ++ leBytes 3 r.txn ++ leBytes 1 (r.sends + 1))
  match dispatchPacket s p with
  | some t => t
  | none => recFailed s { r with packet := p }

/-- A remote completion packet for a transaction (R105). The layout of its payload is the model's choice (DESIGN
CHOICE, log entry 20). -/
def completionPacket (s : State) (dst txn gen : Nat) (a : Answer) : Packet :=
  { ownPacket s dst 0x21 (leBytes 1 a.status ++ leBytes 1 a.mask ++ leBytes 1 a.dcode ++ leBytes 1 (bit a.retried)
      ++ leBytes 4 a.detail ++ leBytes 8 0) with txn := txn, gen := gen }

/-- The answer that a remote completion packet carries. -/
def answerOf (p : Packet) : Answer :=
  { status := leAt p.payload 0 1, mask := leAt p.payload 1 1, dcode := leAt p.payload 2 1, detail := leAt p.payload 4 4,
    retried := flag (leAt p.payload 3 1) 0 || p.retried }

/-- The descriptor of a record takes its answer (R8, R425, R481); a remote descriptor has then been answered by its node (Table
3-13). -/
def Work.answered (w : Work) (r : FabRec) (a : Answer) : Work :=
  let w : Work := { w with byPeer := w.byPeer || w.phase == .remote }
  let w := w.also a.status a.dcode
  let w := { w with mask := w.mask ||| a.mask, detail := if w.op = some .memCopy then a.detail else w.detail }
  let w := if r.resent then w.also 3 0xCE else w
  if a.retried then w.also 3 0xA8 else w

/-- A checkpoint of which parts are still to be sent (R504). -/
def Work.sending (w : Work) : Bool := w.op == some .snapshot && succeeded w.status && decide (w.progress ≤ w.file.length)

/-- A transaction answered: its record is freed, and its descriptor ends with the last of its records (R105, R478). -/
def recAnswered (s : State) (r : FabRec) (a : Answer) : State :=
  let s := updWork (dropRec s r.txn) r.ring r.index fun w => w.answered r a
  if recOpen s r.ring r.index then s
  else match findWork s r.ring r.index with
    | some w => if w.sending then s else endWork s w
    | none => s

/-- An unreachable notice to the source of a packet (R428, R506). It names the packet's transaction; the place of the
two in the payload is the model's choice (DESIGN CHOICE, log entry 20). -/
def sendUnreachable (s : State) (p : Packet) : State :=
  sendIfRouted s (ownPacket s p.src 0x12 (leBytes 4 (txnWord p.txn p.gen) ++ leBytes 2 p.dst ++ leBytes 10 0))

/-- A packet of another node acted on: it leaves the packets delivered here; at fail-stop it is answered with an unreachable
notice instead (R506). -/
def whenPacket (s : State) (p : Packet) (f : State → State) : Host.Outcome State Fault Refusal :=
  whenLive s fun s =>
    let s := { s with inbox := s.inbox.eraseP fun x => x.2 == p }
    if s.failStop && decide (2 ≤ (packetClass p.type).getD 0) then sendUnreachable s p else f s

/-- A remote completion (R105): it ends the transaction it names, if its generation is the record's (R477). One with a status
byte that no VT2 writes (R6) is no answer, and is discarded (DESIGN CHOICE, log entry 20). -/
def execRemoteCompletion (packet : Packet) (s : State) : Host.Outcome State Fault Refusal :=
  whenPacket s packet fun s =>
    let a := answerOf packet
    match findRec s packet.txn with
    | some r => if r.gen = packet.gen ∧ a.status ∈ statusCodes then recAnswered s r a else s
    | none => s

/-- An unreachable notice about a transaction (Table 13-3). -/
def execUnreachableNotice (txn : Nat) (s : State) : Host.Outcome State Fault Refusal :=
  whenLive s fun s =>
    let s := { s with inbox := s.inbox.eraseP fun x => x.2.type == 0x12 && leAt x.2.payload 0 4 % 2 ^ 20 == txn }
    match findRec s txn with
    | some r => if r.waiting then s else recFailed s r
    | none => s

/-- The 1 ms after a failed send is over: the packet is sent again, once (Table 13-3). -/
def execUnreachableResendDelay (txn : Nat) (s : State) : Host.Outcome State Fault Refusal :=
  whenLive s fun s =>
    match findRec s txn with
    | some r => if r.waiting && decide (r.sentAt + 400000 ≤ s.time) then resendRec s r else s
    | none => s

/-- No remote completion within 100 ms of a send: at most three resends (Table 13-3). A caravan that its receiver
holds, and a packet that waits for its resend, do not time out (DESIGN CHOICE, log entry 60). -/
def execFabricRecordTimeout (txn : Nat) (s : State) : Host.Outcome State Fault Refusal :=
  whenLive s fun s =>
    match findRec s txn with
    | some r =>
      if r.heldBy || r.waiting || decide (s.time < r.sentAt + 100 * 400000) then s
      else if r.sends < 4 then resendRec s r
      else peerLost s r
    | none => s

end Sys2Proof.Machine
end

