-- ==== Sys2Proof/Machine/Caravan.lean ====
section
/-! DEFINITION. Caravan slots (R333–R336, R340, R431–R433, R483): arrival, the two queues of a slot, holds and resumes, and
what each packet of a caravan does. -/

namespace Sys2Proof.Machine

/-! ## A slot's queues -/

/-- A caravan slot of a block. -/
def getSlot (s : State) (b n : Nat) : Slot := Tab.get {} (getBlock s b).slots n

/-- A caravan slot changed. -/
def updSlot (s : State) (b n : Nat) (f : Slot → Slot) : State :=
  updBlock s b fun k => { k with slots := Tab.upd {} k.slots n f }

/-- Bytes that some queued packets take. -/
def queueBytes (q : List Caravan) : Nat := q.foldl (fun n c => n + c.len) 0

/-- Bytes of a slot's on-die queue (Table 8-9). -/
def onDieBytes (s : State) (b n : Nat) : Nat := getFld s (rid .blkCarCfg b n) 6 6 * 4096

/-- Bytes of a slot's overflow queue. -/
def overflowBytes (s : State) (b n : Nat) : Nat := getFld s (rid .blkCarOvfLo b n) 0 16 * 65536

/-- The accesses of a block's class 4 to the overflow queue of a slot: in the address space of the slot's owner (Table 8-9), and
captured by no step, for no descriptor of the function makes them (DESIGN CHOICE, log entry 92). -/
def overflowWho (s : State) (b n : Nat) : Who :=
  { hubWho (getFld s (rid .blkCarCfg b n) 1 5) with mmu := b / 8, snap := true }

/-- The VA of a slot's overflow queue (Table 8-9). -/
def overflowVa (s : State) (b n : Nat) : Nat :=
  field (getReg s (rid .blkCarOvfLo b n)) 16 16 * 2 ^ 16 + field (getReg s (rid .blkCarOvfHi b n)) 0 20 * 2 ^ 32

/-- A packet written at an offset of a slot's overflow queue, which is a ring: packets lie one behind the other, and go on at the
queue's first byte past its last (DESIGN CHOICE, log entry 92). -/
def putOverflow (b n off : Nat) (bs : List Byte) : Eng Unit := do
  let s ← get
  let w := overflowWho s b n
  let k := overflowBytes s b n - off
  vwrite w (overflowVa s b n + off) (bs.take k)
  vwrite w (overflowVa s b n) (bs.drop k)

/-- A packet of a slot's overflow queue read back. -/
def getOverflow (w : Who) (b n : Nat) (c : Caravan) : Eng (List Byte) := do
  let s ← get
  let k := min c.len (overflowBytes s b n - c.off)
  let a ← vread w (overflowVa s b n + c.off) k
  let z ← vread w (overflowVa s b n) (c.len - k)
  pure (a ++ z)

/-- Packets moved from a slot's overflow queue to its on-die queue while that is at most half full (R334); at most `fuel` of
them. -/
def refillSlot (b n : Nat) : Nat → Eng Unit
  | 0 => pure ()
  | fuel + 1 => do
    let s ← get
    let q := getSlot s b n
    match q.overflow with
    | [] => pure ()
    | c :: rest =>
      let cap := onDieBytes s b n
      if 2 * queueBytes q.onDie ≤ cap ∧ queueBytes q.onDie + c.len ≤ cap then
        let bs ← getOverflow (overflowWho s b n) b n c
        act fun s => updSlot s b n fun q => { q with onDie := q.onDie ++ [{ c with bytes := bs }], overflow := rest }
        refillSlot b n fuel
      else pure ()

/-- A packet that tells of a slot: hold 0x13 or resume 0x14, with the expert and, for a hold, the transaction not
taken. The places in the payload are the model's choice (DESIGN CHOICE, log entry 20). -/
def slotPacket (s : State) (type dst expert txn : Nat) : Packet :=
  ownPacket s dst type (leBytes 2 expert ++ leBytes 2 0 ++ leBytes 4 txn ++ leBytes 8 0)

/-- The resume of a held slot once half of its overflow queue is free again, with its event (R335). -/
def resumeSlot (s : State) (b n : Nat) : State :=
  let q := getSlot s b n
  if q.hold && decide (2 * queueBytes q.overflow ≤ overflowBytes s b n) then
    let e := 4 * b + n
    let s := updSlot s b n fun q => { q with hold := false, heldSrcs := [] }
    let s := q.heldSrcs.foldl (fun s src => sendIfRouted s (slotPacket s 0x14 src e 0)) s
    emitFn s 0 0x0407 8 b (leBytes 2 e)
  else s

/-- Whether a slot's packets are to be moved back: its overflow queue holds some, and its on-die queue is at most half full
(R334). -/
def refillDue (s : State) (b n : Nat) : Bool :=
  let q := getSlot s b n
  !q.overflow.isEmpty && decide (2 * queueBytes q.onDie ≤ onDieBytes s b n)

/-- Class 4 moves a slot's packets back to the on-die queue (R334); those it cannot read stay where they are (DESIGN CHOICE, log
entry 92). -/
def doRefill (s : State) (b n : Nat) : State :=
  let s := ((refillSlot b n (getSlot s b n).overflow.length).on s).2
  resumeSlot (updBlock s b fun k => { k with classPtr := 0 }) b n

/-- CARAVAN_REFILL (R334). -/
def execCaravanRefill (block slot : Nat) (s : State) : Host.Outcome State Fault Refusal :=
  whenLive s fun s =>
    if 128 ≤ block ∨ 4 ≤ slot ∨ issueHold s = true ∨ regionRuns s (block / 8) = false ∨ refillDue s block slot = false then s
    else doRefill s block slot

/-! ## Arrival (R333, R335, R433, R483) -/

/-- The key of a caravan: source, record and generation. -/
def caravanKey (p : Packet) : Nat × Nat × Nat := (p.src, p.txn, p.gen)

/-- Caravan stored, for a packet (R432). It carries the transaction in its payload, for a packet of class 1 has none
in its header (DESIGN CHOICE, log entry 20). -/
def sendStored (s : State) (p : Packet) : State :=
  sendIfRouted s (ownPacket s p.src 0x15 (leBytes 4 (txnWord p.txn p.gen) ++ leBytes 1 (bit p.retried) ++ leBytes 11 0))

/-- The function that a node's caravans and remote descriptors act for: SPACE of its route entry (Table 11-6); the PF's own
device sends for the function that owns the descriptor. -/
def spaceOf (s : State) (node : Nat) : Nat := field (Tab.get 0 s.routes node) 8 5

/-- A caravan appended to a slot's overflow queue in device memory (R333): its packet is written, then listed. None where memory
does not take it. -/
def spillCaravan (s : State) (b n : Nat) (c : Caravan) (bs : List Byte) : Option State :=
  let q := getSlot s b n
  if queueBytes q.overflow + c.len ≤ overflowBytes s b n then
    match (putOverflow b n q.tail bs).on s with
    | (.ok _, t) => some (updSlot t b n fun q => { q with
        overflow := q.overflow ++ [{ c with off := q.tail }], tail := (q.tail + c.len) % overflowBytes s b n })
    | (.error _, _) => none
  else none

/-- A caravan for the function of a slot: kept, held back, or refused. One that the overflow queue's memory does not take is held
like one for which the queue has no room, for no caravan is discarded (R335; DESIGN CHOICE, log entry 92). -/
def takeCaravan (s : State) (p : Packet) (space : Nat) : State :=
  let e := p.typeWord % 512
  let b := e / 4
  let n := e % 4
  let cfg := getReg s (rid .blkCarCfg b n)
  let q := getSlot s b n
  if caravanKey p ∈ q.keys then sendStored s p
  else if !flag cfg 0 || decide (field cfg 1 5 ≠ space) then
    sendIfRouted s (completionPacket s p.src p.txn p.gen
      { status := stDenied, mask := 0, dcode := 0xA3, detail := 0, retried := p.retried })
  else
    let c : Caravan := { src := p.src, txn := p.txn, gen := p.gen, len := p.payload.length }
    let stored (s : State) : State :=
      let s := updSlot s b n fun q => { q with keys := (caravanKey p :: q.keys).take 1024 }
      sendStored (addCtr s (field cfg 16 16) (leAt p.payload 0 2)) p
    if q.overflow = [] ∧ queueBytes q.onDie + c.len ≤ onDieBytes s b n then
      stored (updSlot s b n fun q => { q with onDie := q.onDie ++ [{ c with bytes := p.payload }] })
    else match spillCaravan s b n c p.payload with
    | some t => stored t
    | none =>
      let s := updSlot s b n fun q => { q with
        hold := true, heldSrcs := if p.src ∈ q.heldSrcs then q.heldSrcs else q.heldSrcs ++ [p.src] }
      let s := sendIfRouted s (slotPacket s 0x13 p.src e (txnWord p.txn p.gen))
      emitFn s 0 0x0406 8 b (leBytes 2 e ++ leBytes 2 p.src)

/-- The function for which a caravan came: of this node's own, the function of the descriptor that sent it (R433). -/
def caravanSpace (s : State) (p : Packet) : Nat :=
  if p.src = nodeId s then
    match (findRec s p.txn).bind fun r => findWork s r.ring r.index with
    | some w => w.fn
    | none => spaceOf s p.src
  else spaceOf s p.src

/-- A caravan arrives (R333). -/
def execCaravan (packet : Packet) (s : State) : Host.Outcome State Fault Refusal :=
  whenPacket s packet fun s =>
    if s.failStop then sendUnreachable s packet else takeCaravan s packet (caravanSpace s packet)

/-! ## At the sender (R335, R432) -/

/-- The bytes of a caravan send read from its source (R431). -/
def caravanSource (w : Work) : Eng (List Byte) := vread (whoOf w) (vaOf (w.desc.W 0)) (field (w.desc.W 2) 0 48)

/-- A hold: the packet it names stays with the sender until the resume (R335). -/
def execCaravanHold (packet : Packet) (s : State) : Host.Outcome State Fault Refusal :=
  whenPacket s packet fun s =>
    let word := leAt packet.payload 4 4
    updRec s (word % 2 ^ 20) fun r =>
      if r.gen = word / 2 ^ 20 ∧ r.packet.dst = packet.src ∧ r.packet.type = 0x40 then { r with heldBy := true } else r

/-- A held packet sent again, its source read again (R335, R432). -/
def resendHeld (s : State) (r : FabRec) : State :=
  match findWork s r.ring r.index with
  | none => s
  | some w =>
    match (caravanSource w).on s with
    | (.ok bytes, t) => resendRec t { r with packet := { r.packet with payload := bytes } }
    | (.error (.fail status dcode), t) => endWork (dropRecs t r.ring r.index) (w.fail status dcode)
    | (.error _, _) => s

/-- A resume: the packets held for that slot are sent again (R335). -/
def execCaravanResume (packet : Packet) (s : State) : Host.Outcome State Fault Refusal :=
  whenPacket s packet fun s =>
    (s.fabRecs.filter fun r => r.heldBy && r.packet.dst == packet.src && r.packet.typeWord % 512 == leAt packet.payload 0 2
      ).foldl resendHeld s

/-- Caravan stored: the send completes (R432). -/
def execCaravanStored (packet : Packet) (s : State) : Host.Outcome State Fault Refusal :=
  whenPacket s packet fun s =>
    let word := leAt packet.payload 0 4
    match findRec s (word % 2 ^ 20) with
    | some r =>
      if r.gen = word / 2 ^ 20 then
        let n := match findWork s r.ring r.index with
          | some w => min (field (w.desc.W 2) 0 48) (2 ^ 32 - 1)
          | none => 0
        recAnswered s r { status := 0, mask := 0, dcode := 0, detail := n,
                          retried := flag (leAt packet.payload 4 1) 0 || packet.retried }
      else s
    | none => s

/-! ## Configuration (R340) -/

/-- On-die units that a block's other enabled slots have (Table 8-9). -/
def otherUnits (s : State) (b n : Nat) : Nat :=
  ((List.range 4).filter fun k => decide (k ≠ n) && getBit s (rid .blkCarCfg b k) 0).foldl
    (fun t k => t + getFld s (rid .blkCarCfg b k) 6 6) 0

/-- Whether a write of BLK_CAR_CFG_s is refused (R340). -/
def carRefused (s : State) (b n v : Nat) : Bool :=
  let q := getSlot s b n
  (flag v 0 && (decide (field v 6 6 = 0) || decide (40 < field v 6 6 + otherUnits s b n)))
    || decide (ownerOf s (field v 16 16) ≠ field v 1 5)
    || (decide (writeFields (regFields (rid .blkCarCfg b n)) v 0 ≠ getReg s (rid .blkCarCfg b n))
        && (!q.onDie.isEmpty || !q.overflow.isEmpty))

/-- BLK_CAR_CFG_s written by the PF (R340). -/
def execCaravanConfigWrite (fn block slot : Nat) (value : W32) (s : State) : Host.Outcome State Fault Refusal :=
  whenReg s fn (rid .blkCarCfg block slot) fun s =>
    let r := rid .blkCarCfg block slot
    if carRefused s block slot value.toNat then
      emitFn s 0 0x0408 8 block (leBytes 2 block ++ leBytes 1 slot)
    else setReg s r (writeFields (regFields r) value.toNat (getReg s r))

end Sys2Proof.Machine
end

