-- ==== Sys2Proof/Machine/Blocks.lean ====
section
/-! DEFINITION. The block scheduler: issue (R318), starts under slew credit (R337, R338), and the residency windows
(R330–R332). -/

namespace Sys2Proof.Machine

/-! ## Issue -/

/-- A descriptor granted: its engine takes it (R318). The engine starts, under slew credit, at its descriptor's first unit
(`engineStart`). -/
def grantWork (s : State) (w : Work) : State :=
  let s := match w.place with
    | .block b => updBlock s b fun k =>
        let key := (w.ring, w.index)
        if w.op = some .dmuPair then { k with dmu0 := k.dmu0 ++ [key], dmu1 := k.dmu1 ++ [key] }
        else if w.op = some .dmuProduct then
          (if field w.desc.aux 0 1 = 0 then { k with dmu0 := k.dmu0 ++ [key] } else { k with dmu1 := k.dmu1 ++ [key] })
        else k
    | _ => s
  putWork s { w with phase := .running, stopped := false, starts := 0, half := false }

/-- The issuable entries of a class in a block. -/
def classEntries (s : State) (b c : Nat) : List Work := s.work.filter fun w => issuable s b w && issueClass w == c

/-- Whether a block issues at all: it is clocked, not rebuilding, and nothing holds its engines. -/
def blockIssues (s : State) (b : Nat) : Bool :=
  !s.failStop && !issueHold s && regionRuns s (b / 8) && clkRuns s (32 + b) && !(getBlock s b).rebuilding

/-- The write-back of a disabled window carried out by class 4: its pages are free and FLUSHING reads 0 (R332). A write-back that
must wait for memory has not ended. -/
def endFlush (s : State) (b n : Nat) : State :=
  match (flushPages b n).on s with
  | (.ok _, t) =>
    setBit (updBlock t b fun k => { k with
      classPtr := 0, flushing := k.flushing.erase n, pages := k.pages.filter fun p => p.window != n })
      (rid .blkResCtl b n) 1 false
  | (.error _, _) => s

/-- The memory move that a block's class 4 asks for, besides the page fills that an access in progress waits for: the write-back
of the lowest window that is flushed, else the refill of the lowest slot (R332, R334; DESIGN CHOICE, log entry 93). -/
def classMove (s : State) (b : Nat) : Option (State → State) :=
  match (getBlock s b).flushing with
  | n :: rest => some fun s => endFlush s b (rest.foldl min n)
  | [] => ((List.range 4).find? (refillDue s b)).map fun n s => doRefill s b n

/-- Whether a class of a block asks for a grant: it has an issuable entry, or, class 4, a memory move. -/
def classAsks (s : State) (b c : Nat) : Bool :=
  if c = 4 then (classMove s b).isSome else !(classEntries s b c).isEmpty

/-- The descriptor copy of a granted entry read from the block's SRAM (R339, Table 8-6): single-bit errors are corrected; after a
double-bit error the copy is fetched again, and the descriptor is marked. -/
def copyCheck (s : State) (b : Nat) (w : Work) : State × Work :=
  let s := correctSram s b
  match s.upsets.findSome? fun u => match u with | .sramCopy c o => if c = b then some o else none | _ => none with
  | some o => (sramEvent { s with upsets := s.upsets.erase (.sramCopy b o) } b o false, w.also 3 0x79)
  | none => (s, w)

/-- One of a class's issuable entries granted by the class's arbiter (R318). The set-up of the hinge buffer leaves its
descriptor in its entry, to ask for class 1 next (Table 8-1). -/
def grantEntry (s : State) (b c : Nat) : State :=
  let ws := classEntries s b c
  match grantFrom (fun e => ws.any fun w => w.entry == e) 256 (Tab.get 0 (getBlock s b).entryPtr c) with
  | none => s
  | some e =>
    match ws.find? fun w => w.entry == e with
    | none => s
    | some w =>
      let s := updBlock s b fun k => { k with
        classPtr := (c + 1) % 5, entryPtr := Tab.set 0 k.entryPtr c ((e + 1) % 256) }
      let x := copyCheck s b w
      let s := x.1
      let w := x.2
      if c = 3 then putWork s { w with setUp := true } else grantWork s w

/-- The block's two arbiters grant a class and one of its entries, or class 4 its memory move (R318, Table 1-8). -/
def execBlockIssue (block : Nat) (s : State) : Host.Outcome State Fault Refusal :=
  whenLive s fun s =>
    if blockIssues s block = false then s
    else
      match grantFrom (classAsks s block) 5 (getBlock s block).classPtr with
      | none => s
      | some c =>
        if c = 4 then ((classMove s block).getD id) (updBlock s block fun k => { k with classPtr := 0 })
        else grantEntry s block c

/-- A stop of a descriptor's engine that waits for credit takes place, if the credit covers it (R337, R338). -/
def settleStop (s : State) (ring index region : Nat) : State :=
  match (getRegion s region).stops.find? fun k => k.1 == ring && k.2.1 == index with
  | some k =>
    match takeCredit s region k.2.2 with
    | some t => updRegion t region fun g => { g with stops := g.stops.erase k }
    | none => s
  | none => s

/-- A start of a granted descriptor's engine that waits for credit takes place, if the credit covers it (R337, R338): the
descriptor runs again. -/
def settleStart (s : State) (w : Work) : State :=
  if issueHold s || s.failStop || !regionRuns s w.place.regionOf then s
  else match takeCredit s w.place.regionOf (slewStep w) with
    | some t => putWork t { w with starts := w.starts + 1, phase := .running }
    | none => s

/-- A start or a stop that waits for slew credit takes place (R337, R338). -/
def execSlewCreditStart (ring index : Nat) (s : State) : Host.Outcome State Fault Refusal :=
  whenLive s fun s =>
    match (findWork s ring index).filter fun w => w.phase == .granted with
    | some w => settleStart s w
    | none => (List.range 16).foldl (fun s r => settleStop s ring index r) s

/-! ## Residency windows -/

/-- A window's first byte and length, as a control value gives it. -/
def windowSpan (s : State) (b n ctl : Nat) : Nat × Nat := (windowVa s b n, 4096 * field ctl 8 11)

/-- Whether a window that a write would enable overlaps another enabled window, of any block, in the same address space
(R332). -/
def windowClash (s : State) (b n ctl : Nat) : Bool :=
  let x := windowSpan s b n ctl
  (List.range 128).any fun c => (List.range 8).any fun m =>
    decide ((c, m) ≠ (b, n)) && windowOn s c m && decide (getFld s (rid .blkResCtl c m) 3 5 = field ctl 3 5)
      && (let y := windowSpan s c m (getReg s (rid .blkResCtl c m))
          decide (x.1 < y.1 + y.2 ∧ y.1 < x.1 + x.2))

/-- A residency window's refusal event (Table 8-11). -/
def windowRefused (s : State) (b n : Nat) : State := emitFn s 0 0x0405 8 b (leBytes 2 b ++ leBytes 1 n)

/-- BLK_RES_CTL_n written by the PF (R332). -/
def execResidencyWindowWrite (fn block window : Nat) (value : W32) (s : State) : Host.Outcome State Fault Refusal :=
  whenReg s fn (rid .blkResCtl block window) fun s =>
      let r := rid .blkResCtl block window
      let old := getReg s r
      let new := writeFields (regFields r) value.toNat old
      if flag old 0 || flag old 1 then
        -- enabled or flushing: only EN can change
        let s := if new / 8 ≠ old / 8 ∨ (flag old 0 = false ∧ flag new 0 = true) then windowRefused s block window else s
        if flag old 0 && !flag new 0 then
          let s := updBlock s block fun k => { k with flushing := if window ∈ k.flushing then k.flushing else k.flushing ++ [window] }
          setBit (setBit s r 0 false) r 1 true
        else s
      else if flag new 0 && windowClash s block window new then windowRefused s block window
      else setReg s r new

/-- The write-back of a disabled window is done (R332). -/
def execResidencyFlushDone (block window : Nat) (s : State) : Host.Outcome State Fault Refusal :=
  whenLive s fun s => if window ∈ (getBlock s block).flushing then endFlush s block window else s

/-- A page of a window filled from memory (R330, R331). A page that its memory does not give is not filled. -/
def execResidencyPageFill (block window page : Nat) (s : State) : Host.Outcome State Fault Refusal :=
  whenLive s fun s =>
    let k := getBlock s block
    if regExists (rid .blkResCtl block window) = false ∨ windowOn s block window = false
        ∨ getFld s (rid .blkResCtl block window) 8 11 ≤ page ∨ issueHold s = true ∨ regionRuns s (block / 8) = false
        ∨ (k.pages.any fun p => p.window == window && p.page == page) = true then s
    else
      let w := { hubWho (getFld s (rid .blkResCtl block window) 3 5) with mmu := block / 8 }
      match (fillPage w block window page).on s with
      | (.ok _, t) | (.error (.fail _ _), t) => t
      | (.error _, _) => s

end Sys2Proof.Machine
end

