-- ==== Sys2Proof/Machine/Leaf.lean ====
section
/-! DEFINITION. Leaves of a cell: quantising and programming (R190–R195, R219–R234), readback and the as-programmed image
(R222–R226), the known-sum check (R253–R255), and repair and retirement (R262–R272). -/

namespace Sys2Proof.Machine

/-! ## Quantising a master tile -/

/-- The step of a column's pairs: T_w = 2^tw times its E5M3 code, or 2^−d × T_w for 8-bit weights (R191, R193). -/
def LeafRec.step (l : LeafRec) (j : Nat) : Val :=
  let c := l.codes.getD j 0
  if l.eight then .fin false 1 (l.tw - (c : Int)) else (Val.fin false 1 l.tw).mul (e5m3 c)

/-- x ÷ 2^k ÷ s rounded to nearest, ties to even, with s the E5M3 value of a code above 7 (R192). -/
def quantLevel (k : Int) (code x : Nat) : Int :=
  if code < 8 then 0
  else
    let m := fp32.parts x
    let q := frac2 m.1 (m.2 - k - ((code / 8 : Nat) : Int) + 34) (8 + code % 8)
    let r : Int := rneDiv q.1 q.2
    if fp32.sign x then -r else r

/-- The largest finite magnitude of column j. -/
def columnAmax (rows : List (List Nat)) (j : Nat) : Nat := fp32.amax (rows.map fun r => r.getD j 0)

/-- The level of an 8-bit weight x whose column step is 2^(tw − d) (R193). -/
def quantLevel8 (tw : Int) (d x : Nat) : Int :=
  let m := fp32.parts x
  let q := frac2 m.1 (m.2 - tw + (d : Int)) 1
  let r : Int := rneDiv q.1 q.2
  if fp32.sign x then -r else r

/-- The E5M3 code of a column step; block_scale never overflows here, and its largest code stands in (R191). -/
def columnCode (m : Nat) (k : Int) (E h : Nat) : Nat := (blockScale fp32 m k E h).getD 0xFE

/-- A tile quantised: T_w's exponent, the column codes, and the levels of the pairs row by row. -/
structure Quant where
  tw : Int
  codes : List Nat
  levels : List (List Int)
  deriving DecidableEq, Repr

/-- R191 and R192 for a 4-bit weight format. -/
def quantise4 (fmt h cols : Nat) (rows : List (List Nat)) : Quant :=
  let E := vqMax fmt
  let hh := if fmt = 0x22 ∨ fmt = 0x23 then 0 else h
  let k := tensorScaleExp (fp32.amax rows.flatten) E hh
  let codes := (List.range cols).map fun j => columnCode (columnAmax rows j) k E hh
  ⟨k, codes, rows.map fun r => (r.zip codes).map fun p => quantLevel k p.2 p.1⟩

/-- The smallest k with den × 2^k ≥ m × 2^e, for m above 0. -/
def ceilPow2 (m : Nat) (e : Int) (den : Nat) : Int :=
  let q := frac2 m e den
  let l : Int := (Nat.log2 q.1 : Int) - (Nat.log2 q.2 : Int)
  let ok (k : Int) : Bool := let p := frac2 q.2 k 1; decide (q.1 * p.2 ≤ p.1)
  if ok (l - 1) then l - 1 else if ok l then l else l + 1

/-- The two slices of an 8-bit level (R193). -/
def slices (q : Int) : List Int :=
  let q := if q.natAbs % 16 = 8 then (if q < 0 then q + 1 else q - 1) else q
  let h := (q + 8) / 16
  [h, q - 16 * h]

/-- R193 for 8-bit weights. -/
def quantise8 (h cols : Nat) (rows : List (List Nat)) : Quant :=
  let steps : List (Option Int) := (List.range cols).map fun j =>
    let m := columnAmax rows j
    if m = 0 then none else let p := fp32.parts m; some (ceilPow2 p.1 (p.2 + (h : Int)) 119)
  let tw := (steps.filterMap id).foldl (fun (a : Option Int) x => match a with | none => some x | some y => some (max x y)) none
  let tw := tw.getD 0
  let ds := steps.map fun c => match c with | none => 30 | some k => min 30 (tw - k).toNat
  ⟨tw, ds, rows.map fun r => (r.zip ds).flatMap fun p => slices (quantLevel8 tw p.2 p.1)⟩

/-- The levels of one row of a master tile at a leaf's column steps (R192, R193). -/
def LeafRec.rowLevels (l : LeafRec) (row : List Nat) : List Int :=
  if l.eight then (row.zip l.codes).flatMap fun p => slices (quantLevel8 l.tw p.2 p.1)
  else (row.zip l.codes).map fun p => quantLevel l.tw p.2 p.1

/-- Pairs that a tile of columns takes. -/
def LeafRec.pairs (l : LeafRec) : Nat := if l.eight then 2 * l.cols else l.cols

/-- The largest level per pair, P_w (Table 5-2). -/
def LeafRec.pw (l : LeafRec) : Nat := if l.eight then 7 else vqMax l.fmt

/-- An entry of a matrix of levels; 0 outside it (R194). -/
def levelAt (m : List (List Int)) (i j : Nat) : Int := (m.getD i []).getD j 0

/-! ## Devices (R186, R187) -/

/-- The physical row of a logical one, and the pair of device columns of a weight column: moved to a spare, or its own. -/
def LeafRec.rowPlace (l : LeafRec) (i : Nat) : Nat := Tab.get i l.rowAt i
/-- See `rowPlace`. -/
def LeafRec.colPlace (l : LeafRec) (j : Nat) : Nat := Tab.get j l.colAt j

/-- The conductance level of a device. -/
def LeafRec.device (l : LeafRec) (r c : Nat) : Nat := (Tab.get [] l.devices r).getD c 0

/-- The level of the pair of logical row i and weight column j: positive device less negative device (R186). -/
def LeafRec.level (l : LeafRec) (i j : Nat) : Int :=
  (l.device (l.rowPlace i) (2 * l.colPlace j) : Int) - (l.device (l.rowPlace i) (2 * l.colPlace j + 1) : Int)

/-- The two devices of a pair at level q (R187); a device has no level above 7. -/
def pairDevices (q : Int) : List Nat := [min 7 (max q 0).toNat, min 7 (max (-q) 0).toNat]

/-- The weight column that a pair of device columns serves; none for a pair in no use. -/
def LeafRec.colOf (l : LeafRec) (p : Nat) : Option Nat :=
  if p < 256 ∧ l.colPlace p = p then some p else (l.colAt.find? fun e => e.2 == p).map (·.1)

/-- A row's devices at the levels of its pairs; every other pair of it at level 0 (R194). -/
def LeafRec.rowDevices (l : LeafRec) (levels : List Int) : List Nat :=
  (List.range (if l.colAt.isEmpty then levels.length else 260)).flatMap fun p =>
    pairDevices (((l.colOf p).map fun j => levels.getD j 0).getD 0)

/-- One logical row programmed. -/
def LeafRec.writeRow (l : LeafRec) (i : Nat) (levels : List Int) : LeafRec :=
  { l with devices := Tab.set [] l.devices (l.rowPlace i) (l.rowDevices levels) }

/-- Every row programmed from the first on; the rows that the tile does not have are at level 0 (R194, R219). -/
def LeafRec.writeRows (l : LeafRec) (rows : List (List Int)) : LeafRec :=
  ((List.range rows.length).zip rows).foldl (fun l r => l.writeRow r.1 r.2) { l with devices := [] }

/-- A logical row moved to a spare row, and a weight column to a spare pair. -/
def LeafRec.moveRow (l : LeafRec) (i spare : Nat) : LeafRec := { l with rowAt := Tab.set i l.rowAt i (512 + spare) }
/-- See `moveRow`. -/
def LeafRec.moveCol (l : LeafRec) (j spare : Nat) : LeafRec := { l with colAt := Tab.set j l.colAt j (256 + spare) }

/-! ## Cells and leaves -/

/-- The physical cell of a logical one, in the numbering of Table 6-7. -/
def pcellOf (s : State) (cell : Nat) : Nat :=
  let b := cell / 8
  81 * (b / 8) + 9 * Tab.get (b % 8) s.start.blockMap b + Tab.get (cell % 8) s.start.cellMap cell

/-- Whether a leaf is in fault fallback (R260). -/
def leafFallback (s : State) (cell : Nat) (l : Leaf) : Bool := getBit s (rid .cellCheckStat cell) (leafBit l)

/-! ## Wear (R232–R234) -/

/-- The wear registers of a leaf. -/
def wearRegs (cell : Nat) : Leaf → RegId × RegId
  | .a => (rid .cellWearALo cell, rid .cellWearAHi cell)
  | .b => (rid .cellWearBLo cell, rid .cellWearBHi cell)

/-- A leaf's wear count. -/
def wearOf (s : State) (cell : Nat) (l : Leaf) : Nat :=
  getReg s (wearRegs cell l).1 + getReg s (wearRegs cell l).2 * 2 ^ 32

/-- The three wear levels of R234. -/
def wearLevels : List Nat := [10000000000, 18000000000, 20000000000]

/-- A wear count set. -/
def setWear (s : State) (cell : Nat) (l : Leaf) (n : Nat) : State :=
  setReg (setReg s (wearRegs cell l).1 (n % 2 ^ 32)) (wearRegs cell l).2 (n / 2 ^ 32)

/-- Number of a leaf's wear row. -/
def wearRow (s : State) (cell : Nat) (l : Leaf) : Nat := 2 * pcellOf s cell + leafBit l

/-- The bits and events of the wear levels that `hit` names. -/
def wearMarks (s : State) (cell : Nat) (l : Leaf) (n : Nat) (hit : Nat → Bool) (emit : Bool) : State :=
  (List.range 3).foldl (fun s i =>
    if hit (wearLevels.getD i 0) then
      let s := setBit s (rid .cellEvtStat cell) (1 + 3 * leafBit l + i) true
      if emit then emitFn s 0 0x0202 9 cell (leBytes 2 cell ++ leBytes 1 (leafBit l) ++ leBytes 1 i ++ leBytes 5 n) else s
    else s) s

/-- One programming counted (R232), stored every 65,536 (R233), its levels reported (R234). -/
def countWear (s : State) (cell : Nat) (l : Leaf) : State :=
  let n := satAdd 40 (wearOf s cell l) 1
  let s := if n = wearOf s cell l then s else wearMarks (setWear s cell l n) cell l n (fun v => v == n) true
  if n % 65536 = 0 then { s with nv := { s.nv with wearStored := Tab.set 0 s.nv.wearStored (wearRow s cell l) n } } else s

/-! ## LEAF_PROGRAM -/

/-- The fields of a LEAF_PROGRAM (Table 3-12). -/
def programFields (d : Desc) : LeafRec :=
  { rows := field (d.W 1) 0 16, cols := field (d.W 1) 16 16, fmt := field (d.W 1) 32 8, eight := flag (d.W 1) 45,
    log2Block := 4 + field (d.W 1) 40 2, masterVa := vaOf (d.W 0), masterStride := field (d.W 2) 0 32,
    masterBf16 := decide (field (d.W 0) 52 4 = 1) }

/-- Bytes of a master element. -/
def LeafRec.masterBytes (l : LeafRec) : Nat := if l.masterBf16 then 2 else 4

/-- The refusals of R190. -/
def programRefused (d : Desc) : Bool :=
  let l := programFields d
  let kind := (l.eight && decide (l.fmt = 0x15)) || (!l.eight && decide (l.fmt ∈ [0x20, 0x21, 0x22, 0x23]))
  !kind || decide (1 < field (d.W 0) 52 4) || decide (l.rows = 0 ∨ 512 < l.rows)
    || decide (l.cols = 0 ∨ (if l.eight then 128 else 256) < l.cols)
    || decide (l.masterStride % l.masterBytes ≠ 0) || decide (l.masterStride < l.cols * l.masterBytes)

/-- The rows of a master tile as FP32 codes. -/
def readMaster (w : Who) (l : LeafRec) : Nat → Nat → Eng (List (List Nat))
  | 0, _ => pure []
  | n + 1, i => do
    let bs ← vread w (l.masterVa + i * l.masterStride) (l.cols * l.masterBytes)
    let row := (List.range l.cols).map fun j =>
      let c := leAt bs (j * l.masterBytes) l.masterBytes
      if l.masterBf16 then c * 2 ^ 16 else c
    let rest ← readMaster w l n (i + 1)
    pure (row :: rest)

/-- Engine work that leaves a mark on the state when it does not end well. -/
def onError {α : Type} (m : Eng α) (f : State → State) : Eng α :=
  tryCatch m fun e => do
    act f
    throw e

/-- A leaf's owner is a descriptor. -/
def LeafRec.ownedBy (l : LeafRec) (w : Work) : Bool := l.owner == some (w.ring, w.index)

/-- The start of a LEAF_PROGRAM: its refusals, and the leaf PROGRAMMING before the master tile is read (R190, R230, R248). -/
def programStart (w : Work) : Eng Unit := do
  let d := w.desc
  let cell := d.target
  let l := leafOf (field (d.W 1) 44 1)
  let s ← get
  if (getLeaf s cell l).ownedBy w then pure ()
  else
    ensure (getCell s cell).cal.isNone stBusy 0x5B
    ensure (!programRefused d) stBad 0x50
    act fun s => leaveValid s cell l .programming
    act fun s => updLeaf s cell l fun x => { x with owner := some (w.ring, w.index), restored := false }
    act fun s => setBit s (rid .cellCheckStat cell) (leafBit l) false

/-- The rest of a LEAF_PROGRAM: the master tile read and quantised, and its rows written (R191–R195, R219). One that ends before
its last row write leaves the leaf EMPTY (R230). -/
def programRows (w : Work) : Eng Unit := do
  let d := w.desc
  let cell := d.target
  let l := leafOf (field (d.W 1) 44 1)
  let f := { programFields d with masterSpace := w.fn }
  let rows ← readMaster (whoOf w) f f.rows 0
  match (List.range (f.rows * f.cols)).find? fun i => !fp32.finite ((rows.getD (i / f.cols) []).getD (i % f.cols) 0) with
  | some i =>
    act fun s => emitRing s w.ring 0x0203 9 cell (leBytes 2 cell ++ leBytes 4 i)
    failWith stBad 0x54
  | none =>
    let h := field (d.W 1) 42 2
    let q := if f.eight then quantise8 h f.cols rows else quantise4 f.fmt h f.cols rows
    let go ← engineStart w 1
    if go then
      act fun s => countWear s cell l
      act fun s => updLeaf s cell l fun x =>
        { f with state := .programmed, tw := q.tw, codes := q.codes, rowAt := x.rowAt, colAt := x.colAt }.writeRows q.levels
      endOk w
    else pure ()

/-- LEAF_PROGRAM. A wait for its master tile leaves the leaf PROGRAMMING. -/
def execLeafProgram (ring index : Nat) (s : State) : Host.Outcome State Fault Refusal :=
  whenLive s fun s => runOp (runOp s .leafProgram ring index programStart) .leafProgram ring index programRows

/-! ## Known sums (R253–R255) -/

/-- Whether a number of at most `n` bits has an even count of ones. -/
def evenOnes : Nat → Nat → Bool
  | 0, _ => true
  | n + 1, x => if x % 2 = 1 then !evenOnes n (x / 2) else evenOnes n (x / 2)

/-- The code that known-sum vector v drives on row i. -/
def ksCode (v i : Nat) : Int := if evenOnes 16 (i &&& (33 * v)) then 1 else -1

/-- The predicted sum of column j for vector v over an image. -/
def ksSum (image : List (List Int)) (v j : Nat) : Int :=
  ((List.range image.length).map fun i => ksCode v i * levelAt image i j).foldl (· + ·) 0

/-- Whether a measured sum fails against its prediction (R254): the limit is KS_TOL × 0.5 % of 4,064. -/
def ksFails (tol : Nat) (measured predicted : Int) : Bool := decide (2032 * tol < 100 * (measured - predicted).natAbs)

/-- The columns that fail for any vector of a run; a sum that the run does not list is as predicted (DEDUCED, log
entry 23). -/
def ksFailed (tol : Nat) (image : List (List Int)) (sums : List (List Int)) : List Nat :=
  (List.range 256).filter fun j => (List.range (min 16 sums.length)).any fun v =>
    match (sums.getD v [])[j]? with
    | some x => ksFails tol x (ksSum image v j)
    | none => false

/-- KS_TOL of a cell. -/
def ksTolOf (s : State) (cell : Nat) : Nat := getFld s (rid .cellCheckCfg cell) 0 5

/-! ## Faults and repairs (R262–R264) -/

/-- What a check found on a leaf: rows, weight columns, converters, and whether it is cell-wide. -/
structure Findings where
  rows : List Nat := []
  cols : List Nat := []
  convs : List Nat := []
  wide : Bool := false
  deriving DecidableEq, Repr

/-- Whether nothing was found. -/
def Findings.none (f : Findings) : Bool := f.rows.isEmpty && f.cols.isEmpty && f.convs.isEmpty && !f.wide

/-- Failed columns classed as converters and columns (Table 6-5). -/
def classify (failed : List Nat) : Findings :=
  let convs := (List.range 64).filter fun k => (List.range 4).all fun i => decide (4 * k + i ∈ failed)
  let cols := failed.filter fun j => decide (j / 4 ∉ convs)
  let touched := (List.range 64).filter fun k => failed.any fun j => j / 4 == k
  { cols := cols, convs := convs, wide := decide (32 ≤ failed.length ∧ 8 ≤ touched.length) }

/-- A level measured in units of 2^−16, rounded to nearest, ties to even. -/
def roundLevel (x : Int) : Int :=
  let r : Int := rneDiv x.natAbs 65536
  if x < 0 then -r else r

/-- The pairs out of bound in a reading (R223, Table 6-5): the rounded level outside the written range, or more than 3
from the programmed one. A pair that the reading does not list reads as programmed (DEDUCED, log entry 23). -/
def outOfBound (l : LeafRec) (levels : List (List Int)) : List (Nat × Nat) :=
  (List.range (min 512 levels.length)).flatMap fun i =>
    ((List.range 256).filter fun j =>
      match (levels.getD i [])[j]? with
      | some x => let r := roundLevel x
                  decide (l.pw < r.natAbs) || decide (3 < (r - l.level i j).natAbs)
      | none => false).map fun j => (i, j)

/-- The image of a reading: rounded and clamped levels of the tile's pairs (R223) (DEDUCED, log entry 66). -/
def imageOf (l : LeafRec) (levels : List (List Int)) : List (List Int) :=
  (List.range l.rows).map fun i => (List.range l.pairs).map fun j =>
    match (levels.getD i [])[j]? with
    | some x => max (-7) (min 7 (roundLevel x))
    | none => l.level i j

/-- What one readback finds: 8 or more pairs of one column are a column fault, the rows of the others are row faults,
and 64 faults or more are cell-wide (Table 6-5; DEDUCED, log entry 24). -/
def readFindings (l : LeafRec) (tol : Nat) (r : Readback) : Findings :=
  let oob := outOfBound l r.levels
  let bad := (List.range 256).filter fun j => decide (8 ≤ (oob.filter fun p => p.2 == j).length)
  let rows := (List.range 512).filter fun i => oob.any fun p => p.1 == i && decide (p.2 ∉ bad)
  let image := imageOf l r.levels
  let first := ksFailed tol image r.sums
  let again := ksFailed tol image r.repeated
  let k := classify (first.filter fun j => decide (j ∈ again))
  let cols := (List.range 256).filter fun j => decide (j ∈ bad ∨ j ∈ k.cols)
  { rows := rows, cols := cols, convs := k.convs,
    wide := k.wide || decide (64 ≤ rows.length + cols.length + k.convs.length) }

/-- The depth of a logical row or column. -/
def depthOf (t : List (Leaf × Nat × Nat)) (l : Leaf) (n : Nat) : Nat :=
  ((t.find? fun x => x.1 == l && x.2.1 == n).map (·.2.2)).getD 0

/-- A depth recorded. -/
def setDepth (t : List (Leaf × Nat × Nat)) (l : Leaf) (n d : Nat) : List (Leaf × Nat × Nat) :=
  (l, n, d) :: t.filter fun x => !(x.1 == l && x.2.1 == n)

/-- A round of repairs so far: the cell, the entries to record, or the retirement called for, with its cause and the logical
row or column. -/
structure Round where
  cell : Cell
  made : List Repair := []
  stop : Option (Nat × Nat) := none
  deriving DecidableEq, Repr

/-- A row moved to the lowest free usable spare row. -/
def Round.row (pcell : Nat) (l : Leaf) (r : Round) (n : Nat) : Round :=
  if r.stop.isSome then r
  else
    let d := depthOf r.cell.rowDepth l n
    if 2 ≤ d then { r with stop := some (0, n) }
    else match (List.range 16).find? fun k => decide ((l, k) ∉ r.cell.usedRows) with
      | none => { r with stop := some (1, n) }
      | some k => { r with
          cell := { r.cell.updLeaf l (LeafRec.moveRow · n k) with
            usedRows := (l, k) :: r.cell.usedRows, rowDepth := setDepth r.cell.rowDepth l n (d + 1) }
          made := r.made ++ [{ pcell := pcell, kind := 1, leaf := leafBit l, logical := n, spare := k, depth := d + 1 }] }

/-- A weight column moved to the lowest free usable spare pair. -/
def Round.col (pcell : Nat) (l : Leaf) (r : Round) (n : Nat) : Round :=
  if r.stop.isSome then r
  else
    let d := depthOf r.cell.colDepth l n
    if 2 ≤ d then { r with stop := some (0, n) }
    else match (List.range 4).find? fun k => decide ((l, k) ∉ r.cell.usedPairs) with
      | none => { r with stop := some (1, n) }
      | some k => { r with
          cell := { r.cell.updLeaf l (LeafRec.moveCol · n k) with
            usedPairs := (l, k) :: r.cell.usedPairs, colDepth := setDepth r.cell.colDepth l n (d + 1) }
          made := r.made ++ [{ pcell := pcell, kind := 2, leaf := leafBit l, logical := n, spare := k, depth := d + 1 }] }

/-- A converter replaced for good by converter 64. -/
def Round.conv (pcell : Nat) (r : Round) (n : Nat) : Round :=
  if r.stop.isSome then r
  else if r.cell.spareConv.isSome then { r with stop := some (1, n) }
  else { r with
    cell := { r.cell with spareConv := some n }
    made := r.made ++ [{ pcell := pcell, kind := 3, leaf := 0xFF, logical := n, spare := 64, depth := 0 }] }

/-- The repairs of one round: rows, then columns, then converters (R262). -/
def planRound (c : Cell) (pcell : Nat) (l : Leaf) (f : Findings) : Round :=
  if f.wide then { cell := c, stop := some (2, 0) }
  else
    let r := f.rows.foldl (Round.row pcell l) { cell := c }
    let r := f.cols.foldl (Round.col pcell l) r
    f.convs.foldl (Round.conv pcell) r

/-- The eight bytes of a repair entry (Table 6-7). -/
def repairBytes (r : Repair) : List Byte :=
  leBytes 2 r.pcell ++ leBytes 1 r.kind ++ leBytes 1 r.leaf ++ leBytes 2 r.logical ++ leBytes 1 r.spare ++ leBytes 1 r.depth

/-- Free usable spares of a leaf. -/
def freeRows (c : Cell) (l : Leaf) : Nat := ((List.range 16).filter fun k => decide ((l, k) ∉ c.usedRows)).length
/-- See `freeRows`. -/
def freePairs (c : Cell) (l : Leaf) : Nat := ((List.range 4).filter fun k => decide ((l, k) ∉ c.usedPairs)).length

/-- CELL_REPAIR_STAT brought up to date with the cell (Table 6-12). -/
def syncRepair (s : State) (cell : Nat) : State :=
  let c := getCell s cell
  let r := rid .cellRepairStat cell
  let s := setFld s r 0 16 (freeRows c .a + freePairs c .a * 2 ^ 5 + freeRows c .b * 2 ^ 8 + freePairs c .b * 2 ^ 13)
  let s := setBit s r 16 c.spareConv.isNone
  setBit s r 17 c.retired

/-- One entry put into a journal row and counted (R264). -/
def journal (s : State) (cell : Nat) (e : Repair) : State :=
  addFld { s with nv := { s.nv with journal := s.nv.journal ++ [e] } } (rid .cellRepairStat cell) 24 8 1

/-- The entries of a round recorded, each with its event. -/
def recordRepairs (s : State) (cell : Nat) (es : List Repair) : State :=
  es.foldl (fun s e => emitFn (journal s cell e) 0 0x0214 9 cell (leBytes 2 cell ++ repairBytes e)) s

/-! ## Retiring a cell (R266–R269) -/

/-- The hidden spare cell can take a clone for a cell (R267): its use is not fixed, and no other cell's clone is in it. -/
def spareOpen (s : State) (cell : Nat) : Bool :=
  let b := getBlock s (cell / 8)
  !b.spareUsed && (b.clone.isNone || b.clone == some cell)

/-- Every evaluation that an eval has not finished, given to the DMU (R267 2). -/
def Eval.toDmu (e : Eval) : Eval :=
  { e with fallen := e.fallen ++ (List.range (e.evals - e.next)).map (e.next + ·), next := e.evals
           fallbacks := e.fallbacks + (e.evals - e.next)
           ready := false, sentinelDue := false, reread := false, waitClone := false, clone := false }

/-- An evaluation in progress on a retired cell: it waits for a clone, or goes to the DMU (R267). -/
def replayEval (s : State) (cell : Nat) (e : Eval) : State :=
  if !e.audited && spareOpen s cell then
    let s := updBlock s (cell / 8) fun b => { b with clone := some cell, cloneLeaf := .programming, cloneSince := s.time }
    updCell s cell fun c => { c with eval := some { e with
      waitClone := true, ready := false, shot := 0, phase := 0, sumsHigh := [], sumsLow := [], saturated := [], satShot := [] } }
  else
    let s := updCell s cell fun c => { c with eval := some e.toDmu }
    updWork s e.ring e.index fun w => { w.also 3 0x5E with mask := w.mask ||| 5 }

/-- A cell retired, for a cause of event 0x0215 (R266). A full calibration, a repair or a check that is due is discarded
(R269). -/
def retireCell (s : State) (cell cause logical : Nat) : State :=
  if (getCell s cell).retired then s
  else
    let s := journal s cell { pcell := pcellOf s cell, kind := 4, leaf := 0xFF, logical := 0, spare := 0, depth := 0 }
    let s := if (getCell s cell).cal.isSome then
        setBit (setBit s (rid .cellCalCmd cell) 0 false) (rid .cellCalStat cell) 1 false else s
    let s := updCell s cell fun c => { c with retired := true, cal := none, suspects := [], onSpare := none, moveDue := false }
    let s := (s.work.filter fun w => w.place == .block (cell / 8) && w.cell == cell && w.phase != .done
        && (w.op == some .leafProgram || w.op == some .leafReadback)).foldl
      (fun s w => endWork s (w.fail stRetired 0x59)) s
    let s := transomSpan s fun s => updEntry (updEntry s 9 cell fun e => { e with retired := true, present := false })
      12 0 fun e => { e with word := e.word + 1 }
    let s := setBit (syncRepair s cell) (rid .cellCalStat cell) 0 false
    let s := raiseAlarm s 2
    let s := emitFn s 0 0x0215 9 cell (leBytes 2 cell ++ leBytes 1 cause ++ leBytes 2 logical)
    match (getCell s cell).eval with
    | some e => replayEval s cell e
    | none => s

/-- The findings of a check acted on: the cell retired, or the repairs recorded (R262, R263). It answers whether the cell is
still in use. -/
def repairOrRetire (s : State) (cell : Nat) (l : Leaf) (f : Findings) : Bool × State :=
  let r := planRound (getCell s cell) (pcellOf s cell) l f
  match r.stop with
  | some (cause, n) => (false, retireCell s cell cause n)
  | none => (true, syncRepair (recordRepairs (updCell s cell fun _ => r.cell) cell r.made) cell)

/-- A fault confirmed on a VALID leaf (R260): how is 0 known-sum after suspect, 1 sentinel, 2 re-readback. -/
def confirmFault (s : State) (cell : Nat) (l : Leaf) (how : Nat) (f : Findings) : State :=
  let n := (getLeaf s cell l).sincePass
  let s := (repairOrRetire s cell l f).2
  let s := setBit s (rid .cellCheckStat cell) (leafBit l) true
  let s := addFld s (rid .cellCheckStat cell) 16 16 1
  emitFn s 0 0x0213 9 cell (leBytes 2 cell ++ leBytes 1 (leafBit l) ++ leBytes 1 how ++ leBytes 4 n)

/-! ## The as-programmed image (R224, R225) -/

/-- Rows of the image with the padding of each column's last block. -/
def LeafRec.imageRows (l : LeafRec) : Nat := padded l.log2Block l.rows

/-- The image's header checked (R224), then as every headed write (R148). A field that R224 names and finds wrong carries its
0x55, where R148 would give 0x41 as well (DESIGN CHOICE, log entry 85). -/
def imageHeader (w : Who) (l : LeafRec) (va : Nat) : Eng (Hdr × Grp) := do
  let bs ← vread w va 64
  let h : Hdr := ⟨va, bs⟩
  ensure (decide (bs.take 4 = [0x56#8, 0x54#8, 0x48#8, 0x44#8] ∧ leAt bs 4 1 = 0xA0 ∧ h.log2 = l.log2Block ∧ leAt bs 6 1 = 0
    ∧ h.group ≤ 4095 ∧ h.elements = l.imageRows * l.pairs)) stBad 0x55
  ensure (!h.refused 0xA0) stBad 0x41
  let g ← readGrp w h.group
  pure (h, g)

/-- The scale code of an image column (R225). -/
def LeafRec.imageCode (l : LeafRec) (pair : Nat) : Nat :=
  if l.eight then (31 - l.codes.getD (pair / 2) 0) * 8 else l.codes.getD pair 0

/-- The FP32 values of the image's elements, padding apart. -/
def LeafRec.imageValues (l : LeafRec) : List Nat :=
  (List.range l.pairs).flatMap fun j => (List.range l.rows).map fun i =>
    toFp32 ((l.step (if l.eight then j / 2 else j)).mul (ofInt false (levelAt l.image i j) 0))

/-- The image of a leaf written under R149; its group update is due at its descriptor's completion. A wide copy that the header
named is freed (R175). -/
def writeImage (w : Who) (l : LeafRec) (h : Hdr) (g : Grp) : Eng Wrote := do
  let n := h.elements
  let cols := List.range l.pairs
  let codes := cols.flatMap fun j => (List.range l.imageRows).map fun i => unsigned 4 (levelAt l.image i j)
  let blocks := l.imageRows / 2 ^ l.log2Block
  let old ← heldCopy w h
  vwrite w (h.va + 64) (cols.flatMap fun j => List.replicate blocks (BitVec.ofNat 8 (l.imageCode j)))
  vwrite w (h.va + areaOffset 0x20 h.log2 n) (packArea 0x20 codes)
  let vals := l.imageValues
  let norm := if g.cls = 2 ∨ g.cls = 3 then norm32 vals else 0
  let amax := fp32.amax vals
  writeHdr w h.va false (fp32.round (.fin false 1 l.tw)) 0 amax norm
  narrowWrote old (groupWrite w h g (l.rows * l.pairs)
    { zeros := (vals.filter fp32.isZero).length, saturated := 0, nonfinite := 0 } amax norm)

/-! ## LEAF_READBACK -/

/-- The array periods of a readback: 512 rows and 16 known-sum vectors (R222). -/
def readPeriods : Nat := 528

/-- A leaf becomes VALID with an image (R227), its leaf record taken (Table 13-2). -/
def becomeValid (s : State) (cell : Nat) (l : Leaf) (image : List (List Int)) (va space : Nat) : State :=
  let x := getLeaf s cell l
  let q := if x.record.isSome then (x.record, s) else takeRec s (cell / 64)
  updLeaf q.2 cell l fun x => { x with
    state := .valid, image := image, imageVa := va, imageSpace := space, validSince := s.time, record := q.1, sincePass := 0
    owner := none, toRead := 0, rounds := 0, restored := false, restoring := false }

/-- A readback of a leaf in use (R226, R259): its image is written anew, or the fault is confirmed and the old image stands
(R260). It answers whether the image was written. -/
def rereadLeaf (w : Work) (who : Who) (cell : Nat) (l : Leaf) (va tol : Nat) (read : Readback) : Eng Bool := do
  let s ← get
  let x := getLeaf s cell l
  let hg ← imageHeader who x va
  let f := readFindings x tol read
  if f.none then
    let image := imageOf x read.levels
    let o ← writeImage who { x with image := image } hg.1 hg.2
    noteWrite w o
    act fun s => becomeValid s cell l image va who.space
    pure true
  else
    act fun s => confirmFault s cell l 2 f
    pure false

/-- The accesses to a leaf's master tile: those of its LEAF_PROGRAM (R264). -/
def masterWho (w : Work) (x : LeafRec) : Who := { whoOf w with fn := x.masterSpace, space := x.masterSpace }

/-- Some rows of a leaf programmed again from its master tile, at the column steps it has (R264). What a master tile that was
changed against R265 gives is cut to the levels that a device has (DESIGN CHOICE, log entry 89). -/
def reprogram (w : Work) (cell : Nat) (l : Leaf) : List Nat → Eng Unit
  | [] => pure ()
  | i :: rest => do
    let s ← get
    let x := getLeaf s cell l
    let row ← readMaster (masterWho w x) x 1 i
    act fun s => updLeaf s cell l fun x => x.writeRow i (x.rowLevels (row.getD 0 []))
    reprogram w cell l rest

/-- The logical rows that repairs rewrite: every row after a column repair, the moved ones after row repairs, none after a
converter repair (R264). -/
def rewritten (x : LeafRec) (made : List Repair) : List Nat :=
  if made.any fun e => e.kind == 2 then List.range x.rows
  else ((made.filter fun e => e.kind == 1).map (·.logical)).filter (· < x.rows)

/-- The start of a LEAF_READBACK (R222, R224, R228): the leaf READING, with its readback periods to come. -/
def readbackStart (w : Work) : Eng Unit := do
  let d := w.desc
  let cell := d.target
  let l := leafOf (field (d.W 1) 44 1)
  let s ← get
  let x := getLeaf s cell l
  if x.ownedBy w then pure ()
  else
    ensure (decide (x.state ≠ .empty)) stBad 0x51
    let _ ← imageHeader (whoOf w) x (vaOf (d.W 0))
    act fun s => updLeaf s cell l fun x => { x with
      state := .reading, owner := some (w.ring, w.index), toRead := readPeriods, rounds := 0, readTol := ksTolOf s cell }

/-- The end of one whole readback of a LEAF_READBACK, once its periods are over, with what they measured: the image written and
the leaf VALID (R223–R227); on a leaf that had an image, the fault confirmed (R260); else a round of repairs, after which the
leaf is programmed and read again, at most four of them (R264), or the cell retired (R263). -/
def readbackEnd (read : Readback) (w : Work) : Eng Unit := do
  let d := w.desc
  let cell := d.target
  let l := leafOf (field (d.W 1) 44 1)
  let who := whoOf w
  let s ← get
  let x := getLeaf s cell l
  if !x.ownedBy w || decide (x.toRead ≠ 0) then pure ()
  else if x.record.isSome then
    let ok ← rereadLeaf w who cell l (vaOf (d.W 0)) x.readTol read
    if ok then endOk w
    else
      let s ← get
      if (getCell s cell).retired then pure () else failWith stAborted 0x5A
  else if 65536 ≤ recsIn s (cell / 64) then
    act fun s => (takeRec s (cell / 64)).2
  else
    let f := readFindings x x.readTol read
    if f.none then
      let hg ← imageHeader who x (vaOf (d.W 0))
      let image := imageOf x read.levels
      let o ← writeImage who { x with image := image } hg.1 hg.2
      noteWrite w o
      act fun s => becomeValid s cell l image (vaOf (d.W 0)) w.fn
      if x.rounds = 0 then endOk w else endWith w fun w => w.also 3 0x5F
    else if 4 ≤ x.rounds then
      act fun s => retireCell s cell 4 0
    else
      let plan := planRound (getCell s cell) (pcellOf s cell) l f
      act fun s => (repairOrRetire s cell l f).2
      if plan.stop.isNone then
        reprogram w cell l (rewritten x plan.made)
        act fun s => updLeaf s cell l fun x => { x with toRead := readPeriods, rounds := x.rounds + 1 }

end Sys2Proof.Machine
end

