-- ==== Sys2Proof/Machine/Product.lean ====
section
/-! DEFINITION. The products of the digital matrix units: exact products (R282, R283), accumulation in A20 with compensated
promotion (R284–R286), reference mode (R304), folds (R290), the weights of an as-programmed image (R298), and the errors inside a
DMU (R305–R308). -/

namespace Sys2Proof.Machine

/-- A20, the internal format of a partial sum (Table 7-3). -/
def a20 : Bin := ⟨8, 11, 127, 0x7F7FF, some 0x7F800, some 0x7FC00⟩

/-- A decoded operand element, and whether it is an FP32 operand (R283). -/
structure Elem where
  val : Val
  split : Bool
  deriving DecidableEq, Repr

/-- The high part of a split operand: the FP32 code without bits [15:0] (R283). -/
def hiPart (e : Elem) : Val :=
  if e.split then let c := fp32.round e.val; fp32.decode (c - c % 2 ^ 16) else e.val

/-- The low part: the rest, rounded to BF16; 0 for an operand that is not FP32 (R283). -/
def loPart (e : Elem) : Val :=
  if e.split then bf16.decode (bf16.round (e.val.add (hiPart e).neg)) else .fin false 0 0

/-- The product of two elements, formed exactly (R282, R283). A non-finite operand makes it the product of the operands
(R286). -/
def prod (fp32Mode : Bool) (a b : Elem) : Val :=
  if fp32Mode && a.val.isFin && b.val.isFin then
    (((hiPart a).mul (hiPart b)).add ((hiPart a).mul (loPart b))).add ((loPart a).mul (hiPart b))
  else a.val.mul b.val

/-- The sums of one position: FP32 sum and compensation, the A20 partial sum, and what R286 watches for. -/
structure Acc where
  sum : Nat := 0
  comp : Nat := 0
  part : Nat := 0
  nan : Bool := false
  pinf : Bool := false
  ninf : Bool := false
  deriving DecidableEq, Repr

/-- One rounding, counted when it overflows a finite value (R286). -/
def Acc.rnd (a : Acc) (f : Bin) (v : Val) : Nat × Acc :=
  let c := f.round v
  match v, f.decode c with
  | .fin _ _ _, .inf n => (c, { a with pinf := a.pinf || !n, ninf := a.ninf || n })
  | _, _ => (c, a)

/-- What a product adds to the cases of R286. -/
def Acc.see (a : Acc) : Val → Acc
  | .nan => { a with nan := true }
  | .inf n => { a with pinf := a.pinf || !n, ninf := a.ninf || n }
  | .fin _ _ _ => a

/-- The promotion of a value into the compensated sum (R285). -/
def Acc.promote (a : Acc) (v : Val) : Acc :=
  let y := a.rnd fp32 (v.add (fp32.decode a.comp).neg)
  let t := y.2.rnd fp32 ((fp32.decode a.sum).add (fp32.decode y.1))
  let u := t.2.rnd fp32 ((fp32.decode t.1).add (fp32.decode a.sum).neg)
  let c := u.2.rnd fp32 ((fp32.decode u.1).add (fp32.decode y.1).neg)
  { c.2 with sum := t.1, comp := c.1 }

/-- One reduction step; `close` says that the partial sum is promoted after it. -/
def Acc.step (fp32Mode : Bool) (a : Acc) (p : Val) (close : Bool) : Acc :=
  let a := a.see p
  if fp32Mode then a.promote p
  else
    let q := a.rnd a20 ((a20.decode a.part).add p)
    let b : Acc := { q.2 with part := q.1 }
    if close then { b.promote (a20.decode b.part) with part := 0 } else b

/-- The reduction from index k on. -/
def reduceFrom (fp32Mode : Bool) (kp : Nat) : Nat → List (Elem × Elem) → Acc → Acc
  | _, [], a => a
  | k, (x, y) :: rest, a =>
    reduceFrom fp32Mode kp (k + 1) rest (a.step fp32Mode (prod fp32Mode x y) ((k + 1) % kp == 0 || rest.isEmpty))

/-- One output element before the epilogue, an FP32 code (R285, R286). -/
def dot (kp : Nat) (xs ys : List Elem) : Nat :=
  let fp32Mode := (xs.head?.map (·.split)).getD false || (ys.head?.map (·.split)).getD false
  let a := reduceFrom fp32Mode kp 0 (xs.zip ys) {}
  let r := a.rnd fp32 ((fp32.decode a.sum).add (fp32.decode a.comp).neg)
  if r.2.nan || (r.2.pinf && r.2.ninf) then fp32.canon
  else if r.2.pinf then fp32.infCode false
  else if r.2.ninf then fp32.infCode true
  else r.1

/-- The FP64 sum of reference mode, with what R304 notes of non-finite operands. -/
structure Ref where
  s : Nat := 0
  nan : Bool := false
  pinf : Bool := false
  ninf : Bool := false
  deriving DecidableEq, Repr

/-- One step of reference mode. -/
def Ref.step (r : Ref) (x y : Val) : Ref :=
  match x.mul y with
  | .nan => { r with nan := true }
  | .inf n => if n then { r with ninf := true } else { r with pinf := true }
  | p => { r with s := fp64.round ((fp64.decode r.s).add p) }

/-- One output element of reference mode, an FP64 code (R304) (DEDUCED, log entry 66). -/
def refDot (xs ys : List Val) : Nat :=
  let r := (xs.zip ys).foldl (fun r p => r.step p.1 p.2) ({} : Ref)
  if r.nan || (r.pinf && r.ninf) then fp64.canon
  else if r.pinf then fp64.infCode false
  else if r.ninf then fp64.infCode true
  else r.s

/-- The epilogue in a format: 1 adds, 2 multiplies, one rounding each (R287, R304). -/
def epilogue (f : Bin) (epi r : Nat) (e : Val) : Nat :=
  if epi = 1 then f.round ((f.decode r).add e)
  else if epi = 2 then f.round ((f.decode r).mul e)
  else r

/-- kp of a promotion code (R279). -/
def kpOf (code : Nat) : Nat := 4 * 2 ^ code

/-! ## Matrices -/

/-- A matrix as rows. -/
abbrev Mat (α : Type) := List (List α)

/-- `rows` × `cols` elements of a list; element (r, c) at r × cols + c, or, transposed, at c × rows + r (Table 7-2). -/
def matOf {α : Type} (d : α) (rows cols : Nat) (trans : Bool) (xs : Array α) : Mat α :=
  (List.range rows).map fun r => (List.range cols).map fun c => xs.getD (if trans then c * rows + r else r * cols + c) d

/-- Every output element of a product, row by row: `rows` holds op(A) by m, `cols` holds op(B) by n. -/
def matProduct (ref : Bool) (kp : Nat) (rows cols : Mat Elem) : List Nat :=
  rows.flatMap fun a => cols.map fun b =>
    if ref then refDot (a.map (·.val)) (b.map (·.val)) else dot kp a b

/-- The folds of Table 7-4. -/
def folds : List (Nat × Nat) := [(128, 128), (64, 256), (256, 64), (32, 512), (512, 32)]

/-- Output tiles of a shape on a fold. -/
def foldTiles (m n : Nat) (f : Nat × Nat) : Nat := ceilDiv m f.1 * ceilDiv n f.2

/-- Output tiles under the fold that R290 selects; `block` is the output's block size, 0 for none. -/
def tilesOf (m n block : Nat) : Nat :=
  ((folds.filter fun f => decide (block ≤ f.2)).map (foldTiles m n)).foldl (fun a t => if a = 0 then t else min a t) 0

/-! ## Operands -/

/-- The format an operand's values have in memory: that of its wide copy where WIDE is 1 (R174), else its own. -/
def storedFormat (h : Hdr) : Nat := if h.wide then h.wideFmt else h.fmt

/-- An operand of a product: its elements in order, FP32 ones marked for the split (R281, R283). -/
def readOperand (w : Who) (va fmtByte count code : Nat) : Eng (Array Elem) := do
  if flag fmtByte 7 then
    let hg ← readHdr w va fmtByte (some count) code
    let vs ← readBody w hg.1
    pure (vs.map fun v => (⟨v, storedFormat hg.1 == 0⟩ : Elem)).toArray
  else
    let vs ← readTensor w va fmtByte count code
    pure (vs.map fun v => (⟨v, fmtByte % 128 == 0⟩ : Elem)).toArray

/-- An as-programmed image read (R297, R298): the weights of each column, rows in order. -/
structure Image where
  cols : Mat Val
  deriving DecidableEq, Repr

/-- An 8-bit weight of a sliced image (R298). -/
def slicedWeight (tscale scale hi lo : Nat) : Val :=
  match e5m3 scale with
  | .nan => .nan
  | s => ((fp32.decode tscale).mul s).mul (ofInt false (16 * vqInt 0x20 hi + vqInt 0x20 lo) 0)

/-- The header of the image at a VA, for a tile of `rows` × `cols` weights, checked; and whether its weights have 8 bits
(R297). -/
def imageHead (w : Who) (va rows cols : Nat) : Eng (Hdr × Bool) := do
  let bs ← vread w va 64
  let h : Hdr := ⟨va, bs⟩
  ensure (decide (leAt bs 4 1 = 0xA0)) stBad 0x65
  ensure (!h.refused 0xA0) stBad 0x41
  let rp := padded h.log2 rows
  let eight := decide (h.elements = rp * 2 * cols)
  ensure (eight || decide (h.elements = rp * cols)) stBad 0x65
  let _ ← readGrp w h.group
  pure (h, eight)

/-- The image whose header lies at a VA, for a tile of `rows` × `cols` weights (R297, R298). In a wide copy the elements stand as
the values they decode to (R173, R174). -/
def readImage (w : Who) (va rows cols : Nat) : Eng Image := do
  let (h, eight) ← imageHead w va rows cols
  let rp := padded h.log2 rows
  if eight && h.wide then
    let vs ← readBody w h
    let a := vs.toArray
    pure ⟨(List.range cols).map fun j => (List.range rows).map fun i =>
      ((a.getD (2 * j * rp + i) .nan).mul (ofInt false 16 0)).add (a.getD ((2 * j + 1) * rp + i) .nan)⟩
  else if eight then
    let scales ← vread w (va + 64) (ceilDiv h.elements (2 ^ h.log2))
    let area ← vread w (va + areaOffset 0x20 h.log2 h.elements) (areaBytes 0x20 h.elements)
    let codes := (areaCodes 0x20 h.elements area).toArray
    let sc := scales.toArray
    pure ⟨(List.range cols).map fun j => (List.range rows).map fun i =>
      let hi := 2 * j * rp + i
      slicedWeight h.tscale (sc.getD (hi / 2 ^ h.log2) 0).toNat (codes.getD hi 0) (codes.getD ((2 * j + 1) * rp + i) 0)⟩
  else
    let vs ← readBody w h
    let a := vs.toArray
    pure ⟨(List.range cols).map fun j => (List.range rows).map fun i => a.getD (j * rp + i) .nan⟩

/-! ## Errors inside a DMU (R305–R308) -/

/-- Single-bit errors of a DMU's stager and hinge buffer, corrected and counted (R305). -/
def correctStager (s : State) (dmu : Nat) : State :=
  (s.upsets.filter (· == .stagerBit dmu)).foldl (fun s _ => addFld s (rid .dmuErrCnt dmu) 0 16 1)
    { s with upsets := s.upsets.filter (· != .stagerBit dmu) }

/-- The errors that work of `tiles` output tiles on a DMU meets, in order: the output tile, which is one of the work's, and the
chunk slot of a double-bit error; none for a residue or parity mismatch. -/
def tileErrors (s : State) (dmu tiles : Nat) : List (Nat × Option Nat) :=
  s.upsets.filterMap fun u => match u with
    | .stagerDouble d slot tile => if d = dmu then some (tile % tiles, some slot) else none
    | .residue d tile => if d = dmu then some (tile % tiles, none) else none
    | _ => none

/-- An upset of a DMU's tiles. -/
def upsetOfTile (dmu : Nat) : Upset → Bool
  | .stagerDouble d _ _ | .residue d _ => d == dmu
  | _ => false

/-- Output tiles replayed (R305–R308): the tile of each error and those after it are formed again, and the descriptor is marked. A
mismatch during the replay of the same tile (`now`) escalates to the region. -/
def replayTiles (w : Work) (dmu : Nat) : Option Nat → List (Nat × Option Nat) → Eng Unit
  | _, [] => pure ()
  | now, (tile, slot) :: rest => do
    match slot with
    | some k => act fun s => emitFn s 0 0x0303 10 dmu (leBytes 2 dmu ++ leBytes 1 k)
    | none => act fun s => addFld s (rid .dmuErrCnt dmu) 16 16 1
    if slot.isNone && now == some tile then
      act fun s => emitFn s 0 0x0302 10 dmu (leBytes 2 dmu ++ leBytes 4 tile)
      throw (.escalate (dmu / 16) 1)
    else
      act fun s => emitFn s 0 0x0301 10 dmu (leBytes 2 dmu ++ leBytes 4 tile ++ leBytes 2 w.ring)
      act fun s => updWork s w.ring w.index fun v => v.also 3 0x68
      replayTiles w dmu (some tile) rest

/-- The errors of a DMU found in work of `tiles` output tiles on it, which writes the bits it would have written without them
(R181, R305–R308; DESIGN CHOICE, log entry 71). -/
def dmuErrors (w : Work) (dmu tiles : Nat) : Eng Unit := do
  act fun s => correctStager s dmu
  let s ← get
  act fun s => { s with upsets := s.upsets.filter fun u => !upsetOfTile dmu u }
  replayTiles w dmu none (tileErrors s dmu tiles)

/-- One column of a fallback product (R301): kp 16, never reference mode. -/
def fallbackColumn (xs : List Elem) (col : List Val) : Nat := dot 16 xs (col.map fun v => ⟨v, false⟩)

end Sys2Proof.Machine
end

