-- ==== Sys2Proof/Machine/Eval.lean ====
section
/-! DEFINITION. Evaluation on a cell: TILE_EVALUATE (R196–R218), its array periods (R200–R206), the wadi (R207–R211), the
checks during evaluation (R252–R261), the replay of a retired cell (R267, R268), and fallback products (R301, R320). -/

namespace Sys2Proof.Machine

/-! ## The input of one evaluation -/

/-- What one evaluation reads: its values, and the unit step of each block (R197); none marks a non-finite scale. -/
structure EvalIn where
  vals : List Val
  steps : List (Option Val)
  deriving DecidableEq, Repr

/-- The exponent of a power-of-two TSCALE. -/
def scaleExp (tscale : Nat) : Int := ((tscale / 2 ^ 23 % 256 : Nat) : Int) - 127

/-- The code a block of a widened input takes (R197). -/
def wideCode (h : Hdr) (block : List Val) : Nat :=
  (blockScale fp32 (fp32.amax (block.map toFp32)) (scaleExp h.tscale) 7 h.headroom).getD 0xFE

/-- The unit step of a block with its scale code. -/
def unitStep (h : Hdr) (code : Nat) : Option Val :=
  let v := if h.fmt = 0x20 then ((fp32.decode h.tscale).abs).mul (e5m3 code) else (e8m0 code).scale (-6)
  if v.isFin then some v else none

/-- The input of evaluation `n` of a tensor of `rows` elements each. -/
def readInput (w : Who) (va fmtByte rows n : Nat) : Eng EvalIn := do
  let bs ← vread w va 64
  let h : Hdr := ⟨va, bs⟩
  let size := 2 ^ h.log2
  let per := rows / size
  if h.wide then
    let s ← get
    match wideCopyOf s w.fn h with
    | none => failWith stDenied 0x40
    | some _ =>
      let width := areaBytes h.wideFmt 1
      let bytes ← pread w (h.widePa + n * rows * width) (rows * width)
      let vals := decodeTensor h.wideFmt 0 rows 0 [] bytes
      pure ⟨vals, (runs size vals).map fun b => unitStep h (wideCode h b)⟩
  else
    let scales ← vread w (va + 64 + n * per) per
    let first := n * rows * fmtWidth (fmtByte % 128) / 8
    let area ← vread w (va + areaOffset h.fmt h.log2 h.elements + first) (areaBytes h.fmt rows)
    let vals := decodeTensor h.fmt h.log2 rows h.tscale scales area
    pure ⟨vals, scales.map fun c => unitStep h c.toNat⟩

/-- The largest unit step, as mantissa and exponent. -/
def largestStep (steps : List Val) : Val := steps.foldl (fun a v => if a.lt v then v else a) (.fin false 0 0)

/-- x ÷ g rounded to nearest, ties to even; 0 where g is 0. -/
def rowCode (g x : Val) : Int :=
  match g, x with
  | .fin _ mg eg, .fin n m e =>
    if mg = 0 then 0
    else
      let q := frac2 m (e - eg) mg
      let r : Int := rneDiv q.1 q.2
      if n then -r else r
  | _, _ => 0

/-- Whether a row code lies on the grid of its input format (R197). -/
def onGrid (mx : Bool) (u : Int) : Bool := if mx then decide (-120 ≤ u ∧ u ≤ 119) else decide (-7 ≤ u ∧ u ≤ 7)

/-! ## Shots and phases -/

/-- The row codes of a shot (R198). -/
def shotCodes (mx : Bool) (shot : Nat) (codes : List Int) : List Int :=
  if !mx then codes else codes.map fun u => let h := (u + 8) / 16; if shot = 0 then h else u - 16 * h

/-- Shots of an evaluation. -/
def shotCount (mx : Bool) : Nat := if mx then 2 else 1

/-- The largest number of rows per phase (R202). -/
def rMax (gain margin p : Nat) : Nat := min 512 (127 * 2 ^ (gain + margin) / p)

/-- The largest row code of a shot, P_u. -/
def shotPu (mx : Bool) (shot : Nat) : Nat := if mx && shot == 1 then 8 else 7

/-- Rows whose code is not 0 (R203). -/
def activeRows (codes : List Int) : Nat := (codes.filter (· ≠ 0)).length

/-- Phases of a shot (R203). -/
def phaseCount (e : Eval) (mx : Bool) (pw shot : Nat) : Nat :=
  ceilDiv (activeRows (shotCodes mx shot e.codes)) (rMax e.gain e.margin (shotPu mx shot * pw))

/-- The rows of a phase: the shot's active rows in ascending order, R_max to each phase but the last (R203). -/
def phaseRows (e : Eval) (mx : Bool) (pw : Nat) : List Nat :=
  let codes := shotCodes mx e.shot e.codes
  let r := rMax e.gain e.margin (shotPu mx e.shot * pw)
  (((List.range codes.length).filter fun i => decide (codes.getD i 0 ≠ 0)).drop (r * e.phase)).take r

/-- The row codes that a phase latches into the drivers: 0 on every row of another phase. -/
def phaseDrive (e : Eval) (mx : Bool) (pw : Nat) : List Int :=
  let codes := shotCodes mx e.shot e.codes
  let rows := phaseRows e mx pw
  (List.range codes.length).map fun i => if i ∈ rows then codes.getD i 0 else 0

/-- A converter code, kept to eight bits. -/
def adcCode (x : Int) : Int := max (-128) (min 127 x)

/-- The next shot at or after one that has an active row. -/
def nextShot (e : Eval) (mx : Bool) (pw : Nat) (n : Nat) : Option Nat :=
  ((List.range (shotCount mx)).filter fun k => decide (n ≤ k)).find? fun k => decide (0 < phaseCount e mx pw k)

/-! ## The result of one evaluation -/

/-- A column's sum over the shots (R205). -/
def pairSum (e : Eval) (mx : Bool) (j : Nat) : Int :=
  if mx then 16 * e.sumsHigh.getD j 0 + e.sumsLow.getD j 0 else e.sumsHigh.getD j 0

/-- The weight of row i and weight column j as an FP32 code, from the image (R207). -/
def weight32 (l : LeafRec) (i j : Nat) : Nat :=
  let q : Int := if l.eight then 16 * levelAt l.image i (2 * j) + levelAt l.image i (2 * j + 1) else levelAt l.image i j
  toFp32 ((l.step j).mul (ofInt false q 0))

/-- Fused multiply-adds of some rows into a column, in ascending order (R206, R207). -/
def addRows (l : LeafRec) (xs : List Nat) (j : Nat) (rows : List Nat) (y : Nat) : Nat :=
  rows.foldl (fun acc i => fp32.fma (xs.getD i 0) (weight32 l i j) acc) y

/-- The result of weight column j (R205–R207). -/
def columnResult (e : Eval) (l : LeafRec) (mx : Bool) (sat : List Nat) (j : Nat) : Nat :=
  if j ∈ sat then addRows l e.xs j (List.range l.rows) 0
  else
    let S : Int := if l.eight then 16 * pairSum e mx (2 * j) + pairSum e mx (2 * j + 1) else pairSum e mx j
    let y := fp32.round (((Val.fin false e.stepNum e.stepExp).mul (l.step j)).mul (ofInt false S 0))
    addRows l e.xs j e.wadiRows y

/-- Saturated weight columns of the tile (R208). -/
def satColumns (e : Eval) (l : LeafRec) : List Nat :=
  (List.range l.cols).filter fun j => e.saturated.any fun p => decide ((if l.eight then p / 2 else p) = j)

/-- The eval of a cell changed. -/
def updEval (s : State) (cell : Nat) (f : Eval → Eval) : State := updCell s cell fun c => { c with eval := c.eval.map f }

/-- What every finished evaluation counts: itself, and the sentinel it may bring (R258). -/
def Eval.count (e : Eval) : Eval :=
  { e with next := e.next + 1, shot := 0, phase := 0, sumsHigh := [], sumsLow := [], saturated := [], satShot := [], ready := false
           sentinelDue := e.sentinelDue || (e.audited && decide ((e.next + 1) % e.sentN = 0)) }

/-- An evaluation finished without the array: with a result, or fallen back. -/
def skipEval (s : State) (cell : Nat) (res : Option (List Nat)) : State :=
  let s := addFld s (rid .cellEvalCnt cell) 0 32 1
  let s := if res.isNone then addFld s (rid .cellFbCnt cell) 0 32 1 else s
  updEval s cell fun e => match res with
    | some ys => { e.count with results := Tab.ins e.results e.next ys }
    | none => { e.count with fallen := e.fallen ++ [e.next], fallbacks := e.fallbacks + 1 }

/-- An evaluation boundary of a cell: a new temperature, new codes, and the columns' move to or from the spare take effect (R242,
R243). -/
def Cell.boundary (c : Cell) : Cell :=
  let c := match c.nextCodes with
    | some n => { c with calCodes := n.1, calTemp := n.2, codeAdd := [], nextCodes := none }
    | none => c
  { c with
    evalNo := c.evalNo + 1, useTemp := c.nextTemp.getD c.useTemp, nextTemp := none
    onSpare := if c.moveDue then (if c.calConv < 64 then some c.calConv else none) else c.onSpare, moveDue := false }

/-- An evaluation finished on the array: combined, or fallen back when its entries exceed the capacity (R205–R209); the
codes in use change at this boundary (R242) (DEDUCED, log entry 67). -/
def finishEval (s : State) (cell cap : Nat) (mx : Bool) : State :=
  match (getCell s cell).eval with
  | none => s
  | some e =>
    let l := getLeaf s cell e.leaf
    let sat := satColumns e l
    let s := addFld s (rid .cellSatCnt cell) 0 32 sat.length
    let s := updLeaf s cell e.leaf fun x => { x with sincePass := x.sincePass + 1 }
    let s := updCell s cell Cell.boundary
    skipEval s cell (if cap < e.wadiRows.length + sat.length then none
      else some ((List.range l.cols).map (columnResult e l mx sat)))

/-! ## The output-range monitor (R256, R257) -/

/-- A_j: the magnitude of a column of the image. -/
def columnMagnitude (l : LeafRec) (j : Nat) : Nat :=
  ((List.range l.image.length).map fun i => (levelAt l.image i j).natAbs).foldl (· + ·) 0

/-- One column's reading of a shot entered: violations in the last 4,096 evaluations, consecutive dead readings, and the
suspects they make; `base` is 0 for leaf A and 256 for leaf B, whose columns have histories of their own. -/
def watchColumn (l : LeafRec) (base gain umax active : Nat) (sat : List Nat) (sums : List Int) (c : Cell) (col : Nat) : Cell :=
  let A := columnMagnitude l col
  let S := sums.getD col 0
  let j := base + col
  let c :=
    if decide (col ∉ sat) && decide (umax * A + 8 * 2 ^ gain < S.natAbs) then
      let vs := (c.violations.filter fun v => decide (c.evalNo < v.2 + 4096)) ++ [(j, c.evalNo)]
      if 4 ≤ (vs.filter fun v => v.1 == j).length then
        { c with violations := vs.filter fun v => v.1 != j, suspects := if j ∈ c.suspects then c.suspects else c.suspects ++ [j] }
      else { c with violations := vs }
    else c
  if active < 64 then c
  else if decide (0 < A) && decide (S = 0) then
    let n := ((c.dead.find? fun d => d.1 == j).map (·.2)).getD 0 + 1
    let rest := c.dead.filter fun d => d.1 != j
    if 4096 ≤ n then { c with dead := rest, suspects := if j ∈ c.suspects then c.suspects else c.suspects ++ [j] }
    else { c with dead := (j, n) :: rest }
  else { c with dead := c.dead.filter fun d => d.1 != j }

/-- The monitor over a finished shot. -/
def watchShot (s : State) (cell : Nat) (mx : Bool) (e : Eval) : State :=
  let l := getLeaf s cell e.leaf
  let codes := shotCodes mx e.shot e.codes
  let umax := codes.foldl (fun a u => max a u.natAbs) 0
  let sums := if e.shot = 0 then e.sumsHigh else e.sumsLow
  updCell s cell fun c => (List.range 256).foldl (watchColumn l (256 * leafBit e.leaf) e.gain umax (activeRows codes) e.satShot sums) c

/-! ## Activation, pooling and output (R214–R218) -/

/-- The activation of a table (R216); an empty table is table 0. -/
def activate32 (table : List Byte) (x : Nat) : Nat :=
  if table = [] then x
  else
    let p := fp32.mul (fp32.sub x (leAt table 0 4)) (leAt table 4 4)
    let k : Nat := match fp32.decode x, fp32.decode p with
      | .inf n, _ => if n then 0 else 255
      | _, .inf n => if n then 0 else 255
      | _, .fin n m e => if n then 0 else min 255 ((frac2 m e 1).1 / (frac2 m e 1).2)
      | _, _ => 0
    if fp32.decode x = .nan then fp32.canon else fp32.fma (leAt table (64 + 8 * k) 4) x (leAt table (68 + 8 * k) 4)

/-- Whether an activation table is refused (R216). -/
def tableRefused (t : List Byte) : Bool :=
  decide ((t.drop 8).take 56 ≠ List.replicate 56 0#8) || !fp32.finite (leAt t 0 4)
    || !fp32.finite (leAt t 4 4) || fp32.sign (leAt t 4 4) || fp32.isZero (leAt t 4 4)

/-- One pooled value: 1 largest, 2 average, 3 sum (R217). -/
def poolValues (kind hw : Nat) : List Nat → Nat
  | [] => 0
  | x :: xs =>
    let v := xs.foldl (fun a y => if kind = 1 then fp32.maxOf a y else fp32.add a y) x
    if kind = 2 then fp32.divVal (fp32.decode v) (.fin false hw 0) else v

/-- Runs of output vectors pooled, column by column. -/
def poolVectors (kind hw cols : Nat) (vs : List (List Nat)) : List (List Nat) :=
  if kind = 0 then vs
  else (runs hw vs).map fun g => (List.range cols).map fun j => poolValues kind hw (g.map fun v => v.getD j 0)

/-- The fields of a TILE_EVALUATE's W2 and W3 (Table 3-12). -/
structure EvalOps where
  evals : Nat
  leaf : Leaf
  add : Bool
  act : Nat
  pool : Nat
  hw : Nat
  cap : Nat
  rawCap : Nat
  audited : Bool
  deriving DecidableEq, Repr

/-- See `EvalOps`; a capacity of 0 means 64 (R210). -/
def evalOps (d : Desc) : EvalOps :=
  let c := field (d.W 3) 0 16
  { evals := field (d.W 2) 0 32, leaf := leafOf (field (d.W 2) 32 1), add := flag (d.W 2) 33, act := field (d.W 2) 34 8,
    pool := field (d.W 2) 42 2, hw := (field (d.W 2) 44 3 + 1) * (field (d.W 2) 47 3 + 1),
    cap := if c = 0 then 64 else c, rawCap := c, audited := flag (d.W 3) 16 }

/-- Output vectors (R218). -/
def EvalOps.vectors (o : EvalOps) : Nat := if o.pool = 0 then o.evals else o.evals / o.hw

/-- Whether the input is MXINT8. -/
def mxInput (d : Desc) : Bool := fmtOf (d.W 0) == 0x95

/-- A TILE_EVALUATE whose evaluations are all computed: the output written, the completion's status, detail and event
(R212–R218). -/
def completeEval (w : Work) (cell : Nat) (e : Eval) : Eng Unit := do
  let d := w.desc
  let o := evalOps d
  let who := whoOf w
  let s ← get
  let l := getLeaf s cell e.leaf
  act fun s => updCell s cell fun c => { c with eval := none }
  let prev ← if o.add then readTensor who (vaOf (d.W 1)) (fmtOf (d.W 1)) (l.cols * o.evals) 0x56 else pure []
  let ys := (e.results.map (·.2)).flatten
  let ys := if o.add then (ys.zip prev).map fun p => fp32.round ((fp32.decode p.1).add p.2) else ys
  let ys := ys.map (activate32 e.table)
  let out := (poolVectors o.pool o.hw l.cols (runs l.cols ys)).flatten
  let x ← writeTensor who (vaOf (d.W 1)) (fmtOf (d.W 1)) 0x56 fp32 out
  noteWrite w x
  if e.fbThresh * e.evals < e.fallbacks * 1000 then
    act fun s => setBit s (rid .cellEvtStat cell) 0 true
    act fun s => emitRing s w.ring 0x0201 9 cell
      (leBytes 2 cell ++ leBytes 4 e.evals ++ leBytes 4 e.fallbacks ++ leBytes 2 w.ring)
  endWith w fun v =>
    let v := if e.fallbacks = 0 then v else v.also 1 0
    let v := if e.clone then v.also 3 0x5D else v
    { v with detail := e.fallbacks }

/-! ## Going from evaluation to evaluation -/

/-- The next evaluation made ready for its shots: row codes, wadi rows and the unit step (R197). -/
def prepareEval (s : State) (cell : Nat) (mx : Bool) (i : EvalIn) : State :=
  updEval s cell fun e =>
    let g := (largestStep (i.steps.filterMap id)).scale (-(e.depth : Int))
    let us := i.vals.map (rowCode g)
    let wadi := (List.range us.length).filter fun k => !onGrid mx (us.getD k 0)
    let m : Nat × Int := match g with | .fin _ m x => (m, x) | _ => (0, 0)
    { e with codes := us.map fun u => if onGrid mx u then u else 0
             xs := i.vals.map toFp32, wadiRows := wadi, stepNum := m.1, stepExp := m.2, shot := 0, phase := 0
             sumsHigh := [], sumsLow := [], saturated := [], satShot := [] }

/-- The eval moved to its next shot with an active row; false where none is left. -/
def startShot (s : State) (cell : Nat) (mx : Bool) (n : Nat) : Bool × State :=
  match (getCell s cell).eval with
  | none => (true, s)
  | some e =>
    match nextShot e mx (getLeaf s cell e.leaf).pw n with
    | some k => (true, updEval s cell fun e => { e with shot := k, phase := 0, satShot := [], ready := true })
    | none => (false, s)

/-- The suspect columns of a leaf, by column (R257). -/
def suspectsOf (c : Cell) (l : Leaf) : List Nat := c.suspects.filter fun j => j / 256 == leafBit l

/-- A TILE_EVALUATE carried on until it needs an array period, a check, a clone, a readback or a fallback product, or is
complete. An evaluation with a non-finite input takes no period (R199); one on a leaf in fault fallback (R260), or with more
wadi rows than its capacity (R211), falls back at once. -/
def carryOn (w : Work) (cell : Nat) : Nat → Eng Unit
  | 0 => pure ()
  | fuel + 1 => do
    let s ← get
    match (getCell s cell).eval with
    | none => pure ()
    | some e =>
      let o := evalOps w.desc
      let mx := mxInput w.desc
      let l := getLeaf s cell e.leaf
      let fb := leafFallback s cell e.leaf && !e.clone
      if e.waitClone || e.reread || e.ready || !engineRuns s w then pure ()
      else if e.sentinelDue && !fb then act fun s => updEval s cell fun e => { e with ready := true }
      else if !(suspectsOf (getCell s cell) e.leaf).isEmpty && !fb then pure ()
      else if e.evals ≤ e.next then
        if e.fallen.isEmpty then completeEval w cell e else pure ()
      else
        let i ← readInput (whoOf w) (vaOf (w.desc.W 0)) (fmtOf (w.desc.W 0)) l.rows e.next
        if (i.vals.any fun v => !v.isFin) || (i.steps.any fun d => d.isNone) then
          act fun s => skipEval s cell (some (List.replicate l.cols fp32.canon))
          carryOn w cell fuel
        else if fb then
          act fun s => skipEval s cell none
          carryOn w cell fuel
        else
          act fun s => prepareEval s cell mx i
          let s ← get
          let rows := (((getCell s cell).eval.map (·.wadiRows)).getD []).length
          act fun s => addFld s (rid .cellWadiCnt cell) 0 32 rows
          if o.cap < rows then
            act fun s => skipEval s cell none
            carryOn w cell fuel
          else
            let s ← get
            let q := startShot s cell mx 0
            act fun _ => q.2
            if q.1 then pure ()
            else
              act fun s => finishEval s cell o.cap mx
              carryOn w cell fuel

/-- The eval of a cell dropped. -/
def dropEval (cell : Nat) (s : State) : State := updCell s cell fun c => { c with eval := none }

/-- Carry on; an error ends the evaluation. -/
def carry (w : Work) (cell : Nat) : Eng Unit := do
  let s ← get
  let n := match (getCell s cell).eval with | some e => e.evals - e.next + 1 | none => 0
  onError (carryOn w cell (n + 1)) (dropEval cell)

/-- The checks of a TILE_EVALUATE in their order (R196, R210, R214–R218, R228); it answers its activation table. -/
def evalChecks (w : Work) (cell : Nat) (l : LeafRec) : Eng (List Byte) := do
  let d := w.desc
  let o := evalOps d
  let who := whoOf w
  ensure (decide (l.state = .valid)) stBad 0x51
  ensure (decide (o.rawCap = 0 ∨ (64 ≤ o.rawCap ∧ o.rawCap ≤ 256))) stBad 0x53
  ensure (!o.add || decide (fmtOf (d.W 1) % 128 = 0 ∧ o.pool = 0)) stBad 0x53
  ensure (decide (o.pool = 0 ∨ o.evals % o.hw = 0)) stBad 0x53
  ensure (decide (fmtOf (d.W 0) = 0xA0 ∨ fmtOf (d.W 0) = 0x95)) stBad 0x52
  let s ← get
  let table ← if o.act = 0 then pure [] else vread who (actVa s (cell / 8) o.act) 2112
  ensure (decide (o.act = 0) || !tableRefused table) stBad 0x53
  let hg ← readHdr who (vaOf (d.W 0)) (fmtOf (d.W 0)) (some (o.evals * l.rows)) 0x52
  ensure (decide (l.rows % 2 ^ hg.1.log2 = 0)) stBad 0x52
  if flag (fmtOf (d.W 1)) 7 then
    let _ ← readHdr who (vaOf (d.W 1)) (fmtOf (d.W 1)) (some (l.cols * o.vectors)) 0x56
  pure table

/-- Whether a leaf is to be read back before audited use (R259, R489). -/
def staleLeaf (s : State) (cell : Nat) (l : LeafRec) : Bool :=
  l.restored || decide (getFld s (rid .cellCheckCfg cell) 16 8 * cyclesPerSecond < s.time - l.validSince)

/-- The work of a TILE_EVALUATE at its start (R204, R259, R273). -/
def tileEvaluate (w : Work) : Eng Unit := do
  let d := w.desc
  let cell := d.target
  let o := evalOps d
  let s ← get
  let l := getLeaf s cell o.leaf
  if (getCell s cell).eval.isSome then pure ()
  else
    let table ← evalChecks w cell l
    let g := getReg s (rid .cellGainSel cell)
    let e : Eval := {
      ring := w.ring, index := w.index, leaf := o.leaf, gain := field g 0 4, margin := field g 4 4
      depth := getFld s (rid .cellWadiCfg cell) 0 2, fbThresh := getFld s (rid .cellWadiCfg cell) 4 10, ksTol := ksTolOf s cell
      sentN := 2 ^ getFld s (rid .cellCheckCfg cell) 8 5, evals := o.evals, table := table, audited := o.audited
      reread := o.audited && staleLeaf s cell l, toRead := readPeriods }
    act fun s => updCell s cell fun c => { c with eval := some e }
    act fun s => if (getCell s cell).retired then replayEval s cell e else s
    carry w cell

/-- TILE_EVALUATE. -/
def execTileEvaluate (ring index : Nat) (s : State) : Host.Outcome State Fault Refusal :=
  whenLive s fun s => runOp s .tileEvaluate ring index tileEvaluate

/-! ## LEAF_READBACK, and the readback of R259 -/

/-- The readback that an audited TILE_EVALUATE waits for (R259, R261): into the image VA and the address space of the leaf
record. -/
def evalReread (read : Readback) (w : Work) (cell : Nat) (e : Eval) : Eng Unit := do
  let s ← get
  let l := getLeaf s cell e.leaf
  let who := { whoOf w with fn := l.imageSpace, space := l.imageSpace }
  let ok ← onError (rereadLeaf w who cell e.leaf l.imageVa e.ksTol read) (dropEval cell)
  act fun s => updEval s cell fun e => { e with reread := false }
  if ok then carry w cell
  else act fun s => callRollback s w.fn 5 false

/-- LEAF_READBACK: it starts, and once its readback periods are over (R200) it ends with what they measured; a wait leaves the leaf
READING. Named with the ring and index of a TILE_EVALUATE, it is the readback that one waits for (R259). -/
def execLeafReadback (ring index : Nat) (read : Readback) (s : State) : Host.Outcome State Fault Refusal :=
  whenLive s fun s =>
    match findWork s ring index with
    | some w =>
      if w.op = some .tileEvaluate then
        match (getCell s w.cell).eval with
        | some e =>
          if w.isAt e.ring e.index && e.reread && decide (e.toRead = 0) && engineRuns s w then
            runPiece s w (evalReread read w w.cell e)
          else s
        | none => s
      else runOp (runOp s .leafReadback ring index readbackStart) .leafReadback ring index (readbackEnd read)
    | none => s

/-! ## Array periods -/

/-- An evaluation period: one phase of the shot (R201, R203). -/
def evalPeriod (s : State) (cell : Nat) (mx : Bool) (codes : List Int) : State :=
  let s := updCell s cell fun c => { c with activeB := (c.eval.map fun e => e.leaf == .b).getD c.activeB }
  updEval s cell fun e =>
    let e := { e with driven := phaseDrive e mx (getLeaf s cell e.leaf).pw }
    let cs := (List.range 256).map fun j => adcCode (codes.getD j 0)
    let old := if e.shot = 0 then e.sumsHigh else e.sumsLow
    let new := (List.range 256).map fun j => old.getD j 0 + cs.getD j 0 * (2 ^ e.gain : Nat)
    let hot := (List.range 256).filter fun j => cs.getD j 0 == 127 || cs.getD j 0 == -128
    { e with sumsHigh := if e.shot = 0 || !mx then new else e.sumsHigh
             sumsLow := if e.shot = 0 || !mx then e.sumsLow else new
             saturated := e.saturated ++ hot.filter fun j => decide (j ∉ e.saturated)
             satShot := e.satShot ++ hot.filter fun j => decide (j ∉ e.satShot)
             phase := e.phase + 1 }

/-- After a phase: the shot may be over, the monitor looks at it, and the next shot or evaluation begins. -/
def afterPhase (w : Work) (cell : Nat) : Eng Unit := do
  let s ← get
  match (getCell s cell).eval with
  | none => pure ()
  | some e =>
    let mx := mxInput w.desc
    if e.phase < phaseCount e mx (getLeaf s cell e.leaf).pw e.shot then pure ()
    else
      act fun s => watchShot s cell mx e
      act fun s => updEval s cell fun e => { e with ready := false }
      let s ← get
      let q := startShot s cell mx (e.shot + 1)
      act fun _ => q.2
      if q.1 then pure ()
      else
        act fun s => finishEval s cell (evalOps w.desc).cap mx
        carry w cell

/-- Whether the first self-calibration of REXT is over, without which no array calibration runs (R238). -/
def scalSettled (s : State) : Bool := !(s.power.scalRunning && s.power.scalFirst)

/-- A sentinel's period (R258): one known-sum vector at the check gain. -/
def sentinelPeriod (w : Work) (cell : Nat) (e : Eval) (codes : List Int) : Eng Unit := do
  let s ← get
  let l := getLeaf s cell e.leaf
  let v := (getCell s cell).sentinels % 16
  let failed := (List.range (min 256 codes.length)).filter fun j =>
    ksFails e.ksTol (32 * adcCode (codes.getD j 0)) (ksSum l.image v j)
  act fun s => updCell s cell fun c => { c with sentinels := c.sentinels + 1, activeB := e.leaf == .b }
  act fun s => updEval s cell fun e => { e with ready := false, sentinelDue := false }
  if failed.isEmpty then
    act fun s => updLeaf s cell e.leaf fun x => { x with sincePass := 0 }
    carry w cell
  else
    act fun s => confirmFault s cell e.leaf 1 (classify failed)
    act fun s => callRollback s w.fn 5 false

/-- The leaf whose offsets a calibration period measures (R244): the two in turn, one that is PROGRAMMING or READING
passed over (DEDUCED, log entry 67). -/
def offsetLeaf (c : Cell) : Option Leaf :=
  let open_ (l : Leaf) : Bool := (c.leaf l).state != .programming && (c.leaf l).state != .reading
  let first := leafOf (c.offTurn / 2)
  let second := leafOf (c.offTurn / 2 + 1)
  if open_ first then some first else if open_ second then some second else none

/-- A calibration period (R239, R244): after 65,536 pairs on a leaf, each column's offset code moves by at most one step
against the mean of its readings; a step is a quarter of a converter code. -/
def calPeriod (c : Cell) (codes : List Int) : Cell :=
  match offsetLeaf c with
  | none => c
  | some l =>
    let base := 256 * leafBit l
    let n := Tab.get 0 c.offPeriods (leafBit l) + 1
    let sums := (List.range (min 256 codes.length)).foldl
      (fun (t : Tab Int) j => Tab.upd 0 t (base + j) (· + adcCode (codes.getD j 0))) c.offSums
    if n < 131072 then
      { c with offPeriods := Tab.set 0 c.offPeriods (leafBit l) n, offSums := sums, offTurn := c.offTurn + 1 }
    else
      let add := (List.range 256).foldl (fun (t : Tab Int) j =>
        let x := Tab.get 0 sums (base + j)
        if x.natAbs < 16384 then t else Tab.upd 0 t (65 + base + j) (· - x.sign)) c.codeAdd
      { c with offPeriods := Tab.set 0 c.offPeriods (leafBit l) 0, codeAdd := add, offTurn := c.offTurn + 1
               offSums := sums.filter fun p => !(decide (base ≤ p.1 ∧ p.1 < base + 256)) }

/-- Whether the LEAF_READBACK that reads a leaf may use a period. -/
def readsNow (s : State) (l : LeafRec) : Bool :=
  decide (0 < l.toRead) && (match l.owner.bind fun k => findWork s k.1 k.2 with
    | some w => engineRuns s w
    | none => false)

/-- A readback period, where readback rows remain (R200, R222): of the readback that an audited TILE_EVALUATE waits for, else of
leaf A, else of leaf B (DESIGN CHOICE, log entry 90). None where no rows remain. -/
def readPeriod (s : State) (cell : Nat) : Option State :=
  let c := getCell s cell
  let own := match c.eval with
    | some e => e.reread && decide (0 < e.toRead) && ((findWork s e.ring e.index).map (engineRuns s)).getD false
    | none => false
  let less (l : Leaf) : State := updLeaf s cell l fun x => { x with toRead := x.toRead - 1 }
  if c.retired then none
  else if own then some (updEval s cell fun e => { e with toRead := e.toRead - 1 })
  else if readsNow s c.leafA then some (less .a)
  else if readsNow s c.leafB then some (less .b)
  else none

/-- A period in which no shot is ready: a readback period, else a calibration period (R200, R244, R245). -/
def idlePeriod (s : State) (cell : Nat) (codes : List Int) : State :=
  match readPeriod s cell with
  | some t => t
  | none =>
    if (getCell s cell).retired || (getCell s cell).cal.isSome || !scalSettled s then s
    else updCell s cell fun c => calPeriod c codes

/-- ARRAY_PERIOD: an evaluation period where a shot or sentinel is ready, else a readback period while readback rows remain,
else a calibration period (R200); `codes` are the converter codes of the 256 columns. A step of a full calibration that holds
the evaluation takes the periods for itself (Table 6-3). -/
def execArrayPeriod (cell : Nat) (codes : List Int) (s : State) : Host.Outcome State Fault Refusal :=
  whenLive s fun s =>
    let c := getCell s cell
    if calHolds s c then s
    else match c.eval with
    | some e =>
      match findWork s e.ring e.index with
      | some w =>
        if e.ready && engineRuns s w then
          runPiece s w (do
            let go ← engineStart w 1
            if !go then pure ()
            else if e.sentinelDue then onError (sentinelPeriod w cell e codes) (dropEval cell)
            else
              act fun s => evalPeriod s cell (mxInput w.desc) codes
              onError (afterPhase w cell) (dropEval cell))
        else if e.ready then s
        else idlePeriod s cell codes
      | none => s
    | none => idlePeriod s cell codes

/-! ## Suspect columns, clones and fallback products -/

/-- SUSPECT_COLUMN_CHECK (R257, R260, R261): the known-sum check of the first suspect column, at an evaluation boundary of
the descriptor that evaluates. -/
def execSuspectColumnCheck (cell : Nat) (sums : List (List Int)) (s : State) : Host.Outcome State Fault Refusal :=
  whenLive s fun s =>
    let c := getCell s cell
    match c.eval, c.eval.bind fun e => (suspectsOf c e.leaf).head? with
    | some e, some j =>
      match findWork s e.ring e.index with
      | some w =>
        if e.ready || e.waitClone || e.reread || !engineRuns s w then s
        else
          let failed := ksFailed e.ksTol (c.leaf e.leaf).image sums
          runPiece s w (do
            act fun s => updCell s cell fun c => { c with
              suspects := c.suspects.erase j, violations := c.violations.filter fun v => v.1 != j }
            if j % 256 ∈ failed then
              act fun s => confirmFault s cell e.leaf 0 (classify failed)
              if e.audited then act fun s => callRollback s w.fn 5 false else carry w cell
            else
              if failed.isEmpty then act fun s => updLeaf s cell e.leaf fun x => { x with sincePass := 0 }
              carry w cell)
      | none => s
    | _, _ => s

/-- Whether a clone or a restored leaf passes the acceptance test of R267: RMS at most 0.25 level, no pair more than 1 level
away, the known-sum check passed. -/
def acceptable (k : CloneCheck) : Bool := decide (k.rmsSq ≤ 4096) && decide (k.maxDiff ≤ 1) && k.sumsPass

/-- CLONE_READY (R267): the evaluations left run on the clone, or in a DMU. -/
def execCloneReady (cell : Nat) (check : CloneCheck) (s : State) : Host.Outcome State Fault Refusal :=
  whenLive s fun s =>
    match (getCell s cell).eval with
    | some e =>
      match findWork s e.ring e.index with
      | some w =>
        if !e.waitClone then s
        else runPiece s w (do
          if acceptable check then
            act fun s => updEval s cell fun e => { e with waitClone := false, clone := true }
            act fun s => updBlock s (cell / 8) fun b => if b.clone = some cell then { b with cloneLeaf := .valid } else b
          else
            act fun s => updEval s cell Eval.toDmu
            act fun s => updWork s e.ring e.index fun w => { w.also 3 0x5E with mask := w.mask ||| 5 }
            act fun s => updBlock s (cell / 8) fun b => if b.clone = some cell then { b with clone := none, cloneLeaf := .empty } else b
          carry w cell)
      | none => s
    | none => s

/-- The DMU of a block that takes fallback work (R320): DMU0 unless only DMU1 is without issued work. -/
def fallbackDmu (b : Block) : Nat := if b.dmu0.isEmpty || !b.dmu1.isEmpty then 0 else 1

/-- The results of some evaluations as a DMU forms them (R301). -/
def fallbackResults (w : Work) (l : LeafRec) : List Nat → Eng (Tab (List Nat))
  | [] => pure []
  | n :: rest => do
    let i ← readInput (whoOf w) (vaOf (w.desc.W 0)) (fmtOf (w.desc.W 0)) l.rows n
    let bs ← vread (whoOf w) (vaOf (w.desc.W 0)) 64
    let h : Hdr := ⟨0, bs⟩
    let xs := i.vals.map fun v => (⟨v, storedFormat h == 0⟩ : Elem)
    let ys := (List.range l.cols).map fun j =>
      fallbackColumn xs ((List.range l.rows).map fun k =>
        let q : Int := if l.eight then 16 * levelAt l.image k (2 * j) + levelAt l.image k (2 * j + 1) else levelAt l.image k j
        (l.step j).mul (ofInt false q 0))
    let more ← fallbackResults w l rest
    pure ((n, ys) :: more)

/-- One fallback product of up to 128 evaluations (R320). -/
def fallbackProduct (w : Work) (cell : Nat) (e : Eval) : Eng Unit := do
  let s ← get
  let l := getLeaf s cell e.leaf
  let now := e.fallen.take 128
  let rs ← fallbackResults w l now
  let dmu := 2 * (cell / 8) + fallbackDmu (getBlock s (cell / 8))
  dmuErrors w dmu (tilesOf now.length l.cols 0)
  act fun s => updEval s cell fun e => { e with
    fallen := e.fallen.drop 128, results := rs.foldl (fun (t : Tab (List Nat)) r => Tab.ins t r.1 r.2) e.results }
  act fun s => addFld s (rid .dmuTileCnt dmu) 0 32 (tilesOf now.length l.cols 0)
  carry w cell

/-- Whether a fallback product is due (R320): 128 evaluations collected, or the last one run. -/
def Eval.fallbackDue (e : Eval) : Bool :=
  !e.fallen.isEmpty && (decide (128 ≤ e.fallen.length) || (decide (e.evals ≤ e.next) && !e.ready && !e.waitClone))

/-- FALLBACK_PRODUCT_START: the product of the lowest-numbered cell of the block that has one due (DESIGN CHOICE, log
entry 25). -/
def execFallbackProductStart (block : Nat) (s : State) : Host.Outcome State Fault Refusal :=
  whenLive s fun s =>
    let due (cell : Nat) : Bool := ((getCell s cell).eval.map Eval.fallbackDue).getD false
    match ((List.range 8).map (8 * block + ·)).find? due with
    | none => s
    | some cell =>
      match (getCell s cell).eval with
      | none => s
      | some e =>
        match findWork s e.ring e.index with
        | some w => if engineRuns s w then runPiece s w (onError (fallbackProduct w cell e) (dropEval cell)) else s
        | none => s

end Sys2Proof.Machine
end

