-- ==== Sys2Proof/Machine/Calibrate.lean ====
section
/-! DEFINITION. Calibration of a cell: correction codes and their interpolation (R240–R242), background calibration (R243),
and full calibration (R246–R251). -/

namespace Sys2Proof.Machine

/-- Junction temperatures of the four correction sets, in 1/16 °C. -/
def setTemps : List Int := [480, 880, 1280, 1680]

/-- The factory temperature slope of a correction (R240). -/
def slopeOf (s : State) (cell i : Nat) : Int :=
  Tab.get 0 s.nv.slopes (67 * pcellOf s cell + (if i < 65 then i else 65 + (i - 65) / 256))

/-- A measured code carried to the temperature of a set, rounded to the nearest code (R240). -/
def filled (slope measured temp t : Int) : Int := measured + (slope * (t - temp) + 32768) / 65536

/-- A correction's code in one set (R240, R241). Codes 0–64 are converter gains, 65 + 256 × leaf + column are offsets. -/
def setCode (s : State) (cell i : Nat) (t : Int) : Int :=
  let c := getCell s cell
  filled (slopeOf s cell i) (c.calCodes.getD i 0) c.calTemp t + Tab.get 0 c.codeAdd i

/-- Whether a code lies in its range: 256 gain codes, 128 offset codes. -/
def codeOk (i : Nat) (x : Int) : Bool := decide (0 ≤ x ∧ x < if i < 65 then 256 else 128)

/-- The corrections that a full calibration at a temperature leaves out of range in some set (R240). -/
def badCodes (s : State) (cell : Nat) (codes : List Int) (temp : Int) : List Nat :=
  (List.range 577).filter fun i => setTemps.any fun t => !codeOk i (filled (slopeOf s cell i) (codes.getD i 0) temp t)

/-- The code interpolated from the four sets at a temperature (R242). -/
def interpCode (c : List Int) (t16 : Int) : Int :=
  if t16 ≤ 480 then c.getD 0 0
  else if 1680 ≤ t16 then c.getD 3 0
  else
    let k := ((t16 - 480) / 400).toNat
    let f := (t16 - 480) - 400 * (k : Int)
    (c.getD k 0 * (400 - f) + c.getD (k + 1) 0 * f + 200) / 400

/-- The code in use for a correction. -/
def codeInUse (s : State) (cell i : Nat) : Int := interpCode (setTemps.map (setCode s cell i)) (getCell s cell).useTemp

/-- Whether a cell stands between two shots or phases of one evaluation. -/
def midEvaluation (c : Cell) : Bool :=
  match c.eval with
  | some e => e.ready && !e.sentinelDue && decide (e.shot ≠ 0 ∨ e.phase ≠ 0)
  | none => false

/-- A junction temperature taken up by a cell: at once, or at the end of the evaluation in progress. -/
def takeTemp (t16 : Int) (s : State) (cell : Nat) : State :=
  updCell s cell fun c => if midEvaluation c then { c with nextTemp := some t16 } else { c with useTemp := t16, nextTemp := none }

/-- JUNCTION_SAMPLE (R242). -/
def execJunctionSample (block : Nat) (t16 : Int) (s : State) : Host.Outcome State Fault Refusal :=
  whenLive s fun s => ((List.range 8).map (8 * block + ·)).foldl (takeTemp t16) s

/-- The converter whose columns must be on the spare for the one in turn to be measured: itself, or none for the spare (R243). -/
def Cell.toMove (c : Cell) : Option Nat := if c.calConv < 64 then some c.calConv else none

/-- The columns of the converter in turn moved to the spare, and those of the one before it back: at once, or at the evaluation
boundary to come (R243). -/
def Cell.moveColumns (c : Cell) : Cell :=
  if midEvaluation c then { c with moveDue := true } else { c with onSpare := c.toMove, moveDue := false }

/-- CONVERTER_CALIBRATION_SLOT (R241, R243, R245): once the columns of the converter in turn are on the spare, the converter is
measured against the hub reference and the difference is added in all four sets; then its columns go back and the next
converter's turn comes. Nothing is measured before the self-calibration of REXT (R238). -/
def execConverterCalibrationSlot (cell : Nat) (measured : Int) (s : State) : Host.Outcome State Fault Refusal :=
  whenLive s fun s =>
    let c := getCell s cell
    if c.retired || c.cal.isSome || c.spareConv.isSome || !scalSettled s then s
    else
      let s := updCell s cell fun c => if c.onSpare = c.toMove then c else c.moveColumns
      if (getCell s cell).onSpare ≠ (getCell s cell).toMove then s
      else updCell s cell fun c => { c with
        codeAdd := Tab.upd 0 c.codeAdd c.calConv (· + (measured - codeInUse s cell c.calConv))
        calConv := (c.calConv + 1) % 65 }.moveColumns

/-- Whether a maintenance token is held for an activity and a target (Table 13-17). -/
def tokenHeld (s : State) (activity target : Nat) : Bool :=
  (List.range 8).any fun n =>
    let r := getReg s (rid .fltMaintSlot n)
    flag r 0 && decide (field r 1 3 = activity ∧ field r 16 16 = target)

/-- Whether a full calibration start is refused (R247, Table 6-9). -/
def calRefused (s : State) (cell : Nat) : Bool :=
  let c := getCell s cell
  !tokenHeld s 2 cell || c.retired || c.cal.isSome || c.leafA.state == .programming || c.leafB.state == .programming
    || getBit s (rid .tadcScal) 2

/-- FULL_CALIBRATION_START: a write of START to CELL_CAL_CMD (R246, R247). -/
def execFullCalibrationStart (fn cell : Nat) (s : State) : Host.Outcome State Fault Refusal :=
  whenReg s fn (rid .cellCalCmd cell) fun s =>
    if calRefused s cell then
      let s := setBit s (rid .cellCalCmd cell) 1 true
      let s := if (getCell s cell).cal.isSome then s else setBit s (rid .cellCalCmd cell) 0 false
      emitFn s 0 0x0210 9 cell (leBytes 2 cell ++ [0#8, 0#8])
    else
      let s := setFld s (rid .cellCalCmd cell) 0 2 1
      let s := setBit s (rid .cellCalStat cell) 1 true
      updCell s cell fun c => { c with cal := some s.time }

/-- The spares that step 2 of Table 6-3 found unusable, as a mask: bits 0–15 rows and 16–19 pairs of leaf A, bits 20–35 and
36–39 of leaf B. A free spare so marked is taken out of use and journalled as kind 5. -/
def badSpare (pcell mask : Nat) (r : Round) (n : Nat) : Round :=
  let l := leafOf (n / 20)
  let k := n % 20
  let free := if k < 16 then decide ((l, k) ∉ r.cell.usedRows) else decide ((l, k - 16) ∉ r.cell.usedPairs)
  if flag mask n && free then
    { r with
      cell := if k < 16 then { r.cell with usedRows := (l, k) :: r.cell.usedRows }
              else { r.cell with usedPairs := (l, k - 16) :: r.cell.usedPairs }
      made := r.made ++ [{ pcell := pcell, kind := 5, leaf := leafBit l, logical := 0, spare := k, depth := 0 }] }
  else r

/-- The repairs that a full calibration calls for (Table 6-5), given the corrections out of range. A converter replaced for good
has none; the spare converter, out of range, is out of use (DEDUCED, log entry 67). -/
def calRound (c : Cell) (pcell mask : Nat) (bad : List Nat) : Round :=
  let r := (List.range 40).foldl (badSpare pcell mask) { cell := c }
  let cols (l : Leaf) : List Nat := (List.range 256).filter fun j => decide (65 + 256 * leafBit l + j ∈ bad)
  let convs := (List.range 64).filter fun k => decide (k ∈ bad) && c.spareConv != some k
  if (classify (cols .a)).wide || (classify (cols .b)).wide then { r with stop := some (2, 0) }
  else
    let r := (cols .a).foldl (Round.col pcell .a) r
    let r := (cols .b).foldl (Round.col pcell .b) r
    let r := if 64 ∈ bad ∧ r.cell.spareConv = none then { r with cell := { r.cell with spareConv := some 64 } } else r
    convs.foldl (Round.conv pcell) r

/-- The end of a full calibration (R240, R249): repairs or retirement, the new codes, PASS and FULL_AGE. The codes come into use
at an evaluation boundary (R242). -/
def endCalibration (s : State) (cell : Nat) (res : CalResult) : State :=
  let temp := (getCell s cell).useTemp
  let r := calRound (getCell s cell) (pcellOf s cell) res.badSpares (badCodes s cell res.codes temp)
  let s := match r.stop with
    | some (_, n) => retireCell s cell 3 n
    | none => syncRepair (recordRepairs (updCell s cell fun _ => r.cell) cell r.made) cell
  let s := updCell s cell fun c =>
    let c := { c with cal := none, lastCal := some s.time, dueSaid := false, offPeriods := [], offSums := [] }
    if midEvaluation c then { c with nextCodes := some (res.codes, temp) }
    else { c with calCodes := res.codes, calTemp := temp, codeAdd := [] }
  let pass := !(getCell s cell).retired && s.power.scalAtStart
  let s := setBit s (rid .cellCalStat cell) 0 pass
  let s := setBit s (rid .cellCalStat cell) 1 false
  let s := setBit s (rid .cellCalCmd cell) 0 false
  let s := if pass then s else emitFn s 0 0x0210 9 cell (leBytes 2 cell ++ [1#8, 5#8])
  emitFn s 0 0x0212 9 cell (leBytes 2 cell ++ leBytes 1 (bit pass))

/-- Whether a full calibration of a cell has come to the end of its five steps (Table 6-3). -/
def calOver (s : State) (cell : Nat) : Bool :=
  match (getCell s cell).cal with
  | some t => calStep (s.time - t) == 6
  | none => false

/-- FULL_CALIBRATION_END (R249). -/
def execFullCalibrationEnd (cell : Nat) (result : CalResult) (s : State) : Host.Outcome State Fault Refusal :=
  whenLive s fun s => if calOver s cell then endCalibration s cell result else s

/-- Hours of device time since the last full calibration, saturating; 0xFFFF until the first (Table 6-8). -/
def fullAge (s : State) (cell : Nat) : Nat :=
  match (getCell s cell).lastCal with
  | some t => min ((s.time - t) / (3600 * cyclesPerSecond)) 0xFFFF
  | none => 0xFFFF

/-- CALIBRATION_DUE: FULL_AGE reaches 744 hours, and one event says so (R251). -/
def execCalibrationDue (cell : Nat) (s : State) : Host.Outcome State Fault Refusal :=
  whenLive s fun s =>
    let c := getCell s cell
    if c.lastCal.isNone || c.dueSaid || decide (fullAge s cell < 744) then s
    else
      let s := updCell s cell fun c => { c with dueSaid := true }
      emitFn s 0 0x0211 9 cell (leBytes 2 cell ++ leBytes 2 744)

end Sys2Proof.Machine
end

