-- ==== Sys2Proof/Machine/Sched.lean ====
section
/-! DEFINITION. The device scheduler: which ring may dispatch (R85–R88, R177, R314, R524), the checks of a dispatched
descriptor (R104–R107, R130, R430), its placement (R310–R313), and its way to its engine (R113, R314, R478, R492). -/

namespace Sys2Proof.Machine

/-! ## Availability of what a descriptor needs (R66, R313, R490, R561) -/

/-- The status a region gives a descriptor placed on it; 0 for none. -/
def regionGate (s : State) (r : Nat) : Nat :=
  let e := getEntry s 7 r
  if e.retired || e.isolated then stRegion else if !e.present then stGated else 0

/-- The status a block gives. -/
def blockGate (s : State) (b : Nat) : Nat :=
  let e := getEntry s 8 b
  max (regionGate s (b / 8)) (if e.retired then stRegion else if !e.present || !blockEnabled s b then stGated else 0)

/-- The status a cell gives (R66). -/
def cellGate (s : State) (c : Nat) : Nat :=
  let e := getEntry s 9 c
  max (blockGate s (c / 8)) (if e.retired then stRetired else if !e.present then stGated else 0)

/-- The status of a hub opcode that needs device memory (Table 15-5): GATED while no stack is PRESENT. -/
def memoryGate (s : State) : Nat := if (List.range 16).any fun k => present s 13 k then 0 else stGated

/-- The blocks a level-0 VECTOR_PROGRAM may go to (R311). -/
def blockOpen (s : State) (b : Nat) : Bool :=
  present s 8 b && !(getEntry s 8 b).isolated && !(getEntry s 7 (b / 8)).isolated && blockEnabled s b

/-- The block with the fewest occupied entries among those open, ties by the pointer (R311). -/
def vectorBlock (s : State) : Option Nat :=
  let least := ((List.range 128).filter (blockOpen s)).foldl (fun m b => min m (boardCount s b)) 257
  grantFrom (fun b => blockOpen s b && boardCount s b == least) 128 s.vecPlacePtr

/-- The stack that holds a VA of a function's space, where it translates to device memory. -/
def stackAt (s : State) (fn va : Nat) : Option Nat :=
  match lookup s 16 fn va with
  | .ok t => if t.host then none else some (mapPa s (t.addr va)).1
  | _ => none

/-- Whether a VA lies in the enabled caravan window of a function (R431). -/
def inCaravan (s : State) (fn va : Nat) : Bool :=
  let r := getReg s (rid .fabCarWin fn)
  flag r 0 && decide (va / 2 ^ 38 = field r 6 14)

/-- The region of a level-0 memory move (R312, R432); region 0 where the address gives none (DESIGN CHOICE, log entry
19). -/
def moveRegion (s : State) (fn : Nat) (o : Op) (d : Desc) : Nat :=
  let va := if o = .memAtomic then vaOf (d.W 0) else if inCaravan s fn (vaOf (d.W 1)) then vaOf (d.W 0) else vaOf (d.W 1)
  (stackAt s fn va).getD 0

/-- Where a descriptor is placed (Table 8-1), and the status that its place gives; none for the place where no block is
open. -/
def placeOf (s : State) (fn : Nat) (o : Op) (d : Desc) : Place × Nat :=
  match o with
  | .nop | .ctrWrite | .eventMark => (.hub, 0)
  | .ringKick | .collectiveStep | .snapshot | .snapshotRestore => (.hub, memoryGate s)
  | .leafProgram | .leafReadback | .tileEvaluate => (.block (d.target / 8), cellGate s d.target)
  | .dmuProduct =>
    (.block d.target, max (blockGate s d.target) (if present s 10 (2 * d.target + field d.aux 0 1) then 0 else stGated))
  | .dmuPair =>
    (.block d.target, max (blockGate s d.target)
      (if present s 10 (2 * d.target) && present s 10 (2 * d.target + 1) then 0 else stGated))
  | .vectorProgram =>
    if d.level = 2 then (.block d.target, max (blockGate s d.target) (if present s 11 d.target then 0 else stGated))
    else match vectorBlock s with
      | some b => (.block b, 0)
      | none => (.hub, stGated)
  | .memCopy | .memAtomic =>
    let r := if d.level = 1 then d.target else moveRegion s fn o d
    (.region r, max (regionGate s r) (memoryGate s))
  | .updateStep => (.region d.target, regionGate s d.target)

/-- The status that the place of a descriptor would give it, where it names one of this device (R66). -/
def refusedGate (s : State) (fn : Nat) (d : Desc) : Nat :=
  match opOf d.opcode with
  | none => 0
  | some o =>
    if d.node ≠ nodeId s ∨ d.level ∉ opLevels o ∨ levelCount d.level ≤ d.target then 0
    else (placeOf s fn o d).2

/-- The detail code of a gate: 0, but that of a retired cell (R107). -/
def gateCode (g : Nat) : Nat := if g = stRetired then 0x58 else 0

/-- A descriptor refused or aborted before it runs, whose place is also gated or retired, reports the higher code (R8, R66;
DEDUCED, log entry 65). -/
def failGated (s : State) (w : Work) (status dcode : Nat) : Work :=
  let g := refusedGate s w.fn w.desc
  (w.fail status dcode).fail g (gateCode g)

/-! ## Leaving dispatch -/

/-- Bytes of the step log in use (R492). -/
def logUsed (f : FnState) : Nat := f.log.foldl (fun n e => n + e.raw.length) 0

/-- A descriptor appended to its function's step log before it runs; false where the log is full (R492, R499), none where the
write is held (R344, R372). The spec does not say where its 64 or 128 bytes hold the ring: the log in memory takes the descriptor as it stands
(DEDUCED, log entry 15). -/
def appendLog (s : State) (w : Work) : Option Bool × State :=
  let f := getFn s w.fn
  if !f.recOpen || w.replay || w.op == some .snapshot || w.op == some .snapshotRestore then (some true, s)
  else if logBytes s w.fn < logUsed f + w.desc.raw.length then (some false, s)
  else
    let e : LogEntry := { ring := w.ring, index := w.index, raw := w.desc.raw, ok := false, openBucket := false }
    match (areaWrite w.fn (logBase s w.fn + logUsed f) w.desc.raw).on s with
    | (.ok _, s) => (some true, updFn s w.fn fun f => { f with log := f.log ++ [e] })
    | _ => (none, s)

/-- What a SNAPSHOT samples at its dispatch (R503). -/
def snapImage (s : State) (fn : Nat) : SnapImage :=
  { mem := settledMem s, counters := ownCounters s fn, step := stepOf s fn,
    limit := getFld s (rid .numZsCtl fn) 0 13, streak := getFld s (rid .numZsCtl fn) 16 13 }

/-- Whether FORCE_REF applies to a product (R309). -/
def forcedRef (s : State) (w : Work) : Bool :=
  let one (i : Nat) : Bool := getBit s (rid .dmuCfg (2 * w.desc.target + i)) 0
  match w.op with
  | some .dmuProduct => one (field w.desc.aux 0 1)
  | some .dmuPair => one 0 || one 1
  | _ => false

/-- The packet of a remote descriptor: its bytes, the tag of an untagged atomic, and the issuing ring (R105, R121,
R482). The places of the last two are the model's choice (DESIGN CHOICE, log entry 20). -/
def remotePacket (s : State) (w : Work) (txn gen : Nat) : Packet :=
  { ownPacket s w.desc.node 0x20 (w.desc.raw ++ leBytes 4 (txn + gen * 2 ^ 20) ++ leBytes 4 w.ring) with txn := txn, gen := gen }

/-- A remote descriptor sent with its fabric record (R105, R430, R478); it stays held while no record is free. -/
def sendRemote (s : State) (w : Work) : State :=
  if (routePort s w.desc.node).isNone then putWork s (w.fail stPeer 0xA0)
  else
    match takeRec s 4 with
    | (none, s) => s
    | (some n, s) =>
      match takeRec s 4 with
      | (none, t) => freeRec t n
      | (some txn, s) =>
        let p := remotePacket s w txn (Tab.get 0 s.recGen txn)
        let s := (dispatchPacket s p).getD s
        let r : FabRec := { txn := txn, gen := p.gen, packet := p, sends := 1, waiting := false, failures := 0,
                            heldBy := false, ring := w.ring, index := w.index, resent := false, sentAt := s.time }
        putWork { s with fabRecs := s.fabRecs ++ [r] } { w with phase := .remote, record := n }

/-- Whether SNAPSHOT_RESTORE must still wait for another descriptor of its function (R505). -/
def restoreWaits (s : State) (w : Work) : Bool :=
  w.op == some .snapshotRestore && s.work.any fun v => v.fn == w.fn && !v.isAt w.ring w.index

/-- A descriptor whose tokens are met leaves dispatch for its place: it is gated (R66, R313), held for a full dispatch
queue (R314) or a record (R479), logged (R492), or given to its block, its region or the hub. The dispatch order of R128 and
R316 is the order of leaving dispatch, once the tokens are met (DESIGN CHOICE, log entry 75). -/
def launch (s : State) (w : Work) : State :=
  match w.op with
  | none => s
  | some o =>
    if w.desc.node ≠ nodeId s ∧ o ≠ .snapshot ∧ o ≠ .snapshotRestore then sendRemote s w
    else
      let p := placeOf s w.fn o w.desc
      let full := match p.1 with
        | .block b => decide (512 ≤ queueCount s b)
        | .region r => o == .updateStep && decide (64 ≤ updQueued s r)
        | .hub => false
      if p.2 ≠ 0 then putWork s (w.fail p.2 (gateCode p.2))
      else if full || restoreWaits s w then s
      else
        match takeRec s p.1.regionOf with
        | (none, s) => s
        | (some n, u) =>
          match appendLog u w with
          | (none, _) => s
          | (some false, s) => putWork (freeRec s n) (w.fail stPool 0xC1)
          | (some true, s) =>
            let w := { w with
              place := p.1
              record := n
              order := s.nextOrder
              t := stepOf s w.fn
              refMode := forcedRef s w
              image := if o = .snapshot then some (snapImage s w.fn) else none
              phase := match p.1 with | .block _ => .queued | _ => .running }
            let s := putWork { s with nextOrder := s.nextOrder + 1 } w
            match p.1 with
            | .block b =>
              let s := if w.desc.level = 0 then { s with vecPlacePtr := (b + 1) % 128 } else s
              fillBoard s b
            | _ => s

/-- Whether a descriptor's dependency tokens are all met (R113). -/
def tokensMet (s : State) (d : Desc) : Bool := d.tokens.all (tokenMet s)

/-- A dispatched descriptor's tokens looked at: a FAILED counter aborts it (R115), unmet tokens hold it (R113). -/
def tryLaunch (s : State) (w : Work) : State :=
  if w.desc.tokens.any (tokenFailed s) then putWork s (failGated s w stAborted 0x0E)
  else if tokensMet s w.desc then launch s w
  else s

/-! ## Checks at dispatch -/

/-- The refusal of a descriptor before it runs, with its detail code: R107, then the node (R430), then a remote opcode
(R105), then R130 (DEDUCED, log entry 65). -/
def refusalOf (s : State) (fn : Nat) (d : Desc) (extGood : Bool) : Option Nat :=
  match headerRefusal s fn d extGood with
  | some c => some c
  | none =>
    match opOf d.opcode with
    | none => some 0x01
    | some o =>
      let remote := decide (d.node ≠ nodeId s)
      if d.node = 0xFFFF ∨ (remote ∧ nodeId s = 0xFFFF) then some 0xA1
      else if remote ∧ o ∉ [.ringKick, .eventMark, .memCopy, .memAtomic, .snapshot, .snapshotRestore] then some 0x09
      else if formatRefused o d then some 0x40
      else none

/-- A descriptor taken from its ring: checked (R107), then held for its tokens or sent on (R113). -/
def startDesc (s : State) (w : Work) (extGood : Bool) : State :=
  match refusalOf s w.fn w.desc extGood with
  | some c => { s with work := s.work ++ [failGated s w stBad c] }
  | none =>
    let s := { s with work := s.work ++ [w] }
    let s := if w.op = some .snapshotRestore then updFn s w.fn fun f => { f with restoring := true } else s
    tryLaunch s w

/-! ## The ring's next descriptor -/

/-- Whether a slot asks for an extension (R106). -/
def slotExt (f : Fetched) : Bool := flag (leAt f.bytes 1 1) 3

/-- Whether a slot has FENCE set. -/
def slotFence (f : Fetched) : Bool := flag (leAt f.bytes 1 1) 2

/-- The ring's next descriptor and the fetched slots behind it. A ring that fetches no more dispatches a descriptor whose
extension is missing as it is (R106, R107). -/
def nextDesc (r : Ring) : Option (Fetched × Option Fetched × List Fetched) :=
  match r.fetched with
  | [] => none
  | f :: rest =>
    if slotExt f then
      match rest with
      | e :: more => some (f, some e, more)
      | [] => if r.state = .draining then some (f, none, []) else none
    else some (f, none, rest)

/-- Records that a completion ring still owes: those waiting and those of every descriptor in flight that names it (R88). -/
def owedTo (s : State) (cring : Nat) : Nat :=
  (getRing s cring).owed.length + (s.work.filter fun w => (getRing s w.ring).ctx.cmplRing == cring).length

/-- Whether a completion ring can take one record more (R88). -/
def cplRoom (s : State) (cring : Nat) : Bool :=
  let c := getRing s cring
  c.state == .active && decide (owedTo s cring < c.room)

/-- Whether it is want of room, and nothing else, that keeps a completion ring from taking a record more (R627). -/
def cplFull (s : State) (cring : Nat) : Bool :=
  let c := getRing s cring
  c.state == .active && !decide (owedTo s cring < c.room)

/-- Whether a function's dispatch is held: by the zero-streak watchdog (R169), a rollback or a log that waits (R495, R497), a
restore (R505), or the boundary of an oasis failure (R177). -/
def fnHeld (s : State) (fn : Nat) : Bool :=
  getBit s (rid .numZsStat fn) 1 || decide (0 < getFld s (rid .fltStepCtl fn) 1 2)
    || (getFn s fn).restoring || atBoundary s fn

/-- Whether all dispatch is held: by an issue hold (R524), fail-stop (R506) or an activation (R594). -/
def allHeld (s : State) : Bool := issueHold s || s.failStop || s.sec.activating

/-- Whether the block or the update unit that a descriptor targets has a full queue (R314, R393). -/
def targetFull (s : State) (f : Fetched) : Bool :=
  let level := leAt f.bytes 6 1
  let target := leAt f.bytes 8 2
  if level = 1 then decide (64 ≤ updQueued s target)
  else if level = 2 then decide (512 ≤ queueCount s target)
  else if level = 3 then decide (512 ≤ queueCount s (target / 8)) else false

/-- Whether a ring could dispatch but for the room of its completion ring (R88, R627). -/
def readyBut (s : State) (ring : Nat) : Bool :=
  let r := getRing s ring
  (r.state == .active || r.state == .draining) && r.ctx.type == .submission
    && decide (inFlight s ring < 256) && !fnHeld s r.fn && !allHeld s
    && (match nextDesc r with
        | some (f, _, _) => !targetFull s f && (!slotFence f || inFlight s ring == 0)
        | none => false)

/-- Whether a ring can dispatch (R88). -/
def canDispatch (s : State) (ring : Nat) : Bool := readyBut s ring && cplRoom s (getRing s ring).ctx.cmplRing

/-- A ring halted, with its event (R90, R104, R632): an ACTIVE or a DRAINING one. -/
def haltRing (s : State) (ring cause seq : Nat) : State :=
  let r := getRing s ring
  let s := if r.state = .active ∨ r.state = .draining then updRing s ring fun r => { r with state := .halted } else s
  emitRing s ring 0x0011 4 ring
    (leBytes 1 cause ++ leBytes 1 0 ++ leBytes 2 seq ++ leBytes 4 r.head ++ leBytes 4 r.tail)

/-- The next descriptor of a ring dispatched (R104, R106). -/
def dispatchFrom (s : State) (ring : Nat) : State :=
  let r := getRing s ring
  match nextDesc r with
  | none => s
  | some (f, e, rest) =>
    let d := descOf f.bytes (e.map (·.bytes))
    let s := updRing s ring fun r => { r with fetched := rest }
    let w : Work := { ring := ring, index := f.index, fn := r.fn, desc := d, phase := .held }
    if r.ctx.seqchk && decide (d.seq ≠ f.index % 65536) then
      haltRing { s with work := s.work ++ [failGated s w stBad 0x08] } ring 1 d.seq
    else
      let extGood := match e with
        | some x => extOk x.bytes && (!r.ctx.seqchk || decide (leAt x.bytes 2 2 = x.index % 65536))
        | none => false
      startDesc s w extGood

/-! ## The ring-group arbiter (R86, R87) -/

/-- The submission rings of a group that can dispatch. -/
def groupReady (s : State) (g : Nat) : List Nat :=
  (s.rings.map (·.1)).filter fun n => (getRing s n).ctx.group == g && canDispatch s n

/-- The ring of a group that dispatches: the lowest at or after its ring pointer, wrapping (R87). -/
def groupRing (s : State) (g : Nat) : Option Nat :=
  let ready := groupReady s g
  let p := Tab.get 0 s.ringPtrs g
  match ready.filter (fun n => decide (p ≤ n)) with
  | n :: _ => some n
  | [] => ready.head?

/-- A group's WEIGHT. -/
def groupWeight (s : State) (g : Nat) : Nat := getFld s (rid .hubRgrpCfg g) 0 8

/-- The credit a group has left in the round (R86). -/
def groupCredit (s : State) (g : Nat) : Nat := Tab.get 0 s.credits g

/-- The credits at the start of a round: each group's equals its WEIGHT (R86). -/
def roundCredits (s : State) : Tab Nat :=
  ((List.range 64).map fun g => (g, groupWeight s g)).filter fun p => p.2 != 0

/-- The group granted, and whether a new round starts: a group requests when it has credit left and a ring that can
dispatch (R86, R31). -/
def grantGroup (s : State) : Option (Nat × Bool) :=
  let ready (g : Nat) : Bool := !(groupReady s g).isEmpty
  match grantFrom (fun g => decide (0 < groupCredit s g) && ready g) 64 s.groupPtr with
  | some g => some (g, false)
  | none => (grantFrom (fun g => decide (0 < groupWeight s g) && ready g) 64 s.groupPtr).map fun g => (g, true)

/-- A new round starts while no group with credit requests (R86). -/
def settleRound (s : State) : State :=
  if (List.range 64).any fun g => decide (0 < groupCredit s g) && !(groupReady s g).isEmpty then s
  else { s with credits := roundCredits s }

/-- A grant of the ring-group arbiter to a ring of a group: the credit, the pointers, and the descriptor. -/
def grantRing (s : State) (g ring : Nat) (fresh : Bool) : State :=
  let s := if fresh then { s with credits := roundCredits s } else s
  let s := { s with credits := Tab.upd 0 s.credits g (· - 1), groupPtr := (g + 1) % 64,
                    ringPtrs := Tab.set 0 s.ringPtrs g ((ring + 1) % 65536) }
  dispatchFrom s ring

end Sys2Proof.Machine
end

