-- ==== Sys2Proof/Machine/Rings.lean ====
section
/-! DEFINITION. Ring set-up and indices: the writes of the range and group registers (R81, R85), the ring commands (R82–R84,
R99, R633), doorbells and reads of indices (R89–R98, R632), stalls (R627) and the moderation and rate timers (R123, R125). -/

namespace Sys2Proof.Machine

/-! ## Refused register writes -/

/-- The ring-configuration event of a refused register write. The spec numbers no register offsets, so that field is a
free value (DESIGN CHOICE, log entry 3). -/
def refusedWrite (s : State) (fn cause which value : Nat) : State :=
  let d := draw s
  emitFn d.2 fn 0x0012 4 0
    (leBytes 1 cause ++ leBytes 1 0 ++ leBytes 2 which ++ leBytes 4 (Config.freeNat d.1) ++ leBytes 4 value)

/-! ## Register pairs (R46) -/

/-- A write to the low half of a pair, held until the high half is written. -/
def holdLow (s : State) (r : RegId) (v : Nat) : State := { s with heldLow := Tab.set 0 s.heldLow (regKey r) (v + 1) }

/-- The value that the low half of a pair takes when its high half is written: the one held, or else the one it has. -/
def lowOf (s : State) (r : RegId) : Nat :=
  match Tab.get 0 s.heldLow (regKey r) with
  | 0 => getReg s r
  | v + 1 => v

/-- No write to the low half is held any more. -/
def dropLow (s : State) (r : RegId) : State := { s with heldLow := Tab.set 0 s.heldLow (regKey r) 0 }

/-- A register's fields written by their access codes. -/
def writeReg (s : State) (r : RegId) (v : Nat) : State := setReg s r (writeFields (regFields r) v (getReg s r))

/-- A register written, or half of a pair: a low half is held, and a high half brings both into effect. -/
def writePair (s : State) (r : RegId) (v : Nat) : State :=
  if (highHalf r).isSome then holdLow s r v
  else match lowHalf r with
    | some l => dropLow (writeReg (writeReg s l (lowOf s l)) r v) l
    | none => writeReg s r v

/-- The range of rings in a value of HUB_VF_RING_v: first ring and size. -/
def vfRange (value : Nat) : Nat × Nat := (field value 0 8 * 256, field value 8 5 * 256)

/-- Whether two ranges share a ring. -/
def rangesMeet (a b : Nat × Nat) : Bool := decide (a.1 < b.1 + b.2 ∧ b.1 < a.1 + a.2 ∧ 0 < a.2 ∧ 0 < b.2)

/-- HUB_VF_RING_v written (R81). -/
def execVfRingRangeWrite (v : Nat) (value : W32) (s : State) : Host.Outcome State Fault Refusal :=
  whenReg s 0 (rid .hubVfRing v) fun s =>
    if v = 0 ∨ 16 < v then s
    else
      let x := value.toNat
      let r := vfRange x
      let others := ((List.range 16).map (· + 1)).filter (· ≠ v)
      if 0 < s.numVfs ∨ 16 < field x 8 5 ∨ 65536 < r.1 + r.2
          ∨ (others.any fun u => rangesMeet r (vfRange (getReg s (rid .hubVfRing u)))) = true then
        refusedWrite s 0 1 v x
      else setReg s (rid .hubVfRing v) (x % 2 ^ 13)

/-- HUB_RGRP_CFG_g written (R85). -/
def execRingGroupConfigWrite (fn group : Nat) (value : W32) (s : State) : Host.Outcome State Fault Refusal :=
  whenReg s 0 (rid .hubRgrpCfg group) fun s =>
      let x := value.toNat
      let busy := s.rings.any fun r => r.2.ctx.group == group && r.2.ctx.type == .submission
        && (r.2.state == .active || r.2.state == .draining)
      if fn ≠ 0 ∨ (field x 8 5 ≠ getFld s (rid .hubRgrpCfg group) 8 5 ∧ busy = true) then refusedWrite s fn 2 group x
      else settleRound (setReg s (rid .hubRgrpCfg group) (x % 2 ^ 13))

/-! ## LOAD -/

/-- The ring type a code names (Table 3-3). -/
def ringTypeOf (n : Nat) : RingType := if n = 0 then .submission else if n = 1 then .completion else .event

/-- A context read from its 64 bytes (Table 3-3). -/
def ctxOf (b : List Byte) : RingCtx :=
  let fl := leAt b 26 1
  { base := leAt b 0 8, hostIdxAddr := leAt b 8 8, devIdxAddr := leAt b 16 8, log2Size := leAt b 24 1,
    type := ringTypeOf (leAt b 25 1), polled := flag fl 0, devmem := flag fl 1, peer := flag fl 2, seqchk := flag fl 3,
    group := leAt b 27 1, pollUs := leAt b 28 2, cmplRing := leAt b 30 2, evtRing := leAt b 32 2, vector := leAt b 34 2,
    modCount := leAt b 36 2, modUs := leAt b 38 2, rate := leAt b 40 2, initIdx := leAt b 42 4,
    defaultMark := decide (leAt b 25 1 = 2) && flag (leAt b 42 4) 31 }

/-- Bytes of one entry of a ring. -/
def entryBytes : RingType → Nat
  | .submission => 64
  | .completion => 16
  | .event => 32

/-- Whether a ring is an ACTIVE ring of a type that a function owns (R84). -/
def namedOk (s : State) (fn ring : Nat) (t : RingType) : Bool :=
  let r := getRing s ring
  decide (ownerOf s ring = fn) && r.state == .active && r.ctx.type == t

/-- The fields of a context with whether each is refused (R83, R84, R124), by offset. -/
def ctxChecks (s : State) (fn ring : Nat) (b : List Byte) : List (Nat × Bool) :=
  let c := ctxOf b
  let sub := c.type == .submission
  let evt := c.type == .event
  let bytes := min (2 ^ (min c.log2Size 16) * entryBytes c.type) 4096
  let table := if fn = 0 then 2048 else 64
  [(0, decide (c.base % bytes ≠ 0)),
   (8, decide (c.hostIdxAddr % 4 ≠ 0)),
   (16, !sub && decide (c.devIdxAddr ≠ 0)),
   (24, decide (c.log2Size < 4 ∨ 16 < c.log2Size)),
   (25, decide (2 < leAt b 25 1)),
   (26, decide (field (leAt b 26 1) 4 4 ≠ 0) || (!sub && decide (field (leAt b 26 1) 0 4 ≠ 0))),
   (27, if sub then decide (63 < c.group) || decide (getFld s (rid .hubRgrpCfg c.group) 8 5 ≠ fn) else decide (c.group ≠ 0)),
   (28, if sub && c.polled then decide (c.pollUs = 0 ∨ 1000 < c.pollUs) else decide (c.pollUs ≠ 0)),
   (30, if sub then !namedOk s fn c.cmplRing .completion else decide (c.cmplRing ≠ 0)),
   (32, !(namedOk s fn c.evtRing .event || (evt && c.evtRing == ring))),
   (34, if sub then decide (c.vector ≠ 0)
        else decide (table ≤ c.vector)
          || (fn == 0 && (decide (c.vector = 0) || (decide (c.vector = 1) != (evt && c.defaultMark))))),
   (36, sub && decide (c.modCount ≠ 0)),
   (38, sub && decide (c.modUs ≠ 0)),
   (40, if evt then decide (1023 < c.rate) else decide (c.rate ≠ 0)),
   (46, decide (leAt b 46 18 ≠ 0))]

/-- The offset of the first field of a context that is refused. -/
def ctxRefused (s : State) (fn ring : Nat) (b : List Byte) : Option Nat :=
  ((ctxChecks s fn ring b).find? (·.2)).map (·.1)

/-- HUB_RING_CMD after a command: GO reads 0 again (Table 3-6). -/
def ringCmdDone (s : State) (fn ring op : Nat) (fail : Bool) : State :=
  setReg s (rid .hubRingCmd fn) (ring % 65536 + op * 2 ^ 16 + bit fail * 2 ^ 30)

/-- One event of the start log written to the ring that the PF made its default; one that finds no room is counted as
discarded (R14, R565; DEDUCED, log entry 21). -/
def placeLogged (ring : Nat) (s : State) (e : EvRec) : State :=
  let r := getRing s ring
  if 0 < r.room ∧ r.lostFull = 0 then postRecord s ring 32 (eventBytes e) false
  else updRing s ring fun r => { r with
    lostFull := satAdd 32 r.lostFull 1, lostFirst := if r.lostFull = 0 then e.time else r.lostFirst, lostLast := e.time }

/-- A ring becomes a function's default event ring: what was kept or counted for want of one is written to it (R565,
R630). -/
def makeDefault (s : State) (fn ring : Nat) : State :=
  let f := getFn s fn
  let first := fn == 0 && !f.everDefault
  let s := updFn s fn fun f => { f with defaultRing := some ring, everDefault := true, lost := 0, lostFirst := 0, lostLast := 0 }
  let s := if first then s.startLog.foldl (placeLogged ring) s else s
  let lost := if first then (s.startLost, s.startLostFirst, s.startLostLast) else (f.lost, f.lostFirst, f.lostLast)
  let s := if first then { s with startLog := [], startLost := 0, startLostFirst := 0, startLostLast := 0 } else s
  let s := if lost.1 = 0 then s else updRing s ring fun r => { r with
    lostFull := satAdd 32 r.lostFull lost.1, lostFirst := if r.lostFull = 0 then lost.2.1 else r.lostFirst, lostLast := lost.2.2 }
  flushLost s ring

/-- A ring as a LOAD leaves it (Table 3-8). Records that an ABORT owes to it stay owed (R633). An event ring of the same
function keeps the discards that it has not reported and its rate windows (DESIGN CHOICE, log entry 76). -/
def freshRing (old : Ring) (fn : Nat) (c : RingCtx) : Ring :=
  let r : Ring := { state := .active, loaded := true, fn := fn, ctx := c, owed := old.owed }
  let r := { r with head := c.initIdx, tail := c.initIdx, prod := r.init, cons := r.init }
  if c.type = .event ∧ old.ctx.type = .event ∧ old.fn = fn then
    { r with lostFull := old.lostFull, lostRate := old.lostRate, lostFirst := old.lostFirst, lostLast := old.lostLast
             windows := old.windows }
  else r

/-- A ring made ACTIVE with its context (Table 3-8). A completion ring writes the records owed to it, and an event ring the
events-lost record that it owes. -/
def loadRing (s : State) (fn ring : Nat) (c : RingCtx) : State :=
  let s := updRing s ring fun old => { freshRing old fn c with polledAt := s.time }
  match c.type with
  | .submission => s
  | .completion => payOwed ring (getRing s ring).owed.length s
  | .event => if c.defaultMark then makeDefault s fn ring else flushLost s ring

/-- LOAD (R82–R84, R99). -/
def execRingLoad (fn ring : Nat) (context : List Byte) (s : State) : Host.Outcome State Fault Refusal :=
  whenReg s fn (rid .hubRingCmd fn) fun s =>
    if 65536 ≤ ring ∨ ownerOf s ring ≠ fn ∨ (getRing s ring).state ≠ .disabled then ringCmdDone s fn ring 1 true
    else
      let s := send s (.hostRead fn (getPair s .hubRctBaseLo .hubRctBaseHi fn + 64 * (ring - vfBase s fn)) 64)
      match ctxRefused s fn ring context with
      | some off => emitFn (ringCmdDone s fn ring 1 true) fn 0x0012 4 ring (leBytes 1 0 ++ leBytes 1 off)
      | none => ringCmdDone (loadRing s fn ring (ctxOf context)) fn ring 1 false

/-! ## Index reads and writes -/

/-- A read of a submission ring's shadow tail issued (R95). -/
def startTailRead (s : State) (ring : Nat) : State :=
  let r := getRing s ring
  let s := updRing s ring fun r => { r with readInFlight := true }
  if r.ctx.devmem then s else send s (.hostRead r.fn r.ctx.hostIdxAddr 4)

/-- A shadow-tail read asked for: issued, or remembered while one is in flight (R95). -/
def askTail (s : State) (ring : Nat) : State :=
  if (getRing s ring).readInFlight then updRing s ring fun r => { r with readAgain := true } else startTailRead s ring

/-- A read of the slot at a ring's consumer index issued. -/
def startSlotRead (s : State) (ring : Nat) : State :=
  let r := getRing s ring
  let s := updRing s ring fun r => { r with slotInFlight := true }
  if r.ctx.devmem then s else send s (.hostRead r.fn (r.ctx.base + 64 * (r.head % r.size)) 64)

/-- Bytes of a device-memory ring or index word, where they can be read (R632). -/
def ringBytes (s : State) (ring va n : Nat) : Option (List Byte) :=
  (quiet (vread (hubWho (getRing s ring).fn) va n) s).1

/-- A submission ring's consumer index written to DEVIDX_ADDR (R91); a write to device memory that cannot be made halts the
ring (R632). -/
def writeDevIdx (s : State) (ring : Nat) : State :=
  let r := getRing s ring
  if r.ctx.devIdxAddr = 0 then s
  else if r.ctx.devmem then
    match quiet (vwrite (hubWho r.fn) r.ctx.devIdxAddr (leBytes 4 r.head)) s with
    | (some _, t) => t
    | (none, _) => haltRing s ring 3 0
  else hostWrite s r.fn r.ctx.devIdxAddr (leBytes 4 r.head)

/-! ## Stalls (R627) -/

/-- The submission rings that a completion ring's room holds back. -/
def stalledRings (s : State) (cring : Nat) : List Nat :=
  (s.rings.map (·.1)).filter fun n => (getRing s n).ctx.cmplRing == cring && readyBut s n && cplFull s cring

/-- The stall event (Table 3-16). -/
def stallEvent (s : State) (cring : Nat) (k : Stall) (ended : Bool) : State :=
  emitRing s cring 0x0013 4 cring
    (leBytes 2 cring ++ leBytes 2 k.first ++ leBytes 4 (bit ended) ++ leBytes 4 (owedTo s cring)
      ++ leBytes 4 (min ((s.time - k.since) / 400) (2 ^ 32 - 1)))

/-- A stall's begin and end noted; the end of one that has been reported writes its event. -/
def noteStall (s : State) (cring : Nat) : State :=
  match stalledRings s cring, (getRing s cring).stall with
  | n :: _, none => updRing s cring fun r => { r with stall := some { since := s.time, first := n, reported := false } }
  | [], some k =>
    let s := updRing s cring fun r => { r with stall := none }
    if k.reported then stallEvent s cring k true else s
  | _, _ => s

/-- A stall that has lasted 1 ms is reported once; one that has ended, if it was reported, once more (R627). -/
def execCompletionRingStall (ring : Nat) (s : State) : Host.Outcome State Fault Refusal :=
  whenLive s fun s =>
    let s := noteStall s ring
    match (getRing s ring).stall with
    | some k =>
      if k.reported ∨ s.time < k.since + 400000 then s
      else stallEvent (updRing s ring fun r => { r with stall := some { k with reported := true } }) ring k false
    | none => s

/-! ## Ring commands -/

/-- Whether a command names a ring of the writing function in an allowed state (R99). -/
def cmdAllowed (s : State) (fn ring : Nat) (ok : RingState → Bool) : Bool :=
  decide (ring < 65536 ∧ ownerOf s ring = fn) && ok (getRing s ring).state

/-- A ring taken to DRAINING, an event ring straight to DISABLED (R633). -/
def drainRing (s : State) (ring : Nat) : State :=
  updRing s ring fun r =>
    if r.ctx.type = .event then { r with state := .disabled }
    else { r with state := .draining, readAgain := false }

/-- What a change of a ring's state brings with it: the stall of its completion ring, or its own, looked at (R627), and the
round of the ring groups (R86). -/
def ringChanged (s : State) (ring : Nat) : State :=
  let r := getRing s ring
  settleRound (if r.ctx.type = .submission then noteStall s r.ctx.cmplRing else noteStall s ring)

/-- STOP (Table 3-8). -/
def execRingStop (fn ring : Nat) (s : State) : Host.Outcome State Fault Refusal :=
  whenReg s fn (rid .hubRingCmd fn) fun s =>
    if cmdAllowed s fn ring fun t => t == .active || t == .halted then
      ringChanged (ringCmdDone (drainRing s ring) fn ring 2 false) ring
    else ringCmdDone s fn ring 2 true

/-- The descriptors of a ring fetched and not dispatched, each with the slot of its extension. -/
def undispatched : List Fetched → List Desc
  | [] => []
  | [f] => [descOf f.bytes none]
  | f :: e :: rest =>
    if slotExt f then descOf f.bytes (some e.bytes) :: undispatched rest
    else descOf f.bytes none :: undispatched (e :: rest)

/-- One descriptor completed by an ABORT without dispatch (Table 3-8, R633). -/
def abortDesc (ring : Nat) (s : State) (d : Desc) : State :=
  let s := applyCtr s d stAborted
  postCpl s (getRing s ring).ctx.cmplRing
    { ring := ring, seq := d.seq, status := stAborted, mask := 0, remote := false, dcode := 0x0D, detail := 0, irq := d.irq
      time := s.time }

/-- A ring aborted: drained, its undispatched descriptors completed with ABORTED. -/
def abortRing (s : State) (ring : Nat) : State :=
  let ds := undispatched (getRing s ring).fetched
  let s := updRing (drainRing s ring) ring fun r => { r with fetched := [] }
  ds.foldl (abortDesc ring) s

/-- ABORT (Table 3-8). -/
def execRingAbort (fn ring : Nat) (s : State) : Host.Outcome State Fault Refusal :=
  whenReg s fn (rid .hubRingCmd fn) fun s =>
    if cmdAllowed s fn ring fun t => t != .disabled then
      ringChanged (ringCmdDone (abortRing s ring) fn ring 3 false) ring
    else ringCmdDone s fn ring 3 true

/-- RESUME (Table 3-8): the ring is ACTIVE again and its tail is read, after the log of a rollback that waited for it has
been dispatched again (R497). -/
def execRingResume (fn ring : Nat) (s : State) : Host.Outcome State Fault Refusal :=
  whenReg s fn (rid .hubRingCmd fn) fun s =>
    if cmdAllowed s fn ring fun t => t == .halted then
      let s := ringCmdDone (updRing (settleRound s) ring fun r => { r with state := .active }) fn ring 4 false
      let s := ringChanged s ring
      if getBit s (rid .fltStepCtl fn) 2 then
        let s := setBit (setBit s (rid .fltStepCtl fn) 2 false) (rid .fltStepCtl fn) 1 true
        let s := updFn s fn fun f => { f with replayActive := true }
        updRing s ring fun r => { r with readAgain := true }
      else askTail s ring
    else ringCmdDone s fn ring 4 true

/-- The code of a ring state (Table 3-7). -/
def ringStateCode : RingState → Nat
  | .disabled => 0
  | .active => 1
  | .draining => 2
  | .halted => 3

/-- QUERY (Tables 3-7 and 3-8). -/
def execRingQuery (fn ring : Nat) (s : State) : Host.Outcome State Fault Refusal :=
  whenReg s fn (rid .hubRingCmd fn) fun s =>
    if cmdAllowed s fn ring fun _ => true then
      let r := getRing s ring
      let s := setReg s (rid .hubRingStat fn) (ringStateCode r.state + inFlight s ring * 2 ^ 8)
      let s := setReg s (rid .hubRingHead fn) (if r.ctx.type = .submission then r.head else r.prod)
      ringCmdDone s fn ring 5 false
    else ringCmdDone s fn ring 5 true

/-- A DRAINING ring with nothing left becomes DISABLED; a submission ring writes its index first (Table 3-8, R633). -/
def execRingDrained (ring : Nat) (s : State) : Host.Outcome State Fault Refusal :=
  whenLive s fun s =>
    let r := getRing s ring
    if r.state ≠ .draining then s
    else if r.ctx.type = .submission then
      let owed := (getRing s r.ctx.cmplRing).owed.any fun o => o.ring == ring
      if r.fetched = [] ∧ inFlight s ring = 0 ∧ owed = false then
        updRing (writeDevIdx s ring) ring fun r => if r.state = .draining then { r with state := .disabled } else r
      else s
    else if owedTo s ring = 0 then updRing s ring fun r => { r with state := .disabled }
    else s

/-! ## Doorbells -/

/-- The event of a discarded doorbell (Table 3-16) (DEDUCED, log entry 62). -/
def doorbellEvent (s : State) (fn ring offset value cause : Nat) : State :=
  let detail := leBytes 4 offset ++ leBytes 4 value ++ leBytes 1 cause
  if ownerOf s ring = fn ∧ (getRing s ring).state ≠ .disabled then emitRing s ring 0x0010 4 ring detail
  else emitFn s fn 0x0010 4 ring detail

/-- A doorbell that is taken: a tail read for an ACTIVE submission ring, a read of the host's index for another ACTIVE
ring, nothing for the other states (R95, R97). -/
def ringDoorbell (s : State) (ring : Nat) : State :=
  let r := getRing s ring
  if r.state ≠ .active then s
  else if r.ctx.type = .submission then askTail s ring
  else send s (.hostRead r.fn r.ctx.hostIdxAddr 4)

/-- A write to BAR2 (R93, R94). Where several cases of R94 apply, the first one of the list names the cause, and an aligned
offset that no ring has counts as a value that differs from it (DESIGN CHOICE, log entry 77). In recovery there is no BAR2
(R591). -/
def execDoorbell (fn offset length : Nat) (value : W32) (s : State) : Host.Outcome State Fault Refusal :=
  whenHost s fun s =>
    if s.start.recovery then s else
    let ring := vfBase s fn + offset / 16
    let v := value.toNat
    if length ≠ 4 ∨ offset % 4 ≠ 0 then doorbellEvent s fn ring offset v 0
    else if offset % 16 ≠ 0 ∨ v ≠ ring then doorbellEvent s fn ring offset v 1
    else if 65536 ≤ ring ∨ ownerOf s ring ≠ fn then doorbellEvent s fn ring offset v 2
    else if (getRing s ring).state = .disabled then doorbellEvent s fn ring offset v 3
    else ringDoorbell s ring

/-- A failed read of a ring: retried once, then the ring halts (R632). -/
def failedTail (s : State) (ring : Nat) : State :=
  if (getRing s ring).retried then
    haltRing (updRing s ring fun r => { r with readInFlight := false, retried := false, readAgain := false }) ring 2 0
  else startTailRead (updRing s ring fun r => { r with retried := true }) ring

/-- The shadow tail that a read returned: too many entries halt the ring (R90), new ones are fetched (R89), and the read
asked for meanwhile is issued (R95). -/
def takeTail (s : State) (ring tail : Nat) : State :=
  let again := (getRing s ring).readAgain
  let s := updRing s ring fun r => { r with readInFlight := false, retried := false, readAgain := false, tail := tail }
  let r := getRing s ring
  let n := (tail + 2 ^ 32 - r.head) % 2 ^ 32
  if r.size < n then haltRing s ring 0 0
  else
    let s := if 0 < n ∧ ¬ r.slotInFlight then startSlotRead s ring else s
    if again then startTailRead s ring else s

/-- A shadow-tail read returns (R89, R90, R95, R632). A device-memory ring's word comes from device memory, another's from
the host, as the operand gives it. -/
def execShadowTailReadDone (ring : Nat) (tail : Option W32) (s : State) : Host.Outcome State Fault Refusal :=
  whenLive s fun s =>
    let r := getRing s ring
    if !r.readInFlight then s
    else if r.state ≠ .active then
      updRing s ring fun r => { r with readInFlight := false, retried := false, readAgain := false }
    else
      let got : Option Nat := if r.ctx.devmem then (ringBytes s ring r.ctx.hostIdxAddr 4).map leNat else tail.map (·.toNat)
      match got with
      | some t => takeTail s ring t
      | none => failedTail s ring

/-- A slot taken: kept for dispatch, the consumer index advanced and written, and the next slot read (R91). -/
def takeSlot (s : State) (ring : Nat) (bytes : List Byte) : State :=
  let s := updRing s ring fun r => { r with
    fetched := r.fetched ++ [{ index := r.head, bytes := padTo 64 bytes }], head := (r.head + 1) % 2 ^ 32,
    slotInFlight := false, slotRetried := false }
  let s := writeDevIdx s ring
  let r := getRing s ring
  let s := if r.state = .active ∧ r.tail ≠ r.head then startSlotRead s ring else s
  noteStall s r.ctx.cmplRing

/-- A descriptor read completes (R91, R126, R632). -/
def execDescriptorFetchDone (ring : Nat) (slot : Option (List Byte)) (s : State) : Host.Outcome State Fault Refusal :=
  whenLive s fun s =>
    let s := settleRound s
    let r := getRing s ring
    if !r.slotInFlight then s
    else if r.state ≠ .active then updRing s ring fun r => { r with slotInFlight := false, slotRetried := false }
    else
      let got := if r.ctx.devmem then ringBytes s ring (r.ctx.base + 64 * (r.head % r.size)) 64 else slot
      match got with
      | some bytes => takeSlot s ring bytes
      | none =>
        if r.slotRetried then
          haltRing (updRing s ring fun r => { r with slotInFlight := false, slotRetried := false }) ring 2 0
        else startSlotRead (updRing s ring fun r => { r with slotRetried := true }) ring

/-- The poll interval of a polled ring ends (R96). -/
def execRingPollTimer (ring : Nat) (s : State) : Host.Outcome State Fault Refusal :=
  whenLive s fun s =>
    let r := getRing s ring
    if r.state = .active ∧ r.ctx.type = .submission ∧ r.ctx.polled = true ∧ r.polledAt + 400 * r.ctx.pollUs ≤ s.time then
      askTail (updRing s ring fun r => { r with polledAt := s.time }) ring
    else s

/-- The host's consumer index of a completion or event ring, read again (R97, R98): owed records and the events-lost record
are written as it gives room. A failed read changes nothing (R632). -/
def execConsumerIndexReread (ring : Nat) (index : Option W32) (s : State) : Host.Outcome State Fault Refusal :=
  whenLive s fun s =>
    let r := getRing s ring
    if r.state = .disabled ∨ r.ctx.type = .submission then s
    else match index with
      | none => s
      | some v =>
        let s := updRing (settleRound s) ring fun r => { r with cons := v.toNat }
        if r.ctx.type = .completion then noteStall (payOwed ring r.owed.length s) ring else flushLost s ring

/-! ## Timers of the record rings -/

/-- INTERRUPT_MODERATION_TIMER: MOD_US has passed since the first unsignalled record (R125). -/
def execInterruptModerationTimer (ring : Nat) (s : State) : Host.Outcome State Fault Refusal :=
  whenLive s fun s =>
    let r := getRing s ring
    if r.state = .disabled ∨ r.unsignalled = 0 ∨ r.ctx.modUs = 0 ∨ s.time < r.firstAt + 400 * r.ctx.modUs then s
    else msix (updRing s ring fun r => { r with unsignalled := 0 }) r.fn r.ctx.vector

/-- A source's rate window ends, 1 ms after it began: its discards join the ring's events-lost record (R123). -/
def execEventRateWindowEnd (ring srcType srcInst : Nat) (s : State) : Host.Outcome State Fault Refusal :=
  whenLive s fun s =>
    let r := getRing s ring
    match r.windows.find? fun w => w.isFor srcType srcInst with
    | none => s
    | some w =>
      if s.time < w.since + 400000 then s
      else
      let s := updRing s ring fun r => { r with
        windows := r.windows.filter fun w => !w.isFor srcType srcInst
        lostRate := satAdd 32 r.lostRate w.dropped
        lostFirst := if w.dropped = 0 then r.lostFirst
                     else if r.lostFull + r.lostRate = 0 then w.first else min r.lostFirst w.first
        lostLast := if w.dropped = 0 then r.lostLast else max r.lostLast w.last }
      flushLost s ring

/-! ## Dispatch -/

/-- The arbiter's choice: the group granted, its ring, and whether a new round starts (R86, R87). -/
def arbiterChoice (s : State) : Option (Nat × Nat × Bool) :=
  match grantGroup s with
  | none => none
  | some (g, fresh) => (groupRing s g).map fun ring => (g, ring, fresh)

/-- The arbiter's grant carried out. -/
def dispatchGrant (s : State) (c : Nat × Nat × Bool) : State :=
  settleRound (noteStall (grantRing s c.1 c.2.1 c.2.2) (getRing s c.2.1).ctx.cmplRing)

/-- The ring-group arbiter grants a group (R86, R87), after every oasis failure whose boundary has come is acted on
(R177). -/
def execDescriptorDispatch (s : State) : Host.Outcome State Fault Refusal :=
  whenLive s fun s =>
    let s := (List.range 17).foldl settleOasis s
    match arbiterChoice s with
    | none => s
    | some c => dispatchGrant s c

/-- A descriptor held in dispatch looks at its tokens again (R113, R115). -/
def execDependencyMet (ring index : Nat) (s : State) : Host.Outcome State Fault Refusal :=
  whenLive s fun s =>
    match findWork s ring index with
    | some w => if w.phase = .held ∧ ¬ allHeld s then tryLaunch s w else s
    | none => s

/-- FENCE_RELEASE: a ring's fenced descriptor dispatches once every earlier one has completed (R108), where it is the
arbiter's choice (R86, R87); until then it requests like any other. -/
def execFenceRelease (ring : Nat) (s : State) : Host.Outcome State Fault Refusal :=
  whenLive s fun s =>
    match nextDesc (getRing s ring), arbiterChoice s with
    | some (f, _, _), some c => if slotFence f ∧ c.2.1 = ring then dispatchGrant s c else s
    | _, _ => s

/-- A descriptor whose work has ended completes (R114–R120). -/
def execDescriptorComplete (ring index : Nat) (s : State) : Host.Outcome State Fault Refusal :=
  whenLive s fun s =>
    match findWork s ring index with
    | some w => if w.phase = .done then noteStall (completeWork (settleRound s) w) (getRing s ring).ctx.cmplRing else s
    | none => s

end Sys2Proof.Machine
end

