-- ==== Sys2Proof/Machine/Collective.lean ====
section
/-! DEFINITION. Gradient reduction (Gradient Reduction and Collectives): opening a bucket (R441–R445, R452, R457, R458), the
path and arithmetic of its chunks (R446–R450, R453–R456, R461), matching and staging (R462–R465), completion (R460, R466),
and slow or lost peers (R468–R472). -/

namespace Sys2Proof.Machine

/-! ## The group entry (Table 12-1) -/

/-- A collective group entry. -/
structure ColEntry where
  bytes : List Byte
  deriving DecidableEq, Repr

/-- N. -/
def ColEntry.n (e : ColEntry) : Nat := leAt e.bytes 0 2
/-- FLAGS: 0 VALID, 1 HIST_VALID, 2 PROBE. -/
def ColEntry.flags (e : ColEntry) : Nat := leAt e.bytes 5 1
/-- GROWTH. -/
def ColEntry.growth (e : ColEntry) : Nat := leAt e.bytes 6 1 % 4
/-- WDOG_MS, 0 meaning 1,000. -/
def ColEntry.wdog (e : ColEntry) : Nat := if leAt e.bytes 8 2 = 0 then 1000 else leAt e.bytes 8 2
/-- RING_r. -/
def ColEntry.ring (e : ColEntry) (r : Nat) : Nat := leAt e.bytes (64 + 8 * r) 8

/-- Whether a port field is allowed: 0–7 or 15. -/
def colPortOk (p : Nat) : Bool := decide (p < 8 ∨ p = 15)

/-- Whether an entry serves a concurrent ring (R441, R443; detail code 0xB0). -/
def ColEntry.ok (e : ColEntry) (r : Nat) : Bool :=
  let w := e.ring r
  flag e.flags 0 && decide (1 ≤ e.n ∧ leAt e.bytes 2 2 < e.n)
    && decide (1 ≤ leAt e.bytes 4 1 ∧ leAt e.bytes 4 1 ≤ 8 ∧ r < leAt e.bytes 4 1)
    && decide (field e.flags 3 5 = 0 ∧ field (leAt e.bytes 6 1) 2 6 = 0 ∧ field (leAt e.bytes 7 1) 4 4 = 0)
    && decide (leAt e.bytes 10 6 = 0 ∧ leAt e.bytes 36 28 = 0 ∧ leAt e.bytes 192 64 = 0)
    && decide (field w 56 8 = 0 ∧ field w 32 16 < e.n) && colPortOk (field w 48 4) && colPortOk (field w 52 4)

/-- The entry a descriptor names, read for its function. -/
def readCol (w : Who) (group r : Nat) : Eng ColEntry := do
  let s ← get
  ensure (getBit s (rid .colGrpBaseLo w.fn) 0 && decide (group ≤ 4095)) stBad 0xB0
  let bs ← vread w (colVa s w.fn group) 256
  ensure ((ColEntry.mk bs).ok r) stBad 0xB0
  pure ⟨bs⟩

/-! ## Chunks and steps (R446, R447, Table 12-2) -/

/-- B: the bucket's blocks. -/
def Bucket.blocks (b : Bucket) : Nat := ceilDiv b.elements 32
/-- u and l. -/
def Bucket.upper (b : Bucket) : Nat := b.n / 2
/-- See `Bucket.upper`. -/
def Bucket.lower (b : Bucket) : Nat := (b.n - 1) / 2
/-- The first block of a chunk. -/
def Bucket.chunkFirst (b : Bucket) (c : Nat) : Nat := c * b.blocks / b.n
/-- The blocks of a chunk. -/
def Bucket.chunkBlocks (b : Bucket) (c : Nat) : Nat := b.chunkFirst (c + 1) - b.chunkFirst c

/-- Reduce steps of a direction; the other steps, up to N − 1 in all, are gather steps. -/
def Bucket.reduceSteps (b : Bucket) (ccw : Bool) : Nat := if ccw then b.upper else b.lower
/-- Steps of a direction. -/
def Bucket.steps (b : Bucket) : Nat := b.n - 1

/-- The chunk sent at a step of a direction (Table 12-2). -/
def Bucket.chunkAt (b : Bucket) (ccw : Bool) (s : Nat) : Nat :=
  let r := b.reduceSteps ccw
  if s < r then
    if ccw then (b.pos + b.n - b.upper + s) % b.n else (b.pos + b.lower + b.n - s) % b.n
  else
    if ccw then (b.pos + (s - r)) % b.n else (b.pos + b.n - (s - r)) % b.n

/-- The step at which this member sends on a chunk that reached it in a direction and phase. -/
def Bucket.stepOf (b : Bucket) (ccw gather : Bool) (c : Nat) : Nat :=
  let ahead := (c + b.n - b.pos) % b.n
  let behind := (b.pos + b.n - c) % b.n
  if gather then b.reduceSteps ccw + (if ccw then ahead else behind)
  else if ccw then (ahead + b.upper) % b.n else (behind + b.lower) % b.n

/-- The local elements of a block, padded with +0 (R446). -/
def Bucket.ownBlock (b : Bucket) (k : Nat) : List Nat := (((b.own.drop (32 * k)).take 32) ++ List.replicate 32 0).take 32

/-! ## Wire blocks (R453, R454, Table 12-3) -/

/-- The exponent of a power-of-two scale. -/
def scaleOf (t : Nat) : Int := ((t / 2 ^ 23 % 256 : Nat) : Int) - 127

/-- A block as a BF16 escape. -/
def escapeBlock (xs : List Nat) : WireBlock :=
  ⟨xs.flatMap fun x => leBytes 2 (bf16.convert (fp32.decode x)).code, true⟩

/-- A block encoded for the wire, and whether it escapes here. -/
def Bucket.encode (b : Bucket) (xs : List Nat) (esc : Bool) : WireBlock × Bool :=
  if b.mx then
    let e := mxBlock fp32 0x15 1 xs
    (⟨leBytes 1 e.scale ++ e.codes.flatMap (leBytes 1), false⟩, false)
  else if esc then (escapeBlock xs, false)
  else
    let e := vqBlock fp32 0x24 (scaleOf b.tscale) 0 xs
    if e.overflow then (escapeBlock xs, true) else (⟨leBytes 1 e.scale ++ e.codes.flatMap (leBytes 1), false⟩, false)

/-- The values of a wire block as FP32 codes: a decoded wire element is exact in FP32 (R448, R456). -/
def wireValues (mx : Bool) (tscale : Nat) (w : WireBlock) : List Nat :=
  if w.esc then (List.range 32).map fun i => toFp32 (bf16.decode (leAt w.bytes (2 * i) 2))
  else (List.range 32).map fun i =>
    toFp32 (decodeElem (if mx then 0x15 else 0x24) (leAt w.bytes 0 1) tscale (leAt w.bytes (1 + i) 1))

/-- The blocks in a packet: `n` of them, escapes by the bits of ESCAPE. -/
def wireBlocks : Nat → Nat → List Byte → List WireBlock
  | 0, _, _ => []
  | n + 1, esc, bs =>
    let k := if esc % 2 = 1 then 64 else 33
    ⟨bs.take k, esc % 2 == 1⟩ :: wireBlocks n (esc / 2) (bs.drop k)

/-! ## Sending in canonical order (R447, R455) -/

/-- One direction of a bucket. -/
def Bucket.lane (b : Bucket) (ccw : Bool) : Lane := if ccw then b.ccw else b.cw
/-- One direction of a bucket changed. -/
def Bucket.updLane (b : Bucket) (ccw : Bool) (f : Lane → Lane) : Bucket :=
  if ccw then { b with ccw := f b.ccw } else { b with cw := f b.cw }

/-- Blocks, and what a summary says, made ready for a step. -/
def Lane.add (l : Lane) (step : Nat) (blocks : List WireBlock) (value : Nat) (esc : Bool) : Lane :=
  if l.ready.any fun o => o.step == step then
    { l with ready := l.ready.map fun o => if o.step = step then { o with blocks := o.blocks ++ blocks } else o }
  else { l with ready := l.ready ++ [{ step := step, blocks := blocks, value := value, esc := esc }] }

/-- Blocks of the first packet of those given: those that fit LENGTH 8,192, at most 192 (R455). -/
def packetFill : Nat → Nat → List WireBlock → Nat
  | 0, _, _ => 0
  | fuel + 1, room, w :: ws => if w.bytes.length ≤ room then 1 + packetFill fuel (room - w.bytes.length) ws else 0
  | _ + 1, _, [] => 0

/-- The ESCAPE bits of some blocks. -/
def escapeBits : List WireBlock → Nat
  | [] => 0
  | w :: ws => bit w.esc + 2 * escapeBits ws

/-- Whether a step sends a packet without blocks: a barrier's, a summary, or an empty chunk's (R447, R461). -/
def Bucket.stepEmpty (b : Bucket) (ccw : Bool) (step : Nat) : Bool :=
  (b.kind == 1 && decide (b.reduceSteps ccw ≤ step)) || b.chunkBlocks (b.chunkAt ccw step) == 0

/-- The next packet of a direction, if it is ready: its payload, and the lane behind it. A packet whose last block is not
yet known to be its last waits for the next. -/
def Bucket.nextPacket (b : Bucket) (ccw : Bool) : Option (List Byte × Lane) :=
  let l := b.lane ccw
  let c := b.chunkAt ccw l.step
  let gather := decide (b.reduceSteps ccw ≤ l.step)
  let phase := if !gather then 0 else if b.kind = 1 then 3 else 1
  let scale := if b.mx then 0 else b.tscale
  let after : Lane := { step := l.step + 1, first := 0, ready := l.ready.filter fun o => o.step != l.step }
  match (if l.step < b.steps then l.ready.find? fun o => o.step == l.step else none) with
  | none => none
  | some o =>
    if b.stepEmpty ccw l.step then
      some (chunkHeader b ccw phase c 0 0 scale o.value (bit o.esc), after)
    else
      let k := packetFill 192 8128 o.blocks
      let ws := o.blocks.take k
      let used : Nat := ws.foldl (fun n w => n + w.bytes.length) 0
      let ended : Bool := l.first + k == b.chunkBlocks c
      if k = 0 ∨ (k = o.blocks.length ∧ k < 192 ∧ ended = false ∧ used + 33 ≤ 8128) then none
      else
        let rest : Lane := { l with
          first := l.first + k
          ready := l.ready.map fun q => if q.step = l.step then { q with blocks := o.blocks.drop k } else q }
        some (chunkHeader b ccw phase c k l.first scale 0 (escapeBits ws) ++ (ws.map (·.bytes)).flatten,
          if ended then after else rest)

/-- Every packet of a direction that is ready, sent; at most `fuel`. -/
def sendReady (fn group bucket : Nat) (ccw : Bool) : Nat → State → State
  | 0, s => s
  | fuel + 1, s =>
    match findBucket s fn group bucket with
    | none => s
    | some b =>
      if b.prepass || !bucketPath s b ccw then s
      else match b.nextPacket ccw with
        | none => s
        | some (payload, l) =>
          sendReady fn group bucket ccw fuel (sendChunk (putBucket s (b.updLane ccw fun _ => l)) b ccw payload)

/-! ## The owner of a chunk (R448–R450) -/

/-- The owner's sum of a block: in ordered mode the lower half first, else in order of arrival. -/
def Bucket.ownerSum (b : Bucket) (own : List Nat) (hs : List Half) : List Nat :=
  let hs := if b.ordered then hs.filter (·.clockwise) ++ hs.filter fun h => !h.clockwise else hs
  hs.foldl (fun acc h => (acc.zip h.values).map fun p => fp32.add p.1 p.2) own

/-- A block of the own chunk finished: its result, and its blocks or summary made ready for the gather. -/
def Bucket.ownDone (b : Bucket) (k : Nat) (hs : List Half) : Bucket :=
  let empty := b.chunkBlocks b.pos == 0
  let esc := hs.any (·.esc)
  let g := b.chunkFirst b.pos + k
  let acc := b.ownerSum (b.ownBlock g) hs
  let enc := b.encode acc esc
  let last := empty || k + 1 == b.chunkBlocks b.pos
  let b := { b with partials := b.partials.filter fun h => h.block != k, chunkEsc := b.chunkEsc || esc }
  let out (b : Bucket) (ws : List WireBlock) (value : Nat) (e : Bool) : Bucket :=
    let b := if 0 < b.upper then b.updLane false fun l => l.add b.lower ws value e else b
    if 0 < b.lower then b.updLane true fun l => l.add b.upper ws value e else b
  let b := if last then { b with gotChunks := b.pos :: b.gotChunks } else b
  if b.kind = 1 then
    let b := if empty then b else { b with result := Tab.ins b.result g acc }
    if last then
      let v := fp32.amax ((List.range (b.chunkBlocks b.pos)).flatMap fun i => Tab.get [] b.result (b.chunkFirst b.pos + i))
      out { b with summaries := (b.pos, v) :: b.summaries, anyEscape := b.anyEscape || b.chunkEsc } [] v b.chunkEsc
    else b
  else if empty then out b [] 0 false
  else
    let b := { b with result := Tab.ins b.result g (wireValues b.mx b.tscale enc.1)
                      escapes := b.escapes + bit enc.2, anyEscape := b.anyEscape || enc.1.esc }
    out b [enc.1] 0 false

/-- A partial of the own chunk taken in; the block is finished when both halves have come. -/
def Bucket.takeHalf (b : Bucket) (h : Half) : Bucket :=
  let b := { b with partials := b.partials ++ [h] }
  let hs := b.partials.filter fun q => q.block == h.block
  if hs.length = bit (decide (0 < b.lower)) + bit (decide (0 < b.upper)) then b.ownDone h.block hs else b

/-- The start of a bucket's sending: the local contribution of step 0 in both directions. -/
def Bucket.seed (b : Bucket) : Bucket :=
  let one (b : Bucket) (ccw : Bool) : Bucket :=
    if b.reduceSteps ccw = 0 then b
    else
      let c := b.chunkAt ccw 0
      let es := (List.range (b.chunkBlocks c)).map fun i => b.encode (b.ownBlock (b.chunkFirst c + i)) false
      { b.updLane ccw fun l => l.add 0 (es.map (·.1)) 0 false with
        escapes := b.escapes + (es.filter (·.2)).length }
  one (one b false) true

/-! ## Receiving (R456, R465) -/

/-- A chunk packet (Table 12-4). -/
structure Chunk where
  group : Nat
  cring : Nat
  ccw : Bool
  phase : Nat
  mode : Nat
  bucket : Nat
  step : Nat
  n : Nat
  owner : Nat
  srcPos : Nat
  blocks : Nat
  first : Nat
  elements : Nat
  tscale : Nat
  value : Nat
  escape : Nat
  body : List Byte
  deriving DecidableEq, Repr

/-- The chunk packet in a payload. -/
def chunkOf (p : Packet) : Chunk :=
  let x := p.payload
  let ctl := leAt x 2 1
  { group := leAt x 0 2, cring := ctl % 8, ccw := flag ctl 3, phase := field ctl 4 3, mode := leAt x 3 1,
    bucket := leAt x 4 4, step := leAt x 8 4, n := leAt x 12 2, owner := leAt x 14 2, srcPos := leAt x 16 2,
    blocks := leAt x 18 2, first := leAt x 20 4, elements := leAt x 24 8, tscale := leAt x 32 4, value := leAt x 36 4,
    escape := leAt x 40 24, body := x.drop 64 }

/-- Whether a packet agrees with an open bucket (R465). -/
def Bucket.agrees (b : Bucket) (src : Nat) (c : Chunk) : Bool :=
  decide (c.mode = b.kind + 4 * bit b.mx + 8 * bit b.ordered ∧ c.n = b.n ∧ c.elements = b.elements)
    && (if c.ccw then decide (src = b.next ∧ c.srcPos = (b.pos + 1) % b.n)
        else decide (src = b.prev ∧ c.srcPos = (b.pos + b.n - 1) % b.n))

/-- What a reduce packet does to the bucket (R448, R454). -/
def Bucket.takeReduce (b : Bucket) (c : Chunk) : Bucket :=
  let ws := (wireBlocks c.blocks c.escape c.body).map fun w => (w, wireValues b.mx c.tscale w)
  if c.owner = b.pos then
    if c.blocks = 0 then b.takeHalf ⟨0, !c.ccw, [], false, none⟩
    else ((List.range ws.length).zip ws).foldl (fun (b : Bucket) (p : Nat × WireBlock × List Nat) => b.takeHalf ⟨c.first + p.1, !c.ccw, p.2.2, p.2.1.esc, none⟩) b
  else
    let base := b.chunkFirst c.owner + c.first
    let out : List (WireBlock × Bool) := ((List.range ws.length).zip ws).map fun (p : Nat × WireBlock × List Nat) =>
      b.encode ((p.2.2.zip (b.ownBlock (base + p.1))).map fun q => fp32.add q.1 q.2) p.2.1.esc
    let n := (out.filter fun (e : WireBlock × Bool) => e.2).length
    let ws : List WireBlock := out.map fun (e : WireBlock × Bool) => e.1
    Bucket.updLane { b with escapes := b.escapes + n } c.ccw fun l => l.add (b.stepOf c.ccw false c.owner) ws 0 false

/-- What a gather or summary packet does to the bucket (R450, R461). -/
def Bucket.takeGather (b : Bucket) (c : Chunk) : Bucket :=
  let ws := wireBlocks c.blocks c.escape c.body
  let base := b.chunkFirst c.owner + c.first
  let put (t : Tab (List Nat)) (p : Nat × WireBlock) : Tab (List Nat) := Tab.ins t (base + p.1) (wireValues b.mx c.tscale p.2)
  let b : Bucket := if b.kind = 1 then
      { b with summaries := (c.owner, c.value) :: b.summaries, anyEscape := b.anyEscape || flag c.escape 0 }
    else { b with
      result := ((List.range ws.length).zip ws).foldl put b.result
      anyEscape := b.anyEscape || ws.any (·.esc) }
  let ended := b.kind == 1 || c.first + c.blocks == b.chunkBlocks c.owner
  let b := if ended then { b with gotChunks := c.owner :: b.gotChunks } else b
  let step := b.stepOf c.ccw true c.owner
  if step < b.steps then b.updLane c.ccw fun l => l.add step ws c.value (flag c.escape 0) else b

/-! ### The pre-pass (R458) -/

/-- The sum of two magnitudes rounded toward +∞. -/
def sumUp (a b : Nat) : Nat :=
  let v := (fp32.decode a).add (fp32.decode b)
  let r := fp32.round v
  if (fp32.decode r).lt v then r + 1 else r

/-- The largest finite magnitude of the local buffer. -/
def Bucket.ownMax (b : Bucket) : Nat := fp32.amax b.own

/-- A pre-pass packet sent clockwise with a running sum. -/
def sendSum (s : State) (b : Bucket) (sum : Nat) : State := sendChunk s b false (chunkHeader b false 2 0 0 0 sum 0 0)

/-- A bucket whose scale is known begins to send; the blocks that escape are counted (R447, R461). -/
def seedBucket (s : State) (b : Bucket) : State :=
  let n := b.seed
  addFld (putBucket s n) (rid .colCnt b.fn) 0 16 (n.escapes - b.escapes)

/-- The total is known: T is set, the event written, and the bucket starts (R458). -/
def endPrepass (s : State) (b : Bucket) (total : Nat) : State :=
  let t := pow2code (tensorScaleExp total 127 (b.growth + 1))
  emitBucket (seedBucket s { b with prepass := false, tscale := t }) b 0x0803 (leBytes 4 t)

/-- A pre-pass packet taken (R458): the first carries the running sum to a member above position 0, any other the total. -/
def takeSum (s : State) (b : Bucket) (sum : Nat) : State :=
  let seen : Bucket := { b with passSeen := b.passSeen + 1 }
  let s := putBucket s seen
  if b.pos ≠ 0 ∧ b.passSeen = 0 then
    let total := sumUp sum b.ownMax
    let s := sendSum s b total
    if b.pos + 1 = b.n then endPrepass s ((findBucket s b.fn b.group b.bucket).getD seen) total else s
  else
    let s := if b.pos + 2 < b.n then sendSum s b sum else s
    endPrepass s ((findBucket s b.fn b.group b.bucket).getD seen) sum

/-! ## Completion (R450, R460, R466) -/

/-- Bytes of an element of a result buffer. -/
def resultBytes (fmtByte : Nat) : Nat := fmtWidth (fmtByte % 128) / 8

/-- The own chunk of a reduce-scatter written into the result buffer, the rest left as it is (R450). -/
def writeOwnChunk (w : Who) (va fmtByte : Nat) (first : Nat) (xs : List Nat) : Eng Wrote := do
  let k := resultBytes fmtByte
  match fmtBin (fmtByte % 128) with
  | none => pure ⟨none, false⟩
  | some f =>
    let conv := convertAll fp32 f xs
    if flag fmtByte 7 then
      let bs ← vread w va 64
      let h : Hdr := ⟨va, bs⟩
      let g ← readGrp w h.group
      let old ← heldCopy w h
      vwrite w (va + 64 + k * first) (packArea h.fmt conv.1)
      let amax := fp32.amax xs
      let norm := if g.cls = 2 ∨ g.cls = 3 then norm32 xs else 0
      writeHdr w va false one32 0 amax norm
      narrowWrote old (groupWrite w h g xs.length conv.2 amax norm)
    else
      vwrite w (va + k * first) (packArea (fmtByte % 128) conv.1)
      pure ⟨none, false⟩

/-- The result of a bucket written into its buffer (R450). -/
def writeResult (w : Work) (b : Bucket) : Eng Unit := do
  let who := { whoOf w with coll := true }
  let d := w.desc
  if b.kind = 2 then pure ()
  else
    let lo := if b.kind = 1 then b.chunkFirst b.pos else 0
    let hi := if b.kind = 1 then b.chunkFirst (b.pos + 1) else b.blocks
    let xs := ((List.range (hi - lo)).flatMap fun i => Tab.get [] b.result (lo + i)).take (b.elements - 32 * lo)
    if b.kind = 0 then
      let x ← writeTensor who (vaOf (d.W 1)) (fmtOf (d.W 1)) 0xB1 fp32 xs
      noteWrite w x
    else if xs.isEmpty then pure ()
    else
      let x ← writeOwnChunk who (vaOf (d.W 1)) (fmtOf (d.W 1)) (32 * lo) xs
      noteWrite w x

/-- The bucket magnitude A (R460). -/
def Bucket.magnitude (b : Bucket) : Nat :=
  let a := if b.kind = 1 then fp32.amax (b.summaries.map (·.2)) else fp32.amax (b.result.flatMap (·.2))
  if b.anyEscape then max a (fp32.mul b.tscale (fp32.round (.fin false 889 (-1)))) else a

/-- What a finished VQ8 bucket leaves in its group's entry: PENDING (R460). -/
def noteBucket (s : State) (b : Bucket) : State :=
  let w := bucketWho b
  let va := colVa s b.fn b.group + 28
  let m : Eng Unit := do
    let e ← vread w va 4
    vwrite w va (leBytes 4 (if leNat e < 0x7F800000 then max (leNat e) b.magnitude else b.magnitude))
  let s := if b.mx then s else (quiet m s).2
  updFn s b.fn fun f => { f with colGroups := if b.group ∈ f.colGroups then f.colGroups else f.colGroups ++ [b.group] }

/-- Whether every packet a bucket sent has been acknowledged by the link layer of its next hop (R466). -/
def bucketAcked (s : State) (b : Bucket) : Bool :=
  let tag := some (b.fn, b.group, b.bucket)
  s.ports.all fun p => !(p.2.queue.any fun f => f.tag == tag) && !(p.2.replay.any fun f => f.tag == tag)

/-- Whether everything of a bucket has been sent and received. -/
def Bucket.exchanged (b : Bucket) : Bool :=
  !b.prepass && decide (b.cw.step = b.steps ∧ b.ccw.step = b.steps ∧ b.gotChunks.length = b.n)

/-- A bucket with all done: R466 is met. -/
def meetBucket (s : State) (b : Bucket) : State :=
  let s := noteBucket s b
  let s := updBucket s b.fn b.group b.bucket fun b => { b with met := true }
  match findWork s b.ring b.index with
  | some w => endWork s { (if b.resent then w.also 3 0xA8 else w) with detail := b.bucket }
  | none => s

/-- The bucket's next hop has no usable path while packets are still to be sent (R472). -/
def pathLost (s : State) (b : Bucket) : Bool :=
  !b.met && decide (1 < b.n)
    && ((decide (b.cw.step < b.steps) && !bucketPath s b false) || (decide (b.ccw.step < b.steps) && !bucketPath s b true))

/-- An open bucket brought forward: what is ready is sent, its result is written, and it ends when R466 is met. -/
def settleBucket (s : State) (fn group bucket : Nat) : State :=
  match findBucket s fn group bucket with
  | none => s
  | some b =>
    let fuel := 2 * b.n + b.cw.ready.foldl (fun n o => n + o.blocks.length) 0 + b.ccw.ready.foldl (fun n o => n + o.blocks.length) 0
    let s := sendReady fn group bucket true fuel (sendReady fn group bucket false fuel s)
    match findBucket s fn group bucket with
    | none => s
    | some b =>
      if b.met then s
      else if pathLost s b then withdrawBucket s b stPeer 0xA0 1
      else if !b.exchanged then s
      else
        let s := if b.written then s
          else match findWork s b.ring b.index with
            | some w => runPiece s w (do
                writeResult w b
                act fun s => updBucket s fn group bucket fun b => { b with written := true })
            | none => s
        match findBucket s fn group bucket with
        | some b => if b.written && bucketAcked s b then meetBucket s b else s
        | none => s

/-- Buckets that lost their path withdrawn (R472). -/
def withdrawPathless (s : State) : State :=
  (s.buckets.filter (pathLost s)).foldl (fun s b => withdrawBucket s b stPeer 0xA0 1) s

/-- Management-clock cycles in a millisecond. -/
def cyclesPerMs : Nat := 400000

/-- Progress of a bucket: its deadline is now plus WDOG_MS (R468). -/
def Bucket.progress (b : Bucket) (now : Nat) : Bucket :=
  { b with progressAt := now, deadline := now + b.wdog * cyclesPerMs }

/-! ## The staging area (R449, R463) -/

/-- The bytes that ordered mode keeps of a block's partial. -/
def halfBytes (h : Half) : List Byte := h.values.flatMap (leBytes 4)

/-- The places in use of a function's staging area, each an offset and a length: packets that came early, and partials that
ordered mode holds. -/
def stagePlaces (s : State) (fn : Nat) : List (Nat × Nat) :=
  ((getFn s fn).staged.map fun x => (x.1, x.2.payload.length))
    ++ (s.buckets.filter fun b => b.fn == fn).flatMap fun b =>
        b.partials.filterMap fun h => h.place.map fun o => (o, (halfBytes h).length)

/-- Bytes of a function's staging area. -/
def stageSize (s : State) (fn : Nat) : Nat := 65536 * getFld s (rid .colStageLo fn) 0 16

/-- The lowest place in a function's staging area that has room for `n` bytes; none where it is full (DESIGN CHOICE, log
entry 97). -/
def stagePlace (s : State) (fn n : Nat) : Option Nat :=
  let used := stagePlaces s fn
  (((0 :: used.map fun u => u.1 + u.2).filter fun c =>
    decide (c + n ≤ stageSize s fn) && used.all fun u => decide (c + n ≤ u.1 ∨ u.1 + u.2 ≤ c)).min?)

/-- Bytes written at a place of a function's staging area. -/
def stagePut (s : State) (fn place : Nat) (bs : List Byte) : State :=
  (quiet (areaWrite fn (vaPair s .colStageLo .colStageHi fn 16 + place) bs) s).2

/-- The partials that ordered mode holds since a packet was taken, put into the staging area. Where that is full they are held all
the same (DESIGN CHOICE, log entry 97). -/
def stageHalves (s : State) (fn group bucket : Nat) : State :=
  match findBucket s fn group bucket with
  | some b =>
    if b.ordered then
      (b.partials.filter (·.place.isNone)).foldl (fun s h =>
        match stagePlace s fn (halfBytes h).length with
        | none => s
        | some o =>
          stagePut (updBucket s fn group bucket fun b =>
            { b with partials := b.partials.map fun q => if q = h then { q with place := some o } else q }) fn o (halfBytes h)) s
    else s
  | none => s

/-- Whether the staging area has room for a packet. -/
def stageRoom (s : State) (fn : Nat) (p : Packet) : Bool := (stagePlace s fn p.payload.length).isSome

/-- A packet that came early put into the staging area; it stays where it is when that is full. -/
def stagePacket (s gone : State) (fn : Nat) (p : Packet) : State :=
  match stagePlace s fn p.payload.length with
  | none => s
  | some o => stagePut (updFn gone fn fun f => { f with staged := f.staged ++ [(o, p)] }) fn o p.payload

/-- A packet of an open bucket accepted and acted on (R448–R456, R465). -/
def takeChunk (s : State) (b : Bucket) (p : Packet) : State :=
  let c := chunkOf p
  if !b.agrees p.src c then
    withdrawBucket (addFld s (rid .colCnt b.fn) 24 8 1) b stBad 0xB4 3
  else
    let b := b.progress s.time
    let b := { b with resent := b.resent || p.retried,
                      recvCcw := if c.ccw then b.recvCcw ++ p.payload else b.recvCcw,
                      recvCw := if c.ccw then b.recvCw else b.recvCw ++ p.payload }
    let badScale := !b.mx && decide (c.phase ≠ 2 ∧ c.tscale ≠ b.tscale) && !b.prepass
    let badStep := decide (c.step ≠ b.stepNo)
    let warn := (badScale || badStep) && !b.warned
    let b := { b with warned := b.warned || warn }
    let s := putBucket s b
    let s := if warn then
        emitBucket (addFld s (rid .colCnt b.fn) 24 8 1) b 0x0802 (leBytes 2 p.src ++ leBytes 1 (bit (!badScale)))
      else s
    if c.phase = 2 then (if b.prepass then takeSum s b c.tscale else s)
    else if c.phase = 0 then
      let e0 := b.escapes
      let n := b.takeReduce c
      stageHalves (addFld (putBucket s n) (rid .colCnt b.fn) 0 16 (n.escapes - e0)) b.fn b.group b.bucket
    else putBucket s (b.takeGather c)

/-- Packets that waited for the end of a pre-pass taken, at most `fuel`. -/
def takeWaiting (fn group bucket : Nat) : Nat → State → State
  | 0, s => s
  | fuel + 1, s =>
    match findBucket s fn group bucket with
    | none => s
    | some b =>
      match b.waiting with
      | [] => s
      | p :: ps =>
        if b.prepass then s
        else takeWaiting fn group bucket fuel (takeChunk (putBucket s { b with waiting := ps }) { b with waiting := ps } p)

/-- A packet given to an open bucket: during a pre-pass only pre-pass packets are taken, the others wait. -/
def giveChunk (s : State) (b : Bucket) (p : Packet) : State :=
  let s :=
    if b.prepass && decide ((chunkOf p).phase ≠ 2) then putBucket s { b with waiting := b.waiting ++ [p] }
    else takeChunk s b p
  let s := takeWaiting b.fn b.group b.bucket (1 + b.waiting.length) s
  settleBucket s b.fn b.group b.bucket

/-! ## Matching and staging (R462–R464) -/

/-- The function of a sender's packets (R462); none where its route entry gives no address space. -/
def chunkFn (s : State) (src : Nat) : Option Nat := let f := spaceOf s src; if f ≤ 16 then some f else none

/-- Whether a delivered packet waits for room in a staging area (R463). -/
def chunkStuck (s : State) (p : Packet) : Bool :=
  p.type == 0x30 && match chunkFn s p.src with
    | none => false
    | some fn =>
      let c := chunkOf p
      decide (c.phase ≠ 4) && (findBucket s fn c.group c.bucket).isNone && (closedMark s fn c.group c.bucket).isNone
        && !bucketStale s fn c.group c.bucket && !stageRoom s fn p

/-- Class-3 credits held back are given back on the ports that have no packet waiting for room (R463). -/
def releaseStage (s : State) : State :=
  (List.range 8).foldl (fun s port =>
    if (getPort s port).withheld = 0 ∨ (s.inbox.any fun x => x.1 == port && chunkStuck s x.2) = true then s
    else updPort s port fun p => { p with withheld := 0, freed := Tab.upd 0 p.freed 3 (· + p.withheld) }) s

/-- A packet for a closed or stale bucket, discarded and counted (R464). -/
def staleChunk (s : State) (fn : Nat) (p : Packet) : State :=
  let c := chunkOf p
  emitFn s fn 0x0808 7 c.cring (leBytes 2 c.group ++ leBytes 4 c.bucket ++ leBytes 2 p.src)

/-- Whether the engines that serve a concurrent ring run (R451, R487). -/
def colRuns (s : State) (r : Nat) : Bool := regionRuns s r && regionRuns s (r + 8) && !issueHold s

/-- A collective chunk packet (R462–R465). -/
def takePacket (s : State) (p : Packet) : State :=
  let taken (s : State) : State := { s with inbox := s.inbox.eraseP fun x => x.2 == p }
  let c := chunkOf p
  match chunkFn s p.src with
  | none => taken s
  | some fn =>
    if c.phase = 4 then s
    else if (closedMark s fn c.group c.bucket).isSome || bucketStale s fn c.group c.bucket then staleChunk (taken s) fn p
    else match findBucket s fn c.group c.bucket with
      | some b => if colRuns s b.cring then giveChunk (taken s) b p else s
      | none =>
        stagePacket s (taken s) fn p

/-- COLLECTIVE_CHUNK. -/
def execCollectiveChunk (packet : Packet) (s : State) : Host.Outcome State Fault Refusal :=
  whenLive s fun s =>
    if s.failStop then sendUnreachable { s with inbox := s.inbox.eraseP fun x => x.2 == packet } packet
    else releaseStage (takePacket s packet)

/-! ## Opening a bucket -/

/-- The fields of a descriptor that R443 and R444 check, with their detail codes. -/
def colFields (d : Desc) : Eng Unit := do
  let kind := field (d.W 2) 53 3
  ensure (decide (kind < 3)) stBad 0xB2
  if kind = 2 then ensure (decide (d.W 0 = 0 ∧ d.W 1 = 0 ∧ d.W 3 = 0)) stBad 0xB2
  else
    let ok (b : Nat) : Bool := decide (b % 128 < 2)
    ensure (ok (fmtOf (d.W 0)) && ok (fmtOf (d.W 1))) stBad 0xB1
    let k := resultBytes (fmtOf (d.W 0))
    let len := field (d.W 3) 0 48
    ensure (decide (0 < len ∧ len % k = 0)) stBad 0xB1
    let e := len / k
    let size (b : Nat) : Nat := (if flag b 7 then 64 else 0) + e * resultBytes b
    let x := vaOf (d.W 0)
    let y := vaOf (d.W 1)
    let same := decide (x = y ∧ fmtOf (d.W 0) = fmtOf (d.W 1))
    ensure (same || decide (x + size (fmtOf (d.W 0)) ≤ y ∨ y + size (fmtOf (d.W 1)) ≤ x)) stBad 0xB1

/-- Elements of a bucket. -/
def colElements (d : Desc) : Nat := if field (d.W 2) 53 3 = 2 then 0 else field (d.W 3) 0 48 / resultBytes (fmtOf (d.W 0))

/-- Whether a port-retraining token keeps a ring's buckets waiting (R512). -/
def colTokenHeld (s : State) (ringWord : Nat) : Bool :=
  let held (p : Nat) : Bool := decide (p < 8) && tokenHeld s 5 p
  held (field ringWord 48 4) || held (field ringWord 52 4)

/-- A bucket as its descriptor opens it. -/
def newBucket (w : Work) (e : ColEntry) (stepNo now record : Nat) (own : List Nat) : Bucket :=
  let d := w.desc
  let r := field (d.W 2) 48 3
  let x := e.ring r
  let mx := flag (d.W 2) 51
  { fn := w.fn, group := field (d.W 2) 0 16, bucket := field (d.W 2) 16 32, ring := w.ring, index := w.index, cring := r,
    growth := e.growth, kind := field (d.W 2) 53 3, mx := mx, ordered := flag (d.W 2) 52, elements := colElements d, n := e.n,
    pos := field x 32 16, next := field x 0 16, prev := field x 16 16, nextPort := field x 48 4, prevPort := field x 52 4,
    wdog := e.wdog, stepNo := stepNo, tscale := leAt e.bytes 24 4, own := own, prepass := !mx && !flag e.flags 1,
    progressAt := now, deadline := now + e.wdog * cyclesPerMs, record := record }

/-- A lone member's bucket: its result is the local contribution, with no wire encoding (R38, R445). -/
def Bucket.alone (b : Bucket) : Bucket :=
  { b with gotChunks := [0],
           summaries := [(0, b.ownMax)],
           result := (List.range b.blocks).map fun k => (k, b.ownBlock k) }

/-- The highest bucket number of a group raised, and old marks dropped (R464). -/
def raiseHighest (s : State) (fn group bucket : Nat) : State :=
  let g := colGroup s fn group
  let h := match g.highest with
    | some h => if 0 < diff32 bucket h then bucket else h
    | none => bucket
  putColGroup s { g with highest := some h, closed := g.closed.filter fun c => decide (diff32 h c.1 ≤ 4095) }

/-- A new bucket's first sends (R447, R458), then the packets that came early (DEDUCED, log entry 32). -/
def startBucket (s : State) (b : Bucket) : State :=
  let s :=
    if b.n = 1 then
      let s := putBucket s { b.alone with prepass := false }
      if b.prepass then endPrepass s { b.alone with prepass := false } b.ownMax else s
    else if b.prepass then (if b.pos = 0 then sendSum s b b.ownMax else s)
    else seedBucket s b
  let early := (getFn s b.fn).staged.filter fun x => let c := chunkOf x.2; c.group == b.group && c.bucket == b.bucket
  let s := updFn s b.fn fun f => { f with staged := f.staged.filter fun x => !(early.contains x) }
  let s := settleBucket s b.fn b.group b.bucket
  early.foldl (fun s x => match findBucket s b.fn b.group b.bucket with
    | some b => giveChunk s b x.2
    | none => staleChunk s b.fn x.2) s

/-- The work of a COLLECTIVE_STEP whose bucket is not open (DEDUCED, log entry 32). -/
def openBucket (w : Work) : Eng Unit := do
  let d := w.desc
  let who := { whoOf w with coll := true }
  let group := field (d.W 2) 0 16
  let bucket := field (d.W 2) 16 32
  let r := field (d.W 2) 48 3
  act fun s => updWork s w.ring w.index fun v => { v with detail := bucket }
  let e ← readCol who group r
  colFields d
  let s ← get
  ensure (!(getRegion s r).retired && !(getRegion s (r + 8)).retired) stRegion 0xC5
  match closedMark s w.fn group bucket with
  | some (reason, seen) =>
    act fun s => markClosed s w.fn group bucket 0 seen
    if reason = 3 then failWith stAborted 0xBA
    else if reason ≠ 0 then failWith stPeer 0xB8
    else failWith stBad 0xB3
  | none => pure ()
  ensure ((findBucket s w.fn group bucket).isNone && !bucketStale s w.fn group bucket) stBad 0xB3
  if !regionRuns s r || !regionRuns s (r + 8) || 64 ≤ (s.buckets.filter fun b => b.cring == r).length || colTokenHeld s (e.ring r) then throw .wait
  let own ← if field (d.W 2) 53 3 = 2 then pure []
    else readTensor who (vaOf (d.W 0)) (fmtOf (d.W 0)) (colElements d) 0xB1
  if flag (fmtOf (d.W 1)) 7 then
    let _ ← readHdr who (vaOf (d.W 1)) (fmtOf (d.W 1)) (some (colElements d)) 0xB1
  let s ← get
  match takeRec s r with
  | (none, _) => throw (.noRecord r)
  | (some n, s) =>
    let b := newBucket w e (stepOf s w.fn) s.time n (own.map toFp32)
    set (raiseHighest { s with buckets := s.buckets ++ [b] } w.fn group bucket)
    if b.prepass then vwrite who (colVa s w.fn group + 5) (leBytes 1 (setField e.flags 2 1 1))
    act fun s => startBucket s b

/-- COLLECTIVE_STEP: it opens its bucket; once that is open, it is brought forward. -/
def collectiveStep (w : Work) : Eng Unit := do
  let s ← get
  match s.buckets.find? fun b => b.ring == w.ring && b.index == w.index with
  | some b => act fun s => settleBucket s b.fn b.group b.bucket
  | none =>
    openBucket w
    act releaseStage

/-- COLLECTIVE_STEP (R443). -/
def execCollectiveStep (ring index : Nat) (s : State) : Host.Outcome State Fault Refusal :=
  whenLive s fun s => runOp s .collectiveStep ring index collectiveStep

/-! ## Withdrawal, watchdog and slow peers -/

/-- A withdraw packet carried on to the other side of the ring (R471). -/
def forwardWithdraw (s : State) (fn : Nat) (p : Packet) : State :=
  let c := chunkOf p
  let on (b : Bucket) (s : State) : State := sendChunk s b c.ccw (p.payload.take 16 ++ leBytes 2 b.pos ++ p.payload.drop 18)
  let path (ring : Nat) : Bucket :=
    { fn := fn, group := c.group, bucket := c.bucket, ring := 0, index := 0, cring := c.cring, kind := 0, mx := false,
      ordered := false, elements := 0, n := c.n, pos := field ring 32 16, next := field ring 0 16, prev := field ring 16 16,
      nextPort := field ring 48 4, prevPort := field ring 52 4, wdog := 0, stepNo := 0, tscale := 0, own := [] }
  match findBucket s fn c.group c.bucket with
  | some b => on b s
  | none =>
    match (quiet (vread (hubWho fn) (colVa s fn c.group) 256) s).1 with
    | some bs => if getBit s (rid .colGrpBaseLo fn) 0 && (ColEntry.mk bs).ok c.cring then on (path ((ColEntry.mk bs).ring c.cring)) s else s
    | none => s

/-- An open bucket that another member withdraws (R471). -/
def withdrawnBucket (s : State) (b : Bucket) (reason : Nat) : State :=
  if b.met then s
  else
    let s := closeBucket s b (if reason = 3 then stAborted else stPeer)
    match findWork s b.ring b.index with
    | some w =>
      let w := if reason = 3 then w.fail stAborted 0xBA else w.fail stPeer 0xB8
      endWork s { w with detail := b.bucket }
    | none => s

/-- A withdraw packet (R471). -/
def takeWithdraw (s : State) (p : Packet) : State :=
  let c := chunkOf p
  match chunkFn s p.src with
  | none => s
  | some fn =>
    let reason := c.value % 256
    let first (s : State) : State :=
      let s := addFld s (rid .colCnt fn) 16 8 1
      let s := emitFn s fn 0x0805 7 c.cring (leBytes 2 c.group ++ leBytes 4 c.bucket ++ leBytes 1 reason ++ leBytes 2 p.src)
      forwardWithdraw s fn p
    match findBucket s fn c.group c.bucket with
    | some b =>
      if b.gotWithdraw then s
      else
        let b := { b with gotWithdraw := true,
                          recvCcw := if c.ccw then b.recvCcw ++ p.payload else b.recvCcw,
                          recvCw := if c.ccw then b.recvCw else b.recvCw ++ p.payload }
        withdrawnBucket (first (putBucket s b)) b reason
    | none =>
      match closedMark s fn c.group c.bucket with
      | some (r, seen) =>
        if seen then staleChunk s fn p else first (markClosed s fn c.group c.bucket r true)
      | none =>
        if bucketStale s fn c.group c.bucket then staleChunk s fn p
        else
          let s := updFn s fn fun f => { f with staged := f.staged.filter fun q =>
            let d := chunkOf q.2; !(d.group == c.group && d.bucket == c.bucket) }
          first (markClosed s fn c.group c.bucket reason true)

/-- WITHDRAW. -/
def execWithdraw (packet : Packet) (s : State) : Host.Outcome State Fault Refusal :=
  whenPacket s packet fun s => if (chunkOf packet).phase = 4 then releaseStage (takeWithdraw s packet) else s

/-- BUCKET_WATCHDOG: the deadline of an open bucket passes (R469) (DESIGN CHOICE, log entry 60). -/
def execBucketWatchdog (fn group bucket : Nat) (s : State) : Host.Outcome State Fault Refusal :=
  whenLive s fun s =>
    match findBucket s fn group bucket with
    | some b =>
      if b.met || decide (s.time < b.deadline) then s
      else releaseStage (withdrawBucket (emitBucket s b 0x0807 []) b stTimeout 0xB9 2)
    | none => s

/-- The deadline of a bucket after a notice with a delay in ms (R468). -/
def Bucket.extended (b : Bucket) (now delay : Nat) : Nat :=
  max b.deadline (min (now + delay * cyclesPerMs) (b.progressAt + b.wdog * cyclesPerMs + 10000 * cyclesPerMs))

/-- One bucket's deadline moved by a notice, with its event. -/
def extendBucket (delay src : Nat) (s : State) (b : Bucket) : State :=
  let d := b.extended s.time delay
  if d = b.deadline then s
  else
    let s := updBucket s b.fn b.group b.bucket fun b => { b with deadline := d }
    emitBucket s b 0x0806 (leBytes 2 src ++ leBytes 2 (min 65535 (ceilDiv (d - b.deadline) cyclesPerMs)))

/-- SLOW_PEER_NOTICE (R440, R468). -/
def execSlowPeerNotice (packet : Packet) (s : State) : Host.Outcome State Fault Refusal :=
  whenPacket s packet fun s =>
    let group := leAt packet.payload 0 2
    let delay := leAt packet.payload 2 2
    match chunkFn s packet.src with
    | none => s
    | some fn =>
      let s := emitFn s fn 0x070A 1 0 (leBytes 2 group ++ leBytes 2 packet.src ++ leBytes 2 delay ++ leBytes 1 (leAt packet.payload 4 1))
      (s.buckets.filter fun b => b.fn == fn && b.group == group && !b.met).foldl (extendBucket delay packet.src) s

/-! ## Registers (R473) -/

/-- COLLECTIVE_CONFIG_WRITE: a write to COL_GRP_BASE, COL_STAGE or COL_DIG by the function that owns it (R473). Setting EN of
COL_DIG starts its count of records afresh (Table 12-7). -/
def execCollectiveConfigWrite (fn : Nat) (reg : RegName) (value : W32) (s : State) : Host.Outcome State Fault Refusal :=
  whenReg s fn (rid reg fn) fun s =>
    if reg ∉ [.colGrpBaseLo, .colGrpBaseHi, .colStageLo, .colStageHi, .colDigLo, .colDigHi] then s
    else if s.buckets.any fun b => b.fn == fn then refusedWrite s fn 3 0 value.toNat
    else
      let dig := rid .colDigLo fn
      let was := getBit s dig 0
      let s := writePair s (rid reg fn) value.toNat
      let s := if was = false ∧ getBit s dig 0 = true then setReg s (rid .colDigIdx fn) 0 else s
      releaseStage s

end Sys2Proof.Machine
end

