-- ==== Sys2Proof/Machine/Dmu.lean ====
section
/-! DEFINITION. The digital matrix units: DMU_PRODUCT (R276–R292, R304) and DMU_PAIR (R296–R300). -/

namespace Sys2Proof.Machine

/-- The refusals that a product's fields alone give (R278–R280). -/
def productFields (w : Work) : Eng Unit := do
  let d := w.desc
  let epi := field (d.W 3) 54 2
  ensure (!formatRefused .dmuProduct d) stBad 0x60
  ensure (decide (field (d.W 3) 0 16 ≠ 0 ∧ field (d.W 3) 16 16 ≠ 0)) stBad 0x61
  ensure (decide (field (d.W 3) 32 16 ≠ 0 ∨ (d.W 1 = 0 ∧ ¬ flag (d.W 3) 49))) stBad 0x61
  ensure (decide (field (d.W 3) 51 3 ≤ 4)) stBad 0x63
  ensure (decide (epi ≠ 3 ∧ (epi = 0 ∨ d.ext) ∧ (epi ≠ 0 ∨ d.X 0 = 0))) stBad 0x64

/-- The block size of a block-scaled output, 0 for any other, once its header is found to fit (R277). -/
def outputBlock (w : Who) (word rows cols : Nat) : Eng Nat := do
  if flag (fmtOf word) 7 then
    let hg ← readHdr w (vaOf word) (fmtOf word) (some (rows * cols)) 0x61
    if fmtScaled hg.1.fmt then
      ensure (decide (cols % 2 ^ hg.1.log2 = 0)) stBad 0x61
      pure (2 ^ hg.1.log2)
    else pure 0
  else pure 0

/-- The values of an epilogue tensor; none are read for epilogue 0. -/
def epilogueValues (w : Who) (epi word count : Nat) : Eng (List Val) :=
  if epi = 0 then pure [] else readTensor w (vaOf word) (fmtOf word) count 0x61

/-- Results after the epilogue (R287). -/
def afterEpilogue (f : Bin) (epi : Nat) (rs : List Nat) (es : List Val) : List Nat :=
  if epi = 0 then rs else (rs.zip es).map fun p => epilogue f epi p.1 p.2

/-- Output tiles counted on a DMU. -/
def countTiles (dmu n : Nat) : Eng Unit := act fun s => addFld s (rid .dmuTileCnt dmu) 0 32 n

/-- Whether a DMU of a descriptor's block has come to it: it is the first of the work issued there (R292, R293). -/
def dmuTurn (s : State) (w : Work) (dmu : Nat) : Bool :=
  match w.place with
  | .block b => (if dmu = 0 then (getBlock s b).dmu0 else (getBlock s b).dmu1).head? == some (w.ring, w.index)
  | _ => true

/-- The format and header checks of an operand, before a product runs (R148). -/
def checkOperand (w : Who) (word count : Nat) : Eng Unit := do
  if flag (fmtOf word) 7 then
    let _ ← readHdr w (vaOf word) (fmtOf word) (some count) 0x61

/-- The results of element-wise work (R289): A is M × N, and without an epilogue it is converted directly. -/
def elementwise (w : Work) (f : Bin) (m n : Nat) : Eng (List Nat) := do
  let d := w.desc
  let who := whoOf w
  let epi := field (d.W 3) 54 2
  let a ← readTensor who (vaOf (d.W 0)) (fmtOf (d.W 0)) (m * n) 0x61
  let es ← epilogueValues who epi (d.X 0) (m * n)
  let rows := (matOf .nan m n (flag (d.W 3) 48) a.toArray).flatten
  pure (if epi = 0 then rows.map fp64.round
    else (rows.zip es).map fun p => f.round (if epi = 1 then p.1.add p.2 else p.1.mul p.2))

/-- The results of a product (R284–R288, R304). -/
def productResults (w : Work) (ref : Bool) (f : Bin) (m n k : Nat) : Eng (List Nat) := do
  let d := w.desc
  let who := whoOf w
  let epi := field (d.W 3) 54 2
  let a ← readOperand who (vaOf (d.W 0)) (fmtOf (d.W 0)) (m * k) 0x61
  let b ← readOperand who (vaOf (d.W 1)) (fmtOf (d.W 1)) (k * n) 0x61
  let es ← epilogueValues who epi (d.X 0) (m * n)
  let zero : Elem := ⟨.fin false 0 0, false⟩
  let rows := matOf zero m k (flag (d.W 3) 48) a
  let cols := matOf zero n k (flag (d.W 3) 49) b
  pure (afterEpilogue f epi (matProduct ref (kpOf (field (d.W 3) 51 3)) rows cols) es)

/-- The work of a DMU_PRODUCT, once its DMU has come to it and has started. -/
def dmuProduct (w : Work) : Eng Unit := do
  let d := w.desc
  let who := whoOf w
  let m := field (d.W 3) 0 16
  let n := field (d.W 3) 16 16
  let k := field (d.W 3) 32 16
  let dmu := field d.aux 0 1
  let ref := flag (d.W 3) 50 || w.refMode
  productFields w
  let block ← outputBlock who (d.W 2) m n
  checkOperand who (d.W 0) (if k = 0 then m * n else m * k)
  if k ≠ 0 then checkOperand who (d.W 1) (k * n)
  if field (d.W 3) 54 2 ≠ 0 then checkOperand who (d.X 0) (m * n)
  let go ← engineStart w 1
  if go then
    let f := if (k = 0 && decide (field (d.W 3) 54 2 = 0)) || ref then fp64 else fp32
    let rs ← if k = 0 then elementwise w f m n else productResults w ref f m n k
    let tiles := tilesOf m n block
    dmuErrors w (2 * d.target + dmu) tiles
    let x ← writeTensor who (vaOf (d.W 2)) (fmtOf (d.W 2)) 0x61 f rs
    noteWrite w x
    countTiles (2 * d.target + dmu) tiles
    endOk w

/-- The refusals that a pair's fields alone give (R296). -/
def pairFields (w : Work) : Eng Unit := do
  let d := w.desc
  ensure (!formatRefused .dmuPair d) stBad 0x60
  ensure (decide (field (d.W 3) 0 16 ≠ 0 ∧ field (d.W 3) 16 16 ≠ 0 ∧ field (d.W 3) 32 16 ≠ 0)) stBad 0x61
  ensure (d.ext && decide (field (d.W 3) 48 2 = 0 ∧ d.aux = 0)) stBad 0x62
  ensure (decide (field (d.W 3) 51 3 ≤ 4)) stBad 0x63
  ensure (decide (field (d.W 3) 54 2 < 2)) stBad 0x64

/-- Work whose failure leaves its status on its descriptor, which goes on (R300). -/
def noting (w : Work) (m : Eng Unit) : Eng Unit :=
  tryCatch m fun e => match e with
    | .fail status dcode => act fun s => updWork s w.ring w.index fun v => v.also status dcode
    | e => throw e

/-- The first product of a DMU_PAIR (R296, R298): dX(e, i) = Σ dY(e, j) × w_ij, on DMU0. -/
def pairInput (w : Work) (ref : Bool) (t r c block : Nat) : Eng Unit := do
  let d := w.desc
  let who := whoOf w
  let epi := field (d.W 3) 54 2
  let f := if ref then fp64 else fp32
  let zero : Elem := ⟨.fin false 0 0, false⟩
  let im ← readImage who (vaOf (d.W 1)) r c
  let dy ← readOperand who (vaOf (d.W 0)) (fmtOf (d.W 0)) (t * c) 0x61
  let es ← epilogueValues who epi (d.X 0) (t * r)
  let weights := (im.cols.flatten.map fun v => (⟨v, false⟩ : Elem)).toArray
  let rs := matProduct ref (kpOf (field (d.W 3) 51 3)) (matOf zero t c false dy) (matOf zero r c true weights)
  dmuErrors w (2 * d.target) (tilesOf t r block)
  let o ← writeTensor who (vaOf (d.X 0)) (fmtOf (d.X 0)) 0x61 f (afterEpilogue f epi rs es)
  noteWrite w o
  countTiles (2 * d.target) (tilesOf t r block)

/-- The second product of a DMU_PAIR (R296): dW(i, j) = Σ X(e, i) × dY(e, j), on DMU1. -/
def pairWeight (w : Work) (ref : Bool) (t r c block : Nat) : Eng Unit := do
  let d := w.desc
  let who := whoOf w
  let epi := field (d.W 3) 54 2
  let f := if ref then fp64 else fp32
  let zero : Elem := ⟨.fin false 0 0, false⟩
  let dy ← readOperand who (vaOf (d.W 0)) (fmtOf (d.W 0)) (t * c) 0x61
  let x ← readOperand who (vaOf (d.W 2)) (fmtOf (d.W 2)) (t * r) 0x61
  let es ← epilogueValues who epi (d.X 1) (r * c)
  let rs := matProduct ref (kpOf (field (d.W 3) 51 3)) (matOf zero r t true x) (matOf zero c t true dy)
  dmuErrors w (2 * d.target + 1) (tilesOf r c block)
  let o ← writeTensor who (vaOf (d.X 1)) (fmtOf (d.X 1)) 0x61 f (afterEpilogue f epi rs es)
  noteWrite w o
  countTiles (2 * d.target + 1) (tilesOf r c block)

/-- DMU0 released at the end of the first product of a pair (R300): it stops where nothing more is issued to it (Table 8-5). -/
def releasePair (w : Work) : Eng Unit := act fun s =>
  let s := match w.place with
    | .block b => updBlock s b fun k => { k with dmu0 := k.dmu0.filter fun x => !w.isAt x.1 x.2 }
    | _ => s
  let s := updWork s w.ring w.index fun v => { v with half := true }
  if dmuIdle s w 0 then stopEngine s w else s

/-- The work of a DMU_PAIR: its checks and the first product, then the second; each command is one of the two (R296–R300;
DESIGN CHOICE, log entry 94). What one of them fails with does not keep the other from its output. -/
def dmuPair (w : Work) : Eng Unit := do
  let d := w.desc
  let who := whoOf w
  let t := field (d.W 3) 0 16
  let r := field (d.W 3) 16 16
  let c := field (d.W 3) 32 16
  let ref := flag (d.W 3) 50 || w.refMode
  pairFields w
  let bx ← outputBlock who (d.X 0) t r
  let bw ← outputBlock who (d.X 1) r c
  let _ ← imageHead who (vaOf (d.W 1)) r c
  checkOperand who (d.W 0) (t * c)
  checkOperand who (d.W 2) (t * r)
  let go ← engineStart w (if w.half then 2 else 1)
  if go then
    if w.half then
      noting w (pairWeight w ref t r c bw)
      endOk w
    else
      noting w (pairInput w ref t r c bx)
      releasePair w

/-- A product's command acts once its DMU has come to the descriptor. -/
def inTurn (m : Work → Eng Unit) (w : Work) : Eng Unit := do
  let s ← get
  let dmu := if w.op = some .dmuPair then bit w.half else field w.desc.aux 0 1
  if dmuTurn s w dmu then m w else pure ()

/-- DMU_PRODUCT. -/
def execDmuProduct (ring index : Nat) (s : State) : Host.Outcome State Fault Refusal :=
  whenLive s fun s => runOp s .dmuProduct ring index (inTurn dmuProduct)

/-- DMU_PAIR. -/
def execDmuPair (ring index : Nat) (s : State) : Host.Outcome State Fault Refusal :=
  whenLive s fun s => runOp s .dmuPair ring index (inTurn dmuPair)

end Sys2Proof.Machine
end

