-- ==== Sys2Proof/Machine/HubOps.lean ====
section
/-! DEFINITION. The opcodes of the hub's management cores: NOP, CTR_WRITE, EVENT_MARK and RING_KICK (R110–R112, R121). -/

namespace Sys2Proof.Machine

/-- NOP: it completes (R110). -/
def execNop (ring index : Nat) (s : State) : Host.Outcome State Fault Refusal :=
  whenLive s fun s => runOp s .nop ring index endOk

/-- The effect of CTR_WRITE on its counter (Table 3-12, R112, R115). -/
def ctrWritten (s : State) (d : Desc) : State :=
  let n := field (d.W 0) 0 16
  let c := getCtr s n
  let v := field (d.W 1) 0 32
  putCtr s n { value := if flag (d.W 0) 16 then (c.value + v) % 2 ^ 32 else v,
               failed := c.failed && !flag (d.W 0) 17 }

/-- CTR_WRITE (R112). -/
def execCtrWrite (ring index : Nat) (s : State) : Host.Outcome State Fault Refusal :=
  whenLive s fun s => runOp s .ctrWrite ring index fun w => do
    act fun s => ctrWritten s w.desc
    endOk w

/-- A user mark written (R121). A code below 0x8000 is not one Table 3-12 allows: BAD_DESCRIPTOR (DESIGN CHOICE, log
entry 22). -/
def markEvent (d : Desc) (emit : State → Nat → List Byte → State) : Eng Unit := do
  let code := field (d.W 0) 0 16
  ensure (decide (0x8000 ≤ code)) stBad 0
  act fun s => emit s code (leBytes 8 (d.W 1) ++ leBytes 8 (d.W 2))

/-- EVENT_MARK: its record goes to the ring's event ring, from source type 0 and the issuing ring (Table 3-14). -/
def execEventMark (ring index : Nat) (s : State) : Host.Outcome State Fault Refusal :=
  whenLive s fun s => runOp s .eventMark ring index fun w => do
    markEvent w.desc fun s code detail => emitRing s ring code 0 ring detail w.desc.irq
    endOk w

/-- A kick of a device-memory ring (R111): the new shadow tail is written in the space of the ring's function, then the kick
acts as a doorbell. `remote` says that the kick comes from another node. A DISABLED ring has no DEVMEM and no PEER in force:
a kick to it gets BAD_DESCRIPTOR with 0x0A, a remote one too (DESIGN CHOICE, log entry 78). -/
def kick (w : Who) (remote : Bool) (ring tail : Nat) : Eng Unit := do
  let s ← get
  let r := getRing s ring
  if remote then ensure (r.ctx.peer || r.state == .disabled) stDenied 0x0B
  else ensure (decide (ownerOf s ring = w.fn)) stDenied 0x0C
  ensure (r.ctx.devmem && r.state != .disabled) stBad 0x0A
  vwrite { w with fn := r.fn, space := r.fn } r.ctx.hostIdxAddr (leBytes 4 tail)
  act fun s => ringDoorbell s ring

/-- RING_KICK (R111). -/
def execRingKick (ring index : Nat) (s : State) : Host.Outcome State Fault Refusal :=
  whenLive s fun s => runOp s .ringKick ring index fun w => do
    kick (whoOf w) false (field (w.desc.W 0) 0 16) (field (w.desc.W 1) 0 32)
    endOk w

end Sys2Proof.Machine
end

