-- ==== Sys2Proof/Machine/Memory.lean ====
section
/-! DEFINITION. The memory system (Memory System chapter): MEM_COPY and caravan sends (R354–R358, R431, R432), MEM_ATOMIC
and its tags (R359–R365), mode changes of segments (R344, R345), cache and scrub errors (R353, R369), stack temperatures
(R370–R373), margin scans (R374–R376) and the field memory test (R575). -/

namespace Sys2Proof.Machine

/-! ## MEM_COPY -/

/-- Bytes of an element of Table 4-2. -/
def elemBytes (c : Nat) : Nat := fmtWidth c / 8

/-- What a MEM_COPY moves: source, destination, source length, format codes, and whether it gathers (Table 3-12). -/
structure CopyOps where
  src : Nat
  dst : Nat
  len : Nat
  sfmt : Nat
  dfmt : Nat
  narrow : Bool
  deriving DecidableEq, Repr

/-- The operands of a MEM_COPY. -/
def copyOps (d : Desc) : CopyOps :=
  { src := vaOf (d.W 0), dst := vaOf (d.W 1), len := field (d.W 2) 0 48, sfmt := fmtOf (d.W 0) % 128,
    dfmt := fmtOf (d.W 1) % 128, narrow := flag (d.W 2) 50 }

/-- Whether a copy converts. -/
def CopyOps.converts (o : CopyOps) : Bool := o.sfmt != o.dfmt

/-- Bytes the copy writes. -/
def CopyOps.outBytes (o : CopyOps) : Nat :=
  if o.converts then o.len / elemBytes o.sfmt * elemBytes o.dfmt else o.len

/-- The refusals of R355 and of R356 for the fields of the narrow path, with their detail codes. A source of whole elements has
the element size of its format; a code without one of at least a byte, which equal codes allow (R354), has elements of one
byte (DESIGN CHOICE, log entry 87). `here` says that source and destination lie in one address space. -/
def copyRefusal (d : Desc) (here : Bool) : Option Nat :=
  let o := copyOps d
  if flag (fmtOf (d.W 0)) 7 || flag (fmtOf (d.W 1)) 7 || o.len == 0 then some 0x80
  else if o.converts && decide (4 < o.sfmt ∨ 4 < o.dfmt) && !o.narrow then some 0x80
  else if o.len % max 1 (elemBytes o.sfmt) ≠ 0 then some 0x80
  else if o.narrow then (if o.converts || decide (o.len % 32 ≠ 0) then some 0x82 else none)
  else if here && decide (o.src < o.dst + o.outBytes ∧ o.dst < o.src + o.len) then some 0x80
  else none

/-- The source bytes of a part of a narrow copy: `n` bytes from offset `off`, by the entries of the gather list (R356). -/
def gather (w : Who) (list : Nat) : Nat → Nat → Nat → Eng (List Byte)
  | 0, _, _ => pure []
  | fuel + 1, off, n =>
    if n = 0 then pure []
    else do
      let e ← vreadNat { w with hint := 0 } (list + 8 * (off / 32)) 8
      ensure (decide (e < 2 ^ 52 ∧ e % 32 = 0)) stBad 0x82
      let k := min n (32 - off % 32)
      let a ← vread w (e + off % 32) k
      let b ← gather w list fuel (off + k) (n - k)
      pure (a ++ b)

/-- Elements converted one by one (R132–R134, R354). -/
def convertBytes (sfmt dfmt : Nat) (bs : List Byte) : List Byte :=
  match fmtBin sfmt, fmtBin dfmt with
  | some f, some g =>
    (runs (elemBytes sfmt) bs).flatMap fun e => leBytes (elemBytes dfmt) (g.convert (f.decode (leNat e))).code
  | _, _ => bs

/-- The next part of a copy: source bytes and destination bytes from a source offset. A part ends at a granule of the
destination, or after 64 elements. -/
def partBytes (o : CopyOps) (off : Nat) : Nat :=
  if o.converts then min (o.len - off) (64 * elemBytes o.sfmt)
  else min (o.len - off) (256 - (o.dst + off) % 256)

/-- The destination offset of a source offset. -/
def CopyOps.outOff (o : CopyOps) (off : Nat) : Nat :=
  if o.converts then off / elemBytes o.sfmt * elemBytes o.dfmt else off

/-- The source bytes of a part. -/
def readPart (w : Who) (o : CopyOps) (off n : Nat) : Eng (List Byte) :=
  if o.narrow then gather w o.src (n + 1) off n else vread { w with last := o.src + o.len } (o.src + off) n

/-- A part's bytes put at the destination. -/
def writePart (w : Who) (o : CopyOps) (off : Nat) (bs : List Byte) : Eng Unit :=
  vwrite w (o.dst + o.outOff off) (if o.converts then convertBytes o.sfmt o.dfmt bs else bs)

/-- The prefix of the destination written so far, kept as the descriptor's DETAIL (R357). -/
def notePrefix (w : Work) (n : Nat) : Eng Unit :=
  act fun s => updWork s w.ring w.index fun v => { v with detail := min n (2 ^ 32 - 1) }

/-- A copy carried out part by part (DEDUCED, log entry 27). -/
def copyParts (w : Work) (who : Who) (o : CopyOps) : Nat → Nat → Eng Unit
  | 0, _ => pure ()
  | fuel + 1, off =>
    if o.len ≤ off then pure ()
    else do
      let n := partBytes o off
      let bs ← readPart who o off n
      writePart who o off bs
      notePrefix w (o.outOff (off + n))
      copyParts w who o fuel (off + n)

/-- Bytes beyond the written prefix may or may not be written (R357): a free number of further parts, each written or
not by a free value (DESIGN CHOICE, log entry 3). -/
def strayParts (who : Who) (o : CopyOps) : Nat → Nat → State → State
  | 0, _, s => s
  | fuel + 1, off, s =>
    if o.len ≤ off then s
    else
      let d := draw s
      let n := partBytes o off
      let t := if Config.freeNat d.1 % 2 = 1 then
          (quiet (do let bs ← readPart who o off n; writePart who o off bs) d.2).2
        else d.2
      strayParts who o fuel (off + n) t

/-- A copy with its open end: where it fails, what lies beyond its prefix is left open. -/
def copyAll (w : Work) (who : Who) (o : CopyOps) : Eng Unit := fun s =>
  match (copyParts w who o (o.len + 1) 0).on s with
  | (.error (.fail status dcode), t) =>
    let d := draw t
    let done := ((findWork t w.ring w.index).map (·.detail)).getD 0
    let off := if o.converts then done / elemBytes o.dfmt * elemBytes o.sfmt else done
    (.error (.fail status dcode), strayParts who o (Config.freeNat d.1) off d.2)
  | r => r

/-! ## Caravan sends (R431, R432) -/

/-- The region of a work's place. -/
def regionPlace (w : Work) : Nat := w.place.regionOf

/-- A caravan send: its fields, then its packet with a record (R431). While the record is open the send is in flight. -/
def caravanSend (w : Work) : Eng Unit := do
  let d := w.desc
  let s ← get
  let o := copyOps d
  let off := o.dst % 2 ^ 38
  let node := off / 2 ^ 22
  if recOpen s w.ring w.index then pure ()
  else
    ensure (decide (off % 2 ^ 13 = 0 ∧ 16 ≤ o.len ∧ o.len ≤ 8192 ∧ o.len % 8 = 0 ∧ fmtOf (d.W 0) = fmtOf (d.W 1)) && !o.narrow)
      stBad 0xA2
    ensure (decide (node ≠ 0xFFFF ∧ (node = nodeId s ∨ nodeId s ≠ 0xFFFF))) stBad 0xA1
    let bytes ← caravanSource w
    ensure (decide (1 ≤ leAt bytes 0 2 ∧ leAt bytes 2 2 = 0)) stBad 0xA2
    let s ← get
    ensure (decide (node = nodeId s) || (routePort s node).isSome) stPeer 0xA0
    let p : Packet := { ownPacket s node 0x40 bytes with typeWord := field off 13 9 }
    match sendTracked s (regionPlace w) p w.ring w.index with
    | some t => set t
    | none => throw (.noRecord (regionPlace w))

/-- The work of a MEM_COPY on this node. -/
def memCopy (w : Work) : Eng Unit := do
  let s ← get
  if inCaravan s w.fn (vaOf (w.desc.W 1)) then caravanSend w
  else
    match copyRefusal w.desc true with
    | some c => failWith stBad c
    | none =>
      let o := copyOps w.desc
      copyAll w { whoOf w with hint := field (w.desc.W 2) 48 2 } o
      notePrefix w o.outBytes
      endOk w

/-- MEM_COPY (R354). -/
def execMemCopy (ring index : Nat) (s : State) : Host.Outcome State Fault Refusal :=
  whenLive s fun s => runOp s .memCopy ring index memCopy

/-! ## MEM_ATOMIC -/

/-- The operation of the adders on codes of a type (R360): 0 FP32, 1 BF16, 2 INT32, 3 INT64. -/
def atomicOp (op type a b : Nat) : Nat :=
  if type < 2 then
    let f := if type = 0 then fp32 else bf16
    if op = 0 then f.add a b else if op = 1 then f.minOf a b else f.maxOf a b
  else
    let w := if type = 2 then 32 else 64
    let x := signed w a
    let y := signed w b
    unsigned w (if op = 0 then x + y else if op = 1 then min x y else max x y)

/-- Bytes of an element of a type. -/
def atomicSize (type : Nat) : Nat := if type = 1 then 2 else if type = 3 then 8 else 4

/-- What a MEM_ATOMIC does: operation, type, target, operand (0 for the immediate), elements and tag (R359). -/
structure AtomicOps where
  op : Nat
  type : Nat
  target : Nat
  operand : Nat
  count : Nat
  tag : Nat
  imm : Nat
  deriving DecidableEq, Repr

/-- The operands of a MEM_ATOMIC (Table 3-12). -/
def atomicOps (d : Desc) : AtomicOps :=
  { op := field (d.W 0) 52 4, type := field (d.W 0) 56 4, target := vaOf (d.W 0), operand := vaOf (d.W 1),
    count := field (d.W 2) 0 32, tag := field (d.W 2) 32 32, imm := d.W 3 }

/-- Whether some page of a range is host-backed. -/
def hostPages (s : State) (w : Who) (va n : Nat) : Bool :=
  n != 0 && (List.range ((va + n - 1) / 65536 - va / 65536 + 1)).any fun k =>
    match lookup s w.mmu w.space ((va / 65536 + k) * 65536) with
    | .ok t => t.host
    | _ => false

/-- Whether a MEM_ATOMIC is refused (R361). -/
def atomicRefused (s : State) (w : Who) (o : AtomicOps) : Bool :=
  let n := atomicSize o.type
  decide (2 < o.op) || decide (3 < o.type) || decide (o.target % n ≠ 0) || decide (o.operand % n ≠ 0)
    || hostPages s w o.target (o.count * n)

/-- The 256-byte granules that the targets cover (R362). -/
def AtomicOps.granules (o : AtomicOps) : Nat :=
  if o.count = 0 then 0 else (o.target + o.count * atomicSize o.type - 1) / 256 - o.target / 256 + 1

/-- The first element, and the number of elements, of the k-th granule. -/
def AtomicOps.span (o : AtomicOps) (k : Nat) : Nat × Nat :=
  let n := atomicSize o.type
  let base := (o.target / 256 + k) * 256
  let first := (max base o.target - o.target) / n
  let last := min o.count ((base + 256 - o.target) / n)
  (first, last - first)

/-- One granule updated. -/
def atomicGranule (w : Who) (o : AtomicOps) (k : Nat) : Eng Unit := do
  let n := atomicSize o.type
  let sp := o.span k
  let ops ← if o.operand = 0 then pure (List.replicate sp.2 (o.imm % 2 ^ (8 * n)))
            else do
              let bs ← vread w (o.operand + n * sp.1) (n * sp.2)
              pure ((List.range sp.2).map fun i => leAt bs (n * i) n)
  -- the access is a write: its translation must permit one
  let _ ← translate w (o.target + n * sp.1) true
  let old ← vread w (o.target + n * sp.1) (n * sp.2)
  let new := ((List.range sp.2).zip ops).flatMap fun p => leBytes n (atomicOp o.op o.type (leAt old (n * p.1) n) p.2)
  vwrite w (o.target + n * sp.1) new

/-- The granules from the k-th on, each noted when it is applied. -/
def atomicGranules (w : Who) (o : AtomicOps) (note : Nat → Eng Unit) : Nat → Nat → Eng Unit
  | 0, _ => pure ()
  | fuel + 1, k =>
    if o.granules ≤ k then pure ()
    else do
      atomicGranule w o k
      note (k + 1)
      atomicGranules w o note fuel (k + 1)

/-- Whether a tag entry is the one of a region, a function and a tag. -/
def TagEntry.isFor (region fn tag : Nat) (e : TagEntry) : Bool := e.region == region && e.fn == fn && e.tag == tag

/-- A tagged MEM_ATOMIC in its executing region (R362–R364). -/
def atomicTagged (w : Who) (region : Nat) (o : AtomicOps) : Eng Unit := do
  let s ← get
  let mine := TagEntry.isFor region w.fn o.tag
  let free : Eng Unit := act fun s => { s with tags := s.tags.filter fun e => !mine e }
  if o.count = 0 then free
  else
    let done ← match s.tags.find? mine with
      | some e =>
        ensure (decide (e.va = o.target ∧ e.count = o.count)) stBusy 0
        pure e.applied
      | none =>
        ensure (decide ((s.tags.filter fun e => e.region == region).length < 4096)) stPool 0x84
        act fun s => { s with tags := s.tags ++ [{ region := region, fn := w.fn, tag := o.tag, va := o.target, count := o.count,
                                                   applied := 0, bitmap := 0 }] }
        pure 0
    let note (k : Nat) : Eng Unit :=
      act fun s => { s with tags := s.tags.map fun e => if mine e then { e with applied := k } else e }
    atomicGranules w o note (o.granules + 1) done
    free

/-- A MEM_ATOMIC in its executing region: tagged, or applied from a granule on with the granules noted (R365). -/
def atomicRun (w : Who) (region : Nat) (o : AtomicOps) (done : Nat) (note : Nat → Eng Unit) : Eng Unit := do
  let s ← get
  ensure (!atomicRefused s w o) stBad 0x81
  if o.tag ≠ 0 then atomicTagged w region o else atomicGranules w o note (o.granules + 1) done

/-- MEM_ATOMIC (R359). -/
def execMemAtomic (ring index : Nat) (s : State) : Host.Outcome State Fault Refusal :=
  whenLive s fun s => runOp s .memAtomic ring index fun w => do
    let note (k : Nat) : Eng Unit := act fun s => updWork s w.ring w.index fun v => { v with progress := k }
    atomicRun (whoOf w) (regionPlace w) (atomicOps w.desc) w.progress note
    endOk w

/-! ## Segment modes (R344, R345) -/

/-- Whether a changed segment overlaps the oasis. -/
def overlapsOasis (s : State) (changed : Nat) : Bool :=
  let base := oasisBase s
  (List.range 64).any fun n =>
    flag changed n && decide (n * 2 ^ 34 < base + oasisUnits s * 65536 ∧ base < (n + 1) * 2 ^ 34)

/-- A map change refused. -/
def mapRefused (s : State) (mask : Nat) : State := emitFn s 0 0x0509 1 0 (leBytes 8 mask)

/-- MEM_MAP_LOCAL written: the low half is held until the high half is written (R46), which starts the change. -/
def execMapLocalWrite (high : Bool) (value : W32) (s : State) : Host.Outcome State Fault Refusal :=
  whenReg s 0 (rid (if high then .memMapLocalHi else .memMapLocalLo)) fun s =>
    let r := rid .memMapLocalLo
    let lo := if high then lowOf s r else value.toNat
    let hi := if high then value.toNat else getReg s (rid .memMapLocalHi)
    let new := lo + hi * 2 ^ 32
    let changed := new ^^^ getPair s .memMapLocalLo .memMapLocalHi
    if getBit s (rid .memMapStat) 0 then mapRefused s new
    else if !high then holdLow s r value.toNat
    else
      let s := dropLow s r
      if changed = 0 then s
      else if decide (0 < oasisUsed s) && overlapsOasis s changed then mapRefused s new
      else setBit { s with mapBusy := some (lo, hi) } (rid .memMapStat) 0 true

/-- The change ends: the lines of the changed segments are written back and invalid, the new modes hold (R344). A line with
lost sectors stays pinned (R353). -/
def execMapChangeDone (s : State) : Host.Outcome State Fault Refusal :=
  whenLive s fun s =>
    match s.mapBusy with
    | none => s
    | some m =>
      let changed := changedSegs s
      let keep (l : Nat × Line) : Bool :=
        l.2.lost != 0 || !flag changed (unmapPa s (l.1 / 2 ^ 28) (l.1 % 2 ^ 28 * 256) / 2 ^ 34)
      let s := { s with lines := s.lines.filter keep, mapBusy := none }
      issueHeld4 (setBit (setReg (setReg s (rid .memMapLocalLo) m.1) (rid .memMapLocalHi) m.2) (rid .memMapStat) 0 false)

/-! ## Errors of the slices and the stacks -/

/-- A double-bit or tag error of a slice's line (R353). -/
def execCacheSliceError (stack granule : Nat) (sectors : List Nat) (tagError : Bool) (s : State) :
    Host.Outcome State Fault Refusal :=
  whenLive s fun s =>
    let key := stack * 2 ^ 28 + granule % 2 ^ 28
    let l := Tab.get {} s.lines key
    if 16 ≤ stack ∨ l.valid = 0 then s
    else
      let s := addFld s (rid .memCacheErr stack) 16 16 1
      let hit := if tagError then 255 else sectors.foldl (fun m k => m ||| 2 ^ (k % 8)) 0
      let lost := l.dirty &&& hit
      let found := lost &&& Tab.get 0 s.detect key
      let event (dirty : Bool) (s : State) : State :=
        emitFn s 0 0x050B 7 stack (leBytes 1 stack ++ leBytes 1 (lineSet key % 256) ++ leBytes 1 (bit dirty))
      if lost = 0 then event false (invalidate s key)
      else if found = lost then
        let fails (b : Tab Nat) (k : Nat) : Tab Nat := Tab.set 0 b (sectorKey stack (granule % 2 ^ 28 * 256 + 32 * k)) 3
        event true { invalidate s key with bad := ((List.range 8).filter (flag lost)).foldl fails s.bad }
      else
        let l := { l with lost := l.lost ||| lost, valid := l.valid - (l.valid &&& lost), dirty := l.dirty - lost }
        event true (raiseAlarm { s with lines := Tab.set {} s.lines key l } 4)

/-- The patrol scrub reads a sector and finds some bytes in error (R369), each sector in the class of its check. Sector 0 begins
a cycle. A stack in self refresh is not read (R372). -/
def execPatrolScrub (stack sector badBytes : Nat) (s : State) : Host.Outcome State Fault Refusal :=
  whenLive s fun s =>
    if 16 ≤ stack ∨ 2 ^ 31 ≤ sector ∨ getBit s (rid .memScrubCfg stack) 8 = false ∨ present s 13 stack = false
      ∨ (getStack s stack).thermal = .critical then s
    else
      let s := if sector = 0 then updStack s stack fun k => { k with scrubHits := [] } else s
      let la := sector * 32
      let n := max badBytes (sectorErrs s stack la)
      if n = 0 then s
      else if !sectorDetect s stack la && decide (n ≤ 2) then correctSector s stack la
      else reportSector { s with bad := Tab.set 0 s.bad (sectorKey stack la) n } 0 stack la 1

/-! ## Temperature (R370–R373) -/

/-- The members of a collective group, other than this device (R439); none where they cannot be read. -/
def groupPeers (s : State) (fn group : Nat) : List Nat :=
  match (quiet (vread (hubWho fn) (colVa s fn group) 24) s).1 with
  | none => []
  | some bs =>
    let n := leAt bs 0 2
    match (quiet (vread (hubWho fn) (leAt bs 16 8 % 2 ^ 52) (2 * n)) s).1 with
    | none => []
    | some ms => ((List.range n).filter (· ≠ leAt bs 2 2)).map fun i => leAt ms (2 * i) 2

/-- A slow-peer notice to each other member of a group, at most once per reason in 1 ms (R439). -/
def slowPeer (reason stack : Nat) (delay : State → Nat × State) (s : State) (g : Nat × Nat) : State :=
  if s.noticeAt.any fun n => n.1 == g.1 * 65536 + g.2 && n.2.1 == reason && decide (s.time < n.2.2 + 400000) then s
  else
    let d := delay s
    let s := d.2
    let s := { s with noticeAt := (g.1 * 65536 + g.2, reason, s.time)
                        :: s.noticeAt.filter fun n => !(n.1 == g.1 * 65536 + g.2 && n.2.1 == reason) }
    let payload := leBytes 2 g.2 ++ leBytes 2 d.1 ++ leBytes 1 reason ++ leBytes 1 stack ++ leBytes 2 0 ++ leBytes 8 s.time
    (groupPeers s g.1 g.2).foldl (fun s m => sendIfRouted s (ownPacket s m 0x10 payload)) s

/-- The groups with an open bucket on this device. -/
def openGroups (s : State) : List (Nat × Nat) := (s.buckets.map fun b => (b.fn, b.group)).eraseDups

/-- The projected delay of a hot stack (R371): the time of the buckets at either rate is open, so it is a free value
of 1 to 10,000 ms (DESIGN CHOICE, log entry 3). -/
def hotDelay (s : State) : Nat × State := let d := draw s; (1 + Config.freeNat d.1 % 10000, d.2)

/-- The word and the DEGRADED bit of a stack's entry (Table 9-5). -/
def stackEntry (s : State) (stack word : Nat) (degraded : Bool) : State :=
  transomSpan s fun s => updEntry s 13 stack fun e => { e with word := word, degraded := degraded }

/-- The stack's new state in MEM_THERM_STAT and in the stack. -/
def setThermal (s : State) (stack : Nat) (t : Thermal) (code : Nat) : State :=
  setFld (updStack s stack fun k => { k with thermal := t }) (rid .memThermStat stack) 8 2 code

/-- The hot state entered, from normal or from critical (R371). The time in it runs on from where it began. -/
def enterHot (s : State) (stack c : Nat) : State :=
  let since := if (getStack s stack).thermal = .normal then s.time else (getStack s stack).hotSince
  let s := updStack (setThermal s stack .hot 1) stack fun k =>
    { k with hotSince := since, margin := k.margin.map fun m => { m with cut := true } }
  let s := stackEntry s stack 50 true
  let s := emitFn s 0 0x0505 13 stack (leBytes 1 stack ++ leBytes 1 c)
  (openGroups s).foldl (slowPeer 1 stack hotDelay) s

/-- The critical state entered (R371, R372). -/
def enterCritical (s : State) (stack c : Nat) : State :=
  let s := updStack (setThermal s stack .critical 2) stack fun k => { k with criticalSince := s.time }
  let s := stackEntry s stack 0 true
  let s := emitFn s 0 0x0506 13 stack (leBytes 1 stack ++ leBytes 1 c)
  (openGroups s).foldl (slowPeer 2 stack fun s => (10000, s)) s

/-- The critical state left for hot: the held accesses are issued again (R371, R372). -/
def leaveCritical (s : State) (stack c : Nat) : State :=
  let s := enterHot s stack c
  issueHeld4 (updStack s stack fun k => { k with held := [] })

/-- The normal state entered from hot. -/
def enterNormal (s : State) (stack : Nat) : State :=
  let ms := (s.time - (getStack s stack).hotSince) / 400000
  let s := stackEntry (setThermal s stack .normal 0) stack 100 false
  emitFn s 0 0x0507 13 stack (leBytes 1 stack ++ leBytes 4 ms)

/-- The moves of Table 9-5 on one reading (DEDUCED, log entry 29). -/
def moveThermal (s : State) (stack c : Nat) : State :=
  match (getStack s stack).thermal with
  | .normal =>
    if 105 ≤ c then enterCritical (enterHot s stack c) stack c else if 95 ≤ c then enterHot s stack c else s
  | .hot => if 105 ≤ c then enterCritical s stack c else if c ≤ 90 then enterNormal s stack else s
  | .critical =>
    if c ≤ 90 then enterNormal (leaveCritical s stack c) stack else if c ≤ 100 then leaveCritical s stack c else s
  | .lost => s

/-- A stack temperature reading (R370). -/
def execStackTemperatureSample (stack celsius : Nat) (s : State) : Host.Outcome State Fault Refusal :=
  whenLive s fun s =>
    if 16 ≤ stack then s
    else
      moveThermal (setFld s (rid .memThermStat stack) 0 8 (min celsius 255)) stack celsius

/-- A stack taken out of use: RETIRED, word 0 (Table 9-5). -/
def retireStack (s : State) (stack : Nat) : State :=
  transomSpan (setThermal s stack .lost 3) fun s =>
    updEntry s 13 stack fun e => { e with present := false, retired := true, degraded := false, word := 0 }

/-- A stack critical for 10 s is lost (R373). -/
def execStackLost (stack : Nat) (s : State) : Host.Outcome State Fault Refusal :=
  whenLive s fun s =>
    let k := getStack s stack
    if 16 ≤ stack ∨ k.thermal ≠ .critical ∨ s.time < k.criticalSince + 10000 * 400000 then s
    else
      let s := withdrawAll s (fun _ => true) stPeer 0xB8 1
      let s := k.held.foldl (fun s h => match findWork s h.1 h.2 with
        | some w => killWork s w stTimeout 0x8E
        | none => s) s
      let s := retireStack (updStack s stack fun k => { k with held := [] }) stack
      let s := raiseAlarm s 5
      issueHeld4 (emitFn s 0 0x0508 13 stack (leBytes 1 stack))

/-! ## Margining (R374–R376) -/

/-- The end of a scan. -/
def endMargin (s : State) (stack channel : Nat) (aborted : Bool) : State :=
  let r := rid .memMargCtl stack
  let s := updStack s stack fun k => { k with margin := none }
  let s := setBit (setBit (setBit s r 0 false) r 13 true) r 15 aborted
  emitFn s 0 0x050A 13 stack
    (leBytes 1 stack ++ leBytes 1 channel ++ leBytes 1 (bit aborted) ++ leBytes 2 (getReg s (rid .memMargRes stack)))

/-- MEM_MARG_CTL written with START (R374). -/
def execMarginScanStart (stack : Nat) (value : W32) (s : State) : Host.Outcome State Fault Refusal :=
  whenReg s 0 (rid .memMargCtl stack) fun s =>
    let r := rid .memMargCtl stack
    if 16 ≤ stack then s
    else
      let running := (getStack s stack).margin.isSome
      let old := getReg s r
      let s := setReg s r (writeFields (regFields r) value.toNat old)
      if running || !flag value.toNat 0 then s
      else if tokenHeld s 3 stack && (getStack s stack).thermal == .normal && present s 13 stack then
        let s := setFld (setReg s (rid .memMargRes stack) 0) r 13 3 0
        updStack s stack fun k => { k with margin := some { channel := getFld s r 8 5, above := false, step := 1 } }
      else setBit (setBit s r 0 false) r 14 true

/-- A margin scan tests its next point (R375, R376). -/
def execMarginPoint (stack : Nat) (pass : Bool) (s : State) : Host.Outcome State Fault Refusal :=
  whenLive s fun s =>
    match (getStack s stack).margin with
    | none => s
    | some m =>
      let s := if pass then setFld s (rid .memMargRes stack) (if m.above then 8 else 0) 8 m.step else s
      if m.cut then endMargin s stack m.channel true
      else if pass && decide (m.step < 32) then
        updStack s stack fun k => { k with margin := some { m with step := m.step + 1 } }
      else if m.above then endMargin s stack m.channel false
      else updStack s stack fun k => { k with margin := some { m with above := true, step := 1 } }

/-! ## The field memory test (R575) -/

/-- A stack lost at the start or in a test (R570, R573). -/
def stackFails (s : State) (stack : Nat) : State :=
  emitFn (raiseAlarm (retireStack s stack) 38) 0 0x0B05 13 stack (leBytes 1 stack ++ leBytes 1 1)

/-- Every sector of a stack written as zeros in the correction class (R574). -/
def zeroStack (s : State) (stack : Nat) : State :=
  { s with mem := s.mem.filter fun p => decide (p.1 / 2 ^ 36 ≠ stack)
           bad := s.bad.filter fun p => decide (p.1 / 2 ^ 31 ≠ stack)
           detect := s.detect.filter fun p => decide (p.1 / 2 ^ 28 ≠ stack)
           writers := s.writers.filter fun p => decide (p.1 / 2 ^ 28 ≠ stack) }

/-- The lines of a stack discarded without write-back. -/
def dropLines (s : State) (stack : Nat) : State :=
  { s with lines := s.lines.filter fun l => decide (l.1 / 2 ^ 28 ≠ stack) }

/-- MEM_TEST_CTL written with START (R575). -/
def execMemTestStart (stack : Nat) (value : W32) (s : State) : Host.Outcome State Fault Refusal :=
  whenReg s 0 (rid .memTestCtl stack) fun s =>
    let r := rid .memTestCtl stack
    if 16 ≤ stack then s
    else
      let running := (getStack s stack).test.isSome
      let s := setReg s r (writeFields (regFields r) value.toNat (getReg s r))
      if running || !flag value.toNat 0 then s
      else if tokenHeld s 4 stack && (getStack s stack).thermal == .normal && present s 13 stack then
        let s := setFld s r 2 3 0
        let s := updStack s stack fun k => { k with test := some (getBit s r 1) }
        dropLines (transomSpan s fun s => updEntry s 13 stack fun e => { e with present := false }) stack
      else setBit (setBit s r 0 false) r 4 true

/-- What one stack's test found, with its result event (R573, R574, Table 15-12). -/
def testResult (inField : Bool) (s : State) (t : StackTest) : State :=
  let s := setReg s (rid .memTestStat t.stack) (min t.repaired 65535 + min t.failed 65535 * 2 ^ 16)
  let s := zeroStack s t.stack
  emitFn s 0 0x0B06 13 t.stack (leBytes 1 t.stack ++ leBytes 2 (min t.repaired 65535) ++ leBytes 1 (bit t.lost) ++ leBytes 1 (bit inField))

/-- A field memory test ends (R575) (DESIGN CHOICE, log entry 57). -/
def execMemTestDone (test : StackTest) (s : State) : Host.Outcome State Fault Refusal :=
  whenLive s fun s =>
    let r := rid .memTestCtl test.stack
    if (getStack s test.stack).test.isNone then s
    else
      let s := updStack (testResult true s test) test.stack fun k => { k with test := none }
      let s := setBit (setBit (setBit s r 0 false) r 2 true) r 3 test.lost
      if test.lost then stackFails s test.stack
      else transomSpan s fun s => updEntry s 13 test.stack fun e => { e with present := !e.retired }

end Sys2Proof.Machine
end

