-- ==== Sys2Proof/Machine/Fabric.lean ====
section
/-! DEFINITION. The optical fabric (Optical Fabric Ports): training (R404–R411), lanes in service (R402, R412–R414), the link
layer (R415–R420), routing (R422, R425–R430), remote descriptors (R105, R358, R482), node identity and adoption
(R434–R438), and alarms of peers (R508). -/

namespace Sys2Proof.Machine

/-! ## Port registers -/

/-- An event about a port. -/
def emitPort (s : State) (port code : Nat) (detail : List Byte) : State := emitFn s 0 code 14 port (leBytes 1 port ++ detail)

/-- Logical lane `l` of a map set: receive lanes in PORT_LANEMAP_0–3, transmit lanes in 4–7 (Table 11-11). -/
def setLane (s : State) (port : Nat) (tx : Bool) (l physical : Nat) : State :=
  setFld s (rid .portLanemap port (4 * bit tx + l / 4)) (8 * (l % 4)) 5 physical

/-- A whole map set; 31 for an unused lane. -/
def setLanes (s : State) (port : Nat) (tx : Bool) (map : List Nat) : State :=
  (List.range 16).foldl (fun s l => setLane s port tx l (map.getD l 31)) s

/-- PORT_LANE_STAT.STATE of every lane: 0 spare, 1 active, 2 failed (Table 11-13). -/
def setLaneStates (s : State) (port : Nat) (active spare : List Nat) : State :=
  (List.range 18).foldl (fun s l =>
    setFld s (rid .portLaneStat port l) 12 2 (if l ∈ active then 1 else if l ∈ spare then 0 else 2)) s

/-- PORT_STAT.STATE. -/
def portCode : PortState → Nat
  | .down => 0
  | .training => 1
  | .up => 2
  | .disabled => 3

/-- A port's state set, in PORT_STAT too. -/
def setPort (s : State) (port : Nat) (st : PortState) : State :=
  setFld (updPort s port fun p => { p with state := st }) (rid .portStat port) 0 3 (portCode st)

/-- A port's Transom entry (R409): PRESENT, the active lanes and DEGRADED. -/
def portEntry (s : State) (port width : Nat) : State :=
  transomSpan s fun s => updEntry s 14 port fun e =>
    { e with present := decide (0 < width), degraded := decide (0 < width ∧ width < 16), word := width }

/-- A port leaves service: no width, no lanes (R409). -/
def closePort (s : State) (port : Nat) (st : PortState) : State :=
  let s := setPort s port st
  let s := updPort s port fun p => { p with wasUp := false, width := 0, rxMap := [], spares := [], everSettled := true }
  let s := setFld s (rid .portStat port) 4 5 0
  let s := setBit s (rid .portCtl port) 0 false
  let s := setLanes (setLanes s port false []) port true []
  withdrawPathless (portEntry s port 0)

/-- A port goes to DOWN: the alarm and the event with the step that failed (R405). -/
def portDown (s : State) (port step good : Nat) : State :=
  let s := setFld (closePort s port .down) (rid .portStat port) 12 4 step
  emitPort (raiseAlarm s 6) port 0x0702 (leBytes 1 step ++ leBytes 1 good)

/-! ## Training -/

/-- A port begins training (R404). After link loss it stays usable (R427). -/
def beginTraining (s : State) (port : Nat) (cause : TrainCause) : State :=
  let s := setPort s port .training
  updPort s port fun p => { p with wasUp := decide (cause = .linkLoss), cause := cause, trainAt := s.time }

/-- How long a port has trained, in ms. -/
def trainMs (s : State) (port : Nat) : Nat := (s.time - (getPort s port).trainAt) / cyclesPerMs

/-- The link of a port that is UP is lost: its event and count, and it trains again, keeping its sequence numbers, its replay
buffer and the flits it has accepted (R414). -/
def linkLost (s : State) (port : Nat) (retry : Bool) : State :=
  if (getPort s port).state ≠ .up then s
  else
    let s := emitPort s port 0x0705 (leBytes 1 (bit retry))
    beginTraining (addFld s (rid .portLinkCnt port) 16 8 1) port .linkLoss

/-- Light on a port that is DOWN starts training, at most once in any 1 s (R410). -/
def seeLight (s : State) (port : Nat) : State :=
  let p := getPort s port
  let due := match p.lastLight with
    | some t => decide (t + 1000 * cyclesPerMs ≤ s.time)
    | none => true
  if p.state = .down ∧ due = true ∧ p.overTemp = false then
    beginTraining (updPort s port fun p => { p with lastLight := some s.time }) port .signalDetect
  else s

/-- A write of RETRAIN (R411): refused while the port trains, or is held down by its engine's temperature (R532), or without the
token. A port that DISABLE holds does not train either (DESIGN CHOICE, log entry 95). -/
def retrainPort (s : State) (port : Nat) : State :=
  if (getPort s port).state = .training ∨ (getPort s port).overTemp = true ∨ tokenHeld s 5 port = false
      ∨ (getEntry s 14 port).retired = true ∨ (getPort s port).state = .disabled then setBit s (rid .portCtl port) 2 true
  else
    let s := setBit (setBit s (rid .portCtl port) 2 false) (rid .portCtl port) 0 true
    beginTraining s port .retrain

/-- PORT_TRAINING: training starts on one of the causes of R404. At Stage 2 every port trains. -/
def execPortTraining (port : Nat) (cause : TrainCause) (s : State) : Host.Outcome State Fault Refusal :=
  whenLive s fun s =>
    if 8 ≤ port then s
    else match cause with
      | .stage2 =>
        if s.start.phase = .stage2 ∧ (getPort s port).state = .down ∧ (getPort s port).everSettled = false then
          beginTraining s port .stage2
        else s
      | .retrain => retrainPort s port
      | .linkLoss => linkLost s port false
      | .signalDetect => seeLight s port

/-- A receiver's capability (R407). -/
def capability (good : Nat) : Nat := if 16 ≤ good then 16 else if 12 ≤ good then 12 else if 8 ≤ good then 8 else if 4 ≤ good then 4 else 0

/-- Good lanes in the order of R408: all but 8 and 17 first, then 8, then 17. -/
def laneOrder (good : List Nat) : List Nat :=
  ((List.range 18).filter fun l => l ≠ 8 ∧ l ≠ 17 ∧ l ∈ good) ++ [8, 17].filter fun l => l ∈ good

/-- Flits of packets torn by a discarded replay buffer taken out of a queue: those of a class before its next first flit. -/
def dropTorn : List Nat → List TxFlit → List TxFlit
  | _, [] => []
  | seen, f :: fs =>
    if f.first || f.cls ∈ seen then f :: dropTorn (f.cls :: seen) fs else dropTorn seen fs

/-- The flits from a sequence number on are sent again, in order, with RESENT (R419). -/
def resendFlits (s : State) (port seq : Nat) : State :=
  let todo := (getPort s port).replay.dropWhile fun f => f.seq != seq
  let s := updPort s port fun p => { p with ackAt := s.time }
  todo.foldl (fun s f =>
    let s := sendFlit s port 1 (f.cls + 8 * bit f.first + 16 * bit f.last + 32) f.seq f.payload
    updPort s port fun p => { p with replay := p.replay.map fun g => if g.seq = f.seq then { g with sends := g.sends + 1 } else g }) s

/-- The fabric records whose packets leave by a port, or go to a node, resent (Table 13-3). -/
def resendRecs (s : State) (p : FabRec → Bool) : State :=
  (s.fabRecs.filter fun r => p r && !r.heldBy).foldl resendRec s

/-- Buffers of a port's receiver by class, in flits (R420). -/
def rxBuffers : List Nat := [16, 64, 512, 512, 512]

/-- The free space of each of them. -/
def rxFree (p : Port) : List Nat :=
  (List.range 5).map fun c =>
    rxBuffers.getD c 0 - (Tab.get [] p.partials c).length / 244 - (if c = 3 then p.withheld else 0)

/-- A feed's measured power stored, with the event of a low one (R402). -/
def measureFeed (port : Nat) (s : State) (x : Int × Nat) : State :=
  let s := setFld s (rid .portFeedStat port) (16 * x.2) 12 (unsigned 12 x.1)
  if feedLow x.1 then emitPort s port 0x0706 (leBytes 1 x.2 ++ leBytes 2 (unsigned 16 x.1)) else s

/-- The transmit lanes of the feeds measured low. -/
def lowLanes (feeds : List Int) : List Nat :=
  (List.range 18).filter fun l => feedLow (feeds.getD (feedOf l) 1200)

/-- A port comes UP (R408, R409, R420, R435). When its partner has another identity than before, the replay buffer and
the accepted partial packets are discarded, both ends number from 0 again (DEDUCED, log entry 31), and the records
behind the port resend (R414, Table 13-3). -/
def bringUp (s : State) (port width : Nat) (t : Training) : State :=
  let peer := rid .portPeer port
  let same := decide (getFld s peer 0 16 = t.peerNode ∧ getFld s (rid .portPeerEpoch port) 0 16 = t.peerEpoch)
  let order := laneOrder t.goodRx
  let rx := order.take width
  let spare := order.drop width
  let s := setFld (setPort s port .up) (rid .portStat port) 4 5 width
  let s := setBit s (rid .portCtl port) 0 false
  let s := setFld (setFld s peer 0 16 t.peerNode) peer 16 3 t.peerPort
  let s := setFld s (rid .portPeerEpoch port) 0 16 t.peerEpoch
  let s := setLanes (setLanes s port false rx) port true (t.peerMap.take width)
  let s := setLaneStates s port rx spare
  let s := updPort s port fun p => { p with
    wasUp := false
    width := width
    rxMap := rx
    spares := spare
    degraded := []
    freed := []
    withheld := 0
    quietAt := s.time
    ackAt := s.time
    nakOut := false
    everSettled := true
    credits := ((List.range 5).map fun c => (c, t.credits.getD c 0)).filter fun x => x.2 != 0 }
  let s := if same then s
    else updPort s port fun p =>
      { p with replay := [], partials := [], resentSeen := [], nextSeq := 0, expected := 0, queue := dropTorn [] p.queue }
  let s := portEntry s port width
  let s := emitPort s port 0x0701 (leBytes 1 width ++ leBytes 2 t.peerNode)
  let s := send s (.identity port (nodeId s) (getFld s (rid .fabNodeEpoch) 0 16) (rxFree (getPort s port)))
  let s := match (getPort s port).replay.head? with
    | some f => resendFlits s port f.seq
    | none => s
  let s := if same then s else resendRecs s fun r => routePort s r.packet.dst == some port
  pump s port

/-- What training has measured is stored, and told to the partner (R402, R408); its duration stands in PORT_STAT. -/
def trainingFound (s : State) (port width : Nat) (x : Training) : State :=
  let s := setFld s (rid .portStat port) 16 10 (min (trainMs s port) 1023)
  let s := (x.feeds.zip [0, 1]).foldl (measureFeed port) s
  send s (.trainFrame port (lowLanes x.feeds) ((laneOrder x.goodRx).take width))

/-- PORT_UP: training has completed (R407, R435). After 500 ms it is too late (R405). -/
def execPortUp (port : Nat) (training : Training) (s : State) : Host.Outcome State Fault Refusal :=
  whenLive s fun s =>
    if 8 ≤ port ∨ (getPort s port).state ≠ .training then s
    else
      let good := (laneOrder training.goodRx).length
      let width := min (capability good) (capability training.peerCapability)
      let late := decide (500 < trainMs s port)
      let s := trainingFound s port width training
      if late then portDown s port 6 good
      else if width = 0 then portDown s port 4 good
      else if training.peerNode = nodeId s ∧ nodeId s ≠ 0xFFFF then
        let s := emitFn s 0 0x070C 14 port (leBytes 2 training.peerNode ++ leBytes 1 1 ++ leBytes 1 port)
        portDown s port 6 good
      else bringUp s port width training

/-- PORT_TRAINING_TIMEOUT: the port is not UP within 500 ms (R405). -/
def execPortTrainingTimeout (port step goodLanes : Nat) (s : State) : Host.Outcome State Fault Refusal :=
  whenLive s fun s =>
    if 8 ≤ port ∨ (getPort s port).state ≠ .training ∨ trainMs s port < 500 then s
    else portDown (setFld s (rid .portStat port) 16 10 500) port step goodLanes

/-- SIGNAL_DETECT: light on at least 4 receive lanes (R410). -/
def execSignalDetect (port lanes : Nat) (s : State) : Host.Outcome State Fault Refusal :=
  whenLive s fun s => if 8 ≤ port ∨ lanes < 4 then s else seeLight s port

/-- RETRAIN: a write of PORT_CTL.RETRAIN (R411). -/
def execRetrain (port : Nat) (s : State) : Host.Outcome State Fault Refusal :=
  whenReg s 0 (rid .portCtl port) fun s => retrainPort s port

/-- DISABLE: a write of PORT_CTL.DISABLE (R411, Table 11-10). A port that was DISABLED may train again under R410. -/
def execDisable (port : Nat) (disable : Bool) (s : State) : Host.Outcome State Fault Refusal :=
  whenReg s 0 (rid .portCtl port) fun s =>
    if !tokenHeld s 5 port || (getEntry s 14 port).retired then setBit s (rid .portCtl port) 2 true
    else
      let s := setBit (setBit s (rid .portCtl port) 2 false) (rid .portCtl port) 1 disable
      if disable then closePort s port .disabled
      else if (getPort s port).state = .disabled then setPort s port .down
      else s

/-! ## Lanes in service -/

/-- LANE_FAIL: a receive lane in service fails (R412, R413). The good spare taken is the first in the order of R408,
and the swap is asked of the partner with a link-control flit (its layout: log entry 20). A spare that fails is a
spare no more (DESIGN CHOICE, log entry 72). -/
def execLaneFail (port lane : Nat) (s : State) : Host.Outcome State Fault Refusal :=
  whenLive s fun s =>
    let p := getPort s port
    if 8 ≤ port ∨ p.state ≠ .up then s
    else if lane ∈ p.spares then
      setFld (updPort s port fun p => { p with spares := p.spares.erase lane }) (rid .portLaneStat port lane) 12 2 2
    else if lane ∉ p.rxMap then s
    else
      let l := p.rxMap.idxOf lane
      let s := setFld s (rid .portLaneStat port lane) 12 2 2
      match p.spares with
      | n :: rest =>
        let s := sendFlit s port 2 0 0 (leBytes 1 2 ++ leBytes 1 l ++ leBytes 1 n)
        let s := updPort s port fun p => { p with spares := rest, rxMap := p.rxMap.set l n }
        let s := setFld (setLane s port false l n) (rid .portLaneStat port n) 12 2 1
        emitPort (addFld s (rid .portLinkCnt port) 24 8 1) port 0x0703 (leBytes 1 l ++ leBytes 1 lane ++ leBytes 1 n)
      | [] =>
        if lane ∈ p.degraded then s
        else emitPort (updPort s port fun p => { p with degraded := p.degraded ++ [lane] }) port 0x0704 (leBytes 1 lane)

/-- LINK_LOSS (R414). -/
def execLinkLoss (port : Nat) (retryLimit : Bool) (s : State) : Host.Outcome State Fault Refusal :=
  whenLive s fun s => if 8 ≤ port then s else linkLost s port retryLimit

/-- LASER_FEED_LOW: a feed measured below +12.0 dBm (R402); the power in 0.01 dBm. -/
def execLaserFeedLow (port feed : Nat) (power : Int) (s : State) : Host.Outcome State Fault Refusal :=
  whenLive s fun s =>
    if 8 ≤ port ∨ 2 ≤ feed ∨ feedLow power = false then s else measureFeed port s (power, feed)

/-! ## The link layer -/

/-- A NAK that names the sequence number expected (R418; its layout: log entry 20). -/
def sendNak (s : State) (port : Nat) : State :=
  sendFlit (updPort s port fun p => { p with quietAt := s.time }) port 2 0 0 (leBytes 1 1 ++ leBytes 2 (getPort s port).expected)

/-- A flit discarded: the first after an accepted flit sends a NAK (R418). -/
def discardFlit (s : State) (port : Nat) : State :=
  if (getPort s port).nakOut then s else sendNak (updPort s port fun p => { p with nakOut := true }) port

/-- The oldest unacknowledged flit has been sent 9 times (R419). -/
def retryLimit (s : State) (port : Nat) : Bool :=
  match (getPort s port).replay.head? with
  | some f => decide (9 ≤ f.sends)
  | none => false

/-- A resend acted on: counted, or the link is lost at the retry limit (R419). -/
def actResend (s : State) (port seq : Nat) : State :=
  if (getPort s port).state ≠ .up then s
  else if retryLimit s port then linkLost s port true
  else resendFlits (addFld s (rid .portLinkCnt port) 0 16 1) port seq

/-- Flits acknowledged up to a sequence number leave the replay buffer; the buckets they belonged to have made progress
(R417, R466, R468). -/
def takeAck (s : State) (port seq : Nat) : State :=
  let p := getPort s port
  if p.replay.any fun f => f.seq == seq then
    let n := p.replay.findIdx (fun f => f.seq == seq) + 1
    let tags := ((p.replay.take n).filterMap (·.tag)).eraseDups
    let s := updPort s port fun p => { p with replay := p.replay.drop n, ackAt := s.time }
    tags.foldl (fun s t =>
      settleBucket (updBucket s t.1 t.2.1 t.2.2 fun b => b.progress s.time) t.1 t.2.1 t.2.2) s
  else s

/-- A packet flit in sequence accepted (R418, R420, R425). The buffers of a packet are free when it is whole; class-3 buffers
are held back while the staging area keeps a packet of the port waiting (R463). -/
def acceptFlit (s : State) (port flags : Nat) (payload : List Byte) : State :=
  let c := flags % 8
  let p := getPort s port
  let old := if flag flags 3 then [] else Tab.get [] p.partials c
  let bytes := old ++ payload
  let seen := (if flag flags 3 then 0 else Tab.get 0 p.resentSeen c) + bit (flag flags 5)
  let s := updPort s port fun p =>
    { p with expected := (p.expected + 1) % 4096, nakOut := false, sinceAck := p.sinceAck + 1, quietAt := s.time }
  let s :=
    if flag flags 4 then
      let n := bytes.length / 244
      let hold := c == 3 && s.inbox.any fun x => x.1 == port && chunkStuck s x.2
      let k := packetOf bytes
      let k := { k with retried := k.retried || decide (0 < seen) }
      updPort { s with arrived := s.arrived ++ [(port, k)] } port fun p => { p with
        partials := Tab.set [] p.partials c []
        resentSeen := Tab.set 0 p.resentSeen c 0
        withheld := if hold then p.withheld + n else p.withheld
        freed := if hold then p.freed else Tab.upd 0 p.freed c (· + n) }
    else updPort s port fun p => { p with partials := Tab.set [] p.partials c bytes, resentSeen := Tab.set 0 p.resentSeen c seen }
  if 64 ≤ (getPort s port).sinceAck then sendFlit s port 0 0 0 [] else s

/-- A link-control flit acted on: a NAK, or the partner's lane swap (R412, R419). -/
def linkControl (s : State) (port : Nat) (payload : List Byte) : State :=
  if leAt payload 0 1 = 1 then actResend s port (leAt payload 1 2)
  else if leAt payload 0 1 = 2 ∧ leAt payload 1 1 < 16 then setLane s port true (leAt payload 1 1) (leAt payload 2 1)
  else s

/-- FLIT_RECEIVE: 256 bytes under Table 11-3 (R415–R420). -/
def execFlitReceive (port : Nat) (flit : List Byte) (s : State) : Host.Outcome State Fault Refusal :=
  whenLive s fun s =>
    if 8 ≤ port ∨ (getPort s port).state ≠ .up then s
    else if flit.length ≠ 256 ∨ leAt flit 252 4 ≠ crc32 (flit.take 252) then discardFlit s port
    else
      let type := leAt flit 0 1
      let flags := leAt flit 1 1
      let ack := leAt flit 4 2
      let credit := leAt flit 6 2
      let payload := (flit.drop 8).take 244
      let s := if flag ack 15 then takeAck s port (ack % 4096) else s
      let s := if flag credit 15 then
          updPort s port fun p => { p with credits := Tab.upd 0 p.credits (field credit 12 3) (· + credit % 4096) }
        else s
      let s :=
        if type = 1 then
          (if leAt flit 2 2 = (getPort s port).expected then acceptFlit s port flags payload else discardFlit s port)
        else if type = 2 then linkControl s port payload
        else s
      pump s port

/-- NAK: the sender resends from the sequence number named (R419). -/
def execNak (port seq : Nat) (s : State) : Host.Outcome State Fault Refusal :=
  whenLive s fun s => if 8 ≤ port then s else actResend s port seq

/-- NAK_REPEAT_TIMER: 2 µs with no accepted flit (R418). -/
def execNakRepeatTimer (port : Nat) (s : State) : Host.Outcome State Fault Refusal :=
  whenLive s fun s =>
    let p := getPort s port
    if 8 ≤ port ∨ p.state ≠ .up ∨ p.nakOut = false ∨ s.time < p.quietAt + 800 then s else sendNak s port

/-- ACK_TIMER: an acknowledgement within 200 ns of the flits accepted, at the latest (R418). -/
def execAckTimer (port : Nat) (s : State) : Host.Outcome State Fault Refusal :=
  whenLive s fun s =>
    let p := getPort s port
    if 8 ≤ port ∨ p.state ≠ .up ∨ (p.sinceAck = 0 ∧ p.freed = []) then s else sendFlit s port 0 0 0 []

/-- RESEND_TIMEOUT: no acknowledgement has advanced for 4 µs, nor have flits been resent meanwhile (R419). -/
def execResendTimeout (port : Nat) (s : State) : Host.Outcome State Fault Refusal :=
  whenLive s fun s =>
    if 8 ≤ port ∨ s.time < (getPort s port).ackAt + 1600 then s
    else match (getPort s port).replay.head? with
      | some f => actResend s port f.seq
      | none => s

/-! ## Routing -/

/-- A packet discarded in routing, with its event, and a notice to its source where R428 asks for one. -/
def routeDiscard (s : State) (p : Packet) (reason : Nat) : State :=
  let s := emitFn s 0 0x0707 1 0 (leBytes 2 p.dst ++ leBytes 2 p.src ++ leBytes 1 reason)
  if reason = 2 then s else sendUnreachable s p

/-- Whether a port discards a packet for its source's epoch (R437). -/
def staleEpoch (s : State) (port : Nat) (p : Packet) : Bool :=
  decide (getFld s (rid .portPeer port) 0 16 = p.src ∧ p.srcEpoch < getFld s (rid .portPeerEpoch port) 0 16)

/-- A packet for this node: delivered, or answered at fail-stop (R506). -/
def deliver (s : State) (p : Packet) (port : Nat) : State :=
  if s.failStop ∧ 2 ≤ (packetClass p.type).getD 0 then sendUnreachable s p
  else { s with inbox := s.inbox ++ [(port, p)] }

/-- A packet that has been received, or comes from this device, routed (R422, R427, R428, R434, R437, R438). -/
def routePacket (s : State) (p : Packet) (arrived : Option Nat) : State :=
  match packetClass p.type with
  | none => routeDiscard s p 2
  | some c =>
    let stale := match arrived with | some port => staleEpoch s port p | none => false
    let adopt := rid .fabAdopt
    if stale then
      let port := arrived.getD 0
      emitPort s port 0x070B (leBytes 2 p.src ++ leBytes 2 p.srcEpoch)
    else if nodeId s = 0xFFFF ∧ 2 ≤ c then s
    else if getBit s adopt 16 = true ∧ p.dst = getFld s adopt 0 16 ∧ p.dst ≠ nodeId s then s
    else if p.dst = nodeId s then deliver s p (arrived.getD 8)
    else if arrived.isSome ∧ p.hops = 0 then routeDiscard s p 1
    else match routePort s p.dst with
      | none => routeDiscard s p 0
      | some port => enqueue s port { p with hops := if arrived.isSome then p.hops - 1 else p.hops }

/-- PACKET_ROUTE. -/
def execPacketRoute (packet : Packet) (arrived : Option Nat) (s : State) : Host.Outcome State Fault Refusal :=
  whenLive s fun s =>
    let s := match arrived with
      | some port => { s with arrived := s.arrived.erase (port, packet) }
      | none => s
    routePacket s packet arrived

/-! ## Remote descriptors (R105, R358, R430, R482) -/

/-- The accesses of work done here for another node: in the address space of the route entry (R426), through the hub. -/
def remoteWho (space : Nat) : Who := { ring := 65536, index := 0, fn := space, space := space, mmu := 16 }

/-- The answer of a status. -/
def statusAnswer (status dcode detail : Nat) (retried : Bool) : Answer := ⟨status, maskBit status, dcode, detail, retried⟩

/-- An answer sent to the issuing node. -/
def answerTo (s : State) (dst txn gen : Nat) (a : Answer) : State := sendIfRouted s (completionPacket s dst txn gen a)

/-- An access for another node that ends badly: its status and detail code (a granule whose detection fails is reported as
uncorrectable, log entry 28). -/
def errAnswer : Err → Nat × Nat
  | .fail st dc => (st, dc)
  | _ => (stMemory, 0x89)

/-- Work for another node run once, with its answer; work that waits has no effect, and its packet stays where it was. -/
def runRemote (s old : State) (p : Packet) (m : Eng Nat) : State :=
  match m.on s with
  | (.ok detail, t) => answerTo t p.src p.txn p.gen (statusAnswer 0 0 detail p.retried)
  | (.error (.hold _), _) | (.error .wait, _) => old
  | (.error e, t) => let x := errAnswer e; answerTo t p.src p.txn p.gen (statusAnswer x.1 x.2 0 p.retried)

/-- The bytes asked for at a time by a remote copy; what its payload header leaves of 8,192 bytes, in whole elements. -/
def copyPiece : Nat := 4096

/-- A memory read request: the issuer's record, an offset into the source of its copy, and a length (DESIGN CHOICE,
log entry 20). -/
def readRequest (s : State) (dst txn gen offset len : Nat) : Packet :=
  { ownPacket s dst 0x22 (leBytes 4 (txnWord txn gen) ++ leBytes 8 offset ++ leBytes 4 len) with txn := txn, gen := gen }

/-- The next bytes of a remote copy asked for. -/
def askPiece (s : State) (c : RemoteCopy) : State :=
  let o := copyOps (descOf c.raw none)
  sendIfRouted s (readRequest s c.src c.txn c.gen c.asked (min copyPiece (o.len - c.asked)))

/-- Whether a remote copy is the one of a node and a record. -/
def RemoteCopy.isFor (src txn : Nat) (c : RemoteCopy) : Bool := c.src == src && c.txn == txn

/-- A remote MEM_COPY begins here: its fields are checked, and its source is asked for. A resent one begins afresh (R482). -/
def startCopy (s : State) (p : Packet) (space : Nat) (d : Desc) : State :=
  match copyRefusal d false with
  | some c => answerTo s p.src p.txn p.gen (statusAnswer stBad c 0 p.retried)
  | none =>
    let c : RemoteCopy := { src := p.src, txn := p.txn, gen := p.gen, space := space, raw := d.raw, asked := 0, retried := p.retried }
    askPiece { s with remotes := c :: s.remotes.filter fun x => !x.isFor p.src p.txn } c

/-- A remote MEM_ATOMIC: applied once. The region of its first target byte's stack executes it; an untagged one that comes
again is answered as before (R365, R482). -/
def remoteAtomic (s old : State) (p : Packet) (space : Nat) (d : Desc) : State :=
  let o := atomicOps d
  match s.answered.find? fun a => a.1 == p.src && a.2.1 == p.txn && a.2.2.1 == p.gen with
  | some a => answerTo s p.src p.txn p.gen { a.2.2.2 with retried := p.retried }
  | none =>
    let w := remoteWho space
    let region := (stackAt s space o.target).getD 0
    let keep (s : State) (a : Answer) : State :=
      let rest := s.answered.filter fun x => !(x.1 == p.src && x.2.1 == p.txn)
      answerTo { s with answered := (p.src, p.txn, p.gen, a) :: rest } p.src p.txn p.gen { a with retried := p.retried }
    match (atomicRun w region o 0 fun _ => pure ()).on s with
    | (.ok _, t) => keep t (statusAnswer 0 0 0 false)
    | (.error (.hold _), _) | (.error .wait, _) => old
    | (.error e, t) => let x := errAnswer e; keep t (statusAnswer x.1 x.2 0 false)

/-- The descriptor in a remote-descriptor packet: 64 bytes, or 128 with an extension. -/
def remoteDesc (p : Packet) : Desc :=
  let n := if 128 ≤ p.payload.length then 128 else 64
  descOf (p.payload.take 64) (if n = 128 then some ((p.payload.drop 64).take 64) else none)

/-- The ring that issued a remote descriptor, as its packet says (DESIGN CHOICE, log entry 20). -/
def remoteRing (p : Packet) : Nat := leAt p.payload (p.payload.length - 4) 4

/-- A remote descriptor acted on. -/
def takeRemote (s old : State) (p : Packet) : State :=
  let space := spaceOf s p.src
  let d := remoteDesc p
  if 16 < space then answerTo s p.src p.txn p.gen (statusAnswer stDenied 0xA4 0 p.retried)
  else match opOf d.opcode with
    | some .ringKick => runRemote s old p (do kick (remoteWho space) true (field (d.W 0) 0 16) (field (d.W 1) 0 32); pure 0)
    | some .eventMark => runRemote s old p (do markEvent d (fun s code detail => emitFn s space code 0 (remoteRing p) detail); pure 0)
    | some .memCopy => startCopy s p space d
    | some .memAtomic => remoteAtomic s old p space d
    | _ => answerTo s p.src p.txn p.gen (statusAnswer stBad 0x09 0 p.retried)

/-- A packet acted on, where the act may have to wait: the state before stands then. -/
def whenInbox (s : State) (p : Packet) (f : State → State → State) : Host.Outcome State Fault Refusal :=
  whenLive s fun s =>
    let t := { s with inbox := s.inbox.eraseP fun x => x.2 == p }
    if s.failStop then sendUnreachable t p else f t s

/-- REMOTE_DESCRIPTOR (R105, R430). -/
def execRemoteDescriptor (packet : Packet) (s : State) : Host.Outcome State Fault Refusal :=
  whenInbox s packet fun t old => takeRemote t old packet

/-! ### Memory read requests and memory data (R358, R504; layouts: log entry 20) -/

/-- Memory data: the record word, the offset, a status with its detail code, what kind of data it is (1 a checkpoint's header,
2 bytes for a buddy area, 4 bytes read from one), and the bytes. -/
def dataPacket (s : State) (dst txn gen word offset status dcode kind : Nat) (bytes : List Byte) : Packet :=
  { ownPacket s dst 0x23 (leBytes 4 word ++ leBytes 8 offset ++ leBytes 1 status ++ leBytes 1 dcode ++ leBytes 1 kind
      ++ leBytes 1 0 ++ bytes) with txn := txn, gen := gen }

/-- A read request for the buddy area of a node: like that of a copy, with the node behind it (DESIGN CHOICE, log
entry 20). -/
def areaRequest (s : State) (dst node offset len : Nat) : Packet :=
  ownPacket s dst 0x22 (leBytes 4 0 ++ leBytes 8 offset ++ leBytes 4 len ++ leBytes 2 node)

/-- The buddy area set up for a node's checkpoints (Table 13-15). -/
def areaOf (s : State) (node : Nat) : Option Nat :=
  (List.range 4).find? fun k => getBit s (rid .snapAreaCtl k) 0 && getFld s (rid .snapAreaCtl k) 16 16 == node

/-- Base and size in bytes of a buddy area. -/
def areaBase (s : State) (k : Nat) : Nat := getFld s (rid .snapAreaLoc k) 16 14 * 2 ^ 26
/-- See `areaBase`. -/
def areaSize (s : State) (k : Nat) : Nat := getFld s (rid .snapAreaLoc k) 0 16 * 2 ^ 26

/-- A piece of a remote copy's source read by its issuer. -/
def readOwnPiece (w : Work) (offset len : Nat) : Eng (List Byte) :=
  readPart { whoOf w with hint := field (w.desc.W 2) 48 2 } (copyOps w.desc) offset len

/-- MEMORY_READ_REQUEST: the issuer of a remote copy reads its source, or a node with a buddy area reads the area of the node
that the request names; memory data goes back (R358, R504). -/
def execMemoryReadRequest (packet : Packet) (s : State) : Host.Outcome State Fault Refusal :=
  whenInbox s packet fun t old =>
    let word := leAt packet.payload 0 4
    let offset := leAt packet.payload 4 8
    let len := leAt packet.payload 12 4
    let area := decide (18 ≤ packet.payload.length)
    let reply (s : State) (status dcode : Nat) (bs : List Byte) : State :=
      sendIfRouted s (dataPacket s packet.src packet.txn packet.gen word offset status dcode (if area then 4 else 0) bs)
    let run (m : Eng (List Byte)) : State :=
      match m.on t with
      | (.ok bs, u) => reply u 0 0 bs
      | (.error (.hold _), _) | (.error .wait, _) => old
      | (.error e, u) => let x := errAnswer e; reply u x.1 x.2 []
    if area then
      match areaOf t (leAt packet.payload 16 2) with
      | some k =>
        if getBit t (rid .snapAreaCtl k) 1 then run (pread (hubWho 0) (areaBase t k + offset) (min len (areaSize t k - offset)))
        else reply t 0 0 []
      | none => reply t 0 0 []
    else
      match findRec t (word % 2 ^ 20) with
      | none => t
      | some r =>
        if r.gen ≠ word / 2 ^ 20 ∨ r.packet.dst ≠ packet.src then t
        else match findWork t r.ring r.index with
          | none => t
          | some w => run (readOwnPiece w offset len)

/-- The bytes of a piece written at the destination of a remote copy, in the sender's address space. -/
def writeCopyPiece (c : RemoteCopy) (offset : Nat) (bs : List Byte) : Eng Unit :=
  let o := copyOps (descOf c.raw none)
  writePart { remoteWho c.space with hint := field ((descOf c.raw none).W 2) 48 2 } o offset bs

/-- Data of a remote copy: written, and the next piece asked for, or the copy answered (R357, R358). -/
def takeCopyData (t old : State) (c : RemoteCopy) (p : Packet) : State :=
  let o := copyOps (descOf c.raw none)
  let offset := leAt p.payload 4 8
  let status := leAt p.payload 12 1
  let bs := p.payload.drop 16
  let retried := c.retried || p.retried
  let stop (s : State) (a : Answer) : State :=
    answerTo { s with remotes := s.remotes.filter fun x => !x.isFor c.src c.txn } c.src c.txn c.gen a
  let sat (n : Nat) : Nat := min n (2 ^ 32 - 1)
  if offset ≠ c.asked ∨ status ∉ statusCodes then t
  else if status ≠ 0 then stop t (statusAnswer status (leAt p.payload 13 1) (sat (o.outOff c.asked)) retried)
  else match (writeCopyPiece c offset bs).on t with
    | (.error (.hold _), _) | (.error .wait, _) => old
    | (.error e, u) => let x := errAnswer e; stop u (statusAnswer x.1 x.2 (sat (o.outOff c.asked)) retried)
    | (.ok _, u) =>
      let done := offset + bs.length
      if o.len ≤ done ∨ bs = [] then stop u (statusAnswer 0 0 (sat o.outBytes) retried)
      else
        let c := { c with asked := done, retried := retried }
        askPiece { u with remotes := u.remotes.map fun x => if x.isFor c.src c.txn then c else x } c

/-- Where the checkpoint after one starts: 64 KiB aligned (R502). -/
def ckptEnd (off len : Nat) : Nat := ceilDiv (off + len) 65536 * 65536

/-- Whether a checkpoint header follows a sequence number in a chain: a full checkpoint is the first, 0 standing before it
(Table 13-8). -/
def headerFollows (h : List Byte) (prev : Nat) : Bool :=
  decide (h.take 4 = [0x56#8, 0x54#8, 0x43#8, 0x4B#8] ∧ leAt h 4 2 = 1 ∧ leAt h 6 1 = bit (0 < prev) ∧ leAt h 16 4 = prev + 1
    ∧ 128 + 16 * leAt h 20 4 ≤ leAt h 24 8)

/-- A checkpoint ends its chain: a header that an older chain left behind it, and that would seem to follow, is made
void (R504; DESIGN CHOICE, log entry 34). -/
def voidHeader (read : State → List Byte) (void : State → State) (seq : Nat) (s : State) : State :=
  if headerFollows (read s) seq then void s else s

/-- Checkpoint data for a buddy area: VALID is clear from the first piece until the header, which comes last (R504). -/
def takeAreaData (t old : State) (p : Packet) : State :=
  let offset := leAt p.payload 4 8
  let bs := p.payload.drop 16
  match areaOf t p.src with
  | none => answerTo t p.src p.txn p.gen (statusAnswer stPool 0xC9 0 p.retried)
  | some k =>
    if areaSize t k < offset + bs.length then answerTo t p.src p.txn p.gen (statusAnswer stPool 0xC9 0 p.retried)
    else
      let head := flag (leAt p.payload 14 1) 0
      runRemote (setBit t (rid .snapAreaCtl k) 1 false) old p (do
        pwrite (hubWho 0) (areaBase t k + offset) bs
        if head then
          let after := ckptEnd offset (leAt bs 24 8)
          let at' := areaBase t k + after
          if after + 128 ≤ areaSize t k then
            act (voidHeader (fun s => (quiet (pread (hubWho 0) at' 128) s).1.getD [])
              (fun s => (quiet (pwrite (hubWho 0) at' [0#8]) s).2) (leAt bs 16 4))
          act fun s => setBit s (rid .snapAreaCtl k) 1 true
        pure 0)

/-- Bytes of a buddy area that a SNAPSHOT or SNAPSHOT_RESTORE of this node asked for: kept with its descriptor, which ends where
the read failed (R504, R505). -/
def takeAreaPart (s : State) (p : Packet) : State :=
  match findRec s p.txn with
  | none => s
  | some r =>
    if r.gen ≠ p.gen ∨ r.packet.dst ≠ p.src ∨ r.packet.type ≠ 0x22 ∨ leAt p.payload 12 1 ∉ statusCodes then s
    else
      let status := leAt p.payload 12 1
      let part : Nat × Nat × List Byte := (leAt p.payload 4 8, leAt r.packet.payload 12 4, p.payload.drop 16)
      let s := updWork (dropRec s r.txn) r.ring r.index fun w =>
        { w.answered r (statusAnswer status (leAt p.payload 13 1) 0 p.retried) with got := w.got ++ [part] }
      match findWork s r.ring r.index with
      | some w => if status = 0 then s else endWork s w
      | none => s

/-- MEMORY_DATA (R358, R504). -/
def execMemoryData (packet : Packet) (s : State) : Host.Outcome State Fault Refusal :=
  whenInbox s packet fun t old =>
    let kind := leAt packet.payload 14 1
    if flag kind 1 then takeAreaData t old packet
    else if flag kind 2 then takeAreaPart t packet
    else match t.remotes.find? fun c => c.isFor packet.src packet.txn && c.gen == packet.gen with
      | some c => takeCopyData t old c packet
      | none => t

/-! ## Route table, identity and adoption -/

/-- ROUTE_TABLE_WRITE: FAB_RT_DATA written (R426, R429). -/
def execRouteTableWrite (value : W32) (s : State) : Host.Outcome State Fault Refusal :=
  whenReg s 0 (rid .fabRtData) fun s =>
    let node := getFld s (rid .fabRtAddr) 0 16
    let s := { s with routes := Tab.set 0 s.routes node (field value.toNat 0 13) }
    let s := if getBit s (rid .fabRtAddr) 16 then setFld s (rid .fabRtAddr) 0 16 ((node + 1) % 65536) else s
    withdrawPathless s

/-- NODE_ID_WRITE: FAB_NODE_ID written while it reads 0xFFFF, or refused (R434). -/
def execNodeIdWrite (value : W32) (s : State) : Host.Outcome State Fault Refusal :=
  whenReg s 0 (rid .fabNodeId) fun s =>
    let id := field value.toNat 0 16
    if nodeId s = 0xFFFF then setFld s (rid .fabNodeId) 0 16 id
    else emitHub s 0x070C (leBytes 2 id ++ leBytes 1 0 ++ leBytes 1 0)

/-- ADOPT_WRITE: FAB_ADOPT written (R436). -/
def execAdoptWrite (value : W32) (s : State) : Host.Outcome State Fault Refusal :=
  whenReg s 0 (rid .fabAdopt) fun s =>
    writeReg s (rid .fabAdopt) value.toNat

/-- ADOPTION_NOTICE received on a port (R437): refused, or the partner's new identity is recorded and the records for it
resend (Table 13-3). -/
def execAdoptionNotice (port node epoch : Nat) (s : State) : Host.Outcome State Fault Refusal :=
  whenLive s fun s =>
    let s := { s with inbox := s.inbox.eraseP fun x => x.1 == port && x.2.type == 0x11 }
    if 8 ≤ port ∨ (getPort s port).state ≠ .up then s
    else
      let other (q : Nat) : Bool := decide (q ≠ port ∧ getFld s (rid .portPeer q) 0 16 = node
        ∧ epoch ≤ getFld s (rid .portPeerEpoch q) 0 16)
      if (upPorts s).any other then emitFn s 0 0x0709 14 port (leBytes 2 node ++ leBytes 1 1)
      else
        let s := setFld (setFld s (rid .portPeer port) 0 16 node) (rid .portPeerEpoch port) 0 16 epoch
        let s := emitFn s 0 0x0708 14 port (leBytes 2 node ++ leBytes 2 epoch ++ leBytes 1 port)
        resendRecs s fun r => r.packet.dst == node

/-! ## Alarms of peers (R508) -/

/-- PEER_ALARM: class 12 latches, and an event is written (the places in the payload: log entry 9). -/
def execPeerAlarm (packet : Packet) (s : State) : Host.Outcome State Fault Refusal :=
  whenPacket s packet fun s =>
    let x := packet.payload
    emitHub (latchAlarm s 12) 0x090B (leBytes 2 packet.src ++ leBytes 1 (leAt x 0 1) ++ leBytes 2 (leAt x 2 2))

/-- ALARM_PACKET_WINDOW_END: the 1 ms of a class on a port is over; the occurrences counted meanwhile go out in one packet,
which opens the next window (R508). -/
def execAlarmPacketWindowEnd (cls port : Nat) (s : State) : Host.Outcome State Fault Refusal :=
  whenLive s fun s =>
    match s.alarmWin.find? fun w => w.1 == cls && w.2.1 == port with
    | none => s
    | some w =>
      if s.time < w.2.2.2 + cyclesPerMs then s
      else
        let s := { s with alarmWin := s.alarmWin.filter fun x => !(x.1 == cls && x.2.1 == port) }
        if w.2.2.1 = 0 ∨ (getPort s port).state ≠ .up then s
        else sendAlarm { s with alarmWin := s.alarmWin ++ [(cls, port, 0, s.time)] } cls port w.2.2.1

end Sys2Proof.Machine
end

