-- ==== Sys2Proof/Machine/Repair.lean ====
section
/-! DEFINITION. The device identity key (R595, R596) and the signed repair record (R270–R272). -/

namespace Sys2Proof.Machine

/-- The bytes of some ASCII text. -/
def ascii (t : List Char) : List Byte := t.map fun c => BitVec.ofNat 8 c.toNat

/-- The identity secret key (R595). -/
def identitySecret (nv : NonVolatile) : List Byte :=
  (padTo 64 (Config.sha512 (ascii ['I', 'M', 'V', '-', 'V', 'T', '2', '-', 'I', 'D'] ++ nv.idSeed))).take 32

/-- The identity public key. -/
def identityPublic (nv : NonVolatile) : List Byte := padTo 32 (Config.ed25519Public (identitySecret nv))

/-- The device identifier (R596). -/
def deviceId (nv : NonVolatile) : List Byte := (padTo 64 (Config.sha512 (identityPublic nv))).take 16

/-- The bytes of a repair record that its signature covers (Table 6-6). -/
def recordBody (r : RepairRecord) : List Byte :=
  leBytes 4 r.magic ++ leBytes 2 r.version ++ leBytes 2 0 ++ leBytes 4 r.sequence ++ leBytes 4 r.entries.length ++ padTo 16 r.device
    ++ leBytes 32 0 ++ r.entries.flatMap repairBytes

/-- Whether a record copy is valid (R272). -/
def recordValid (nv : NonVolatile) (r : RepairRecord) : Bool :=
  decide (r.magic = 0x52525456 ∧ r.version = 1 ∧ r.device = deviceId nv) && Config.ed25519Verify (identityPublic nv) (recordBody r) r.signature

/-- The valid copy in a place, if any. -/
def validCopy (nv : NonVolatile) (r : Option RepairRecord) : Option RepairRecord := r.filter (recordValid nv)

/-- The copy in use: the valid one with the higher sequence number (R272). -/
def recordInUse (nv : NonVolatile) : Option RepairRecord :=
  match validCopy nv nv.record0, validCopy nv nv.record1 with
  | some a, some b => if a.sequence < b.sequence then some b else some a
  | some a, none => some a
  | none, b => b

/-- The copy that a repair-record event names, with the sequence number found in it: the one with the higher number, copy 0 where
they are equal; an erased copy counts as number 0 (DESIGN CHOICE, log entry 91). -/
def foundCopy (nv : NonVolatile) : Nat × Nat :=
  let a := (nv.record0.map (·.sequence)).getD 0
  let b := (nv.record1.map (·.sequence)).getD 0
  if a < b then (1, b) else (0, a)

/-- The copy that the next record is written to: an invalid one first, else the one with the lower sequence number (R271). -/
def nextCopy (nv : NonVolatile) : Nat :=
  match validCopy nv nv.record0, validCopy nv nv.record1 with
  | some a, some b => if b.sequence < a.sequence then 1 else 0
  | some _, none => 1
  | none, _ => 0

/-- A new signed record with some entries (R271). -/
def newRecord (nv : NonVolatile) (entries : List Repair) : RepairRecord :=
  let r : RepairRecord :=
    { sequence := ((recordInUse nv).map (·.sequence)).getD 0 + 1, entries := entries, device := deviceId nv, signature := [] }
  { r with signature := Config.ed25519Sign (identitySecret nv) (recordBody r) }

/-- The entries of the record in use, and the journal's that it lacks (R270). -/
def foldedEntries (nv : NonVolatile) : List Repair :=
  let old := ((recordInUse nv).map (·.entries)).getD []
  old ++ nv.journal.filter fun e => decide (e ∉ old)

/-- The journal folded into a new record, and its rows cleared (R270). -/
def foldJournal (nv : NonVolatile) : NonVolatile :=
  let r := newRecord nv (foldedEntries nv)
  if nextCopy nv = 0 then { nv with record0 := some r, journal := [] } else { nv with record1 := some r, journal := [] }

end Sys2Proof.Machine
end

