-- ==== Sys2Proof/Machine/Vector.lean ====
section
/-! DEFINITION. The vector engines: micro-programs and their arguments (R322–R329), the operations of Table 8-4, and CPOP
(R334, R336). -/

namespace Sys2Proof.Machine

/-! ## Instructions (Table 8-3) -/

/-- OP of an instruction word. -/
def vOp (i : Nat) : Nat := field i 0 8
/-- D. -/
def vD (i : Nat) : Nat := field i 8 5
/-- A. -/
def vA (i : Nat) : Nat := field i 13 5
/-- B. -/
def vB (i : Nat) : Nat := field i 18 5
/-- C. -/
def vC (i : Nat) : Nat := field i 23 5
/-- IMM, as its 32 bits. -/
def vImm (i : Nat) : Nat := field i 32 32

/-- The operations of Table 8-4. -/
def vectorOps : List Nat :=
  [0x01, 0x02, 0x10, 0x11, 0x12, 0x13, 0x14, 0x15, 0x16, 0x18, 0x20, 0x21, 0x22, 0x23, 0x30, 0x31, 0x40, 0x48, 0x49, 0x50, 0x7F]

/-- The scalar registers and argument entries that an instruction names; none may be above 15 (DEDUCED, log entry 26).
-/
def smallFields (i : Nat) : List Nat :=
  let o := vOp i
  if o = 0x01 then [vA i, vB i] else if o = 0x02 then [vA i, vB i, vC i] else if o = 0x40 then [vD i, vA i, vB i]
  else if o = 0x48 then [vA i] else if o = 0x50 then [vD i, vA i, vB i] else []

/-- Whether an instruction of a program of `n` is refused with 0x70 (R329). -/
def instrRefused (n i : Nat) : Bool :=
  decide (vOp i ∉ vectorOps) || decide (field i 28 4 ≠ 0)
    || (decide (vOp i = 0x48 ∨ vOp i = 0x49) && decide (n ≤ vImm i))
    || (smallFields i).any fun x => decide (15 < x)

/-- The formats that ST accepts (R327). -/
def storeFormats : List Nat := [0x00, 0x01, 0x02, 0x03, 0x04]

/-! ## Arguments (R323) -/

/-- The entry of an argument block. -/
def vArgOf (bs : List Byte) (n : Nat) : VArg :=
  let f := leAt bs (16 * n + 14) 1
  { word := leAt bs (16 * n) 8, length := leAt bs (16 * n + 8) 6, read := flag f 0, write := flag f 1, imm := flag f 2 }

/-- Whether an argument is a range argument. -/
def VArg.range (a : VArg) : Bool := a.read || a.write

/-- Whether an argument block breaks R323. -/
def argsRefused (bs : List Byte) : Bool :=
  let args := (List.range 16).map (vArgOf bs)
  (List.range 16).any (fun n => decide (field (leAt bs (16 * n + 14) 1) 3 5 ≠ 0) || decide (leAt bs (16 * n + 15) 1 ≠ 0))
    || (vArgOf bs 0).imm || decide (8 < (args.filter VArg.range).length)
    || args.any fun a => a.range && decide (field a.word 60 4 ≠ 0)

/-- The element of an argument: byte offset of its last byte's end within the argument. -/
def elemEnd (c off n : Nat) : Nat := off + areaBytes c (n + 1)

/-- The header of a headed argument. -/
def argHdr (w : Who) (a : VArg) : Eng Hdr := do
  let bs ← vread w (vaOf a.word) 64
  pure ⟨vaOf a.word, bs⟩

/-- The code of one element of an area that starts at a VA, read with its neighbours in the same bytes. -/
def readCode (w : Who) (va c n : Nat) : Eng Nat := do
  if c = 0x23 then
    let bs ← vread w (va + n / 5) 1
    pure ((areaCodes c 5 bs).getD (n % 5) 1)
  else
    let first := n * fmtWidth c / 8
    let bs ← vread w (va + first) (areaBytes c (n + 1) - first)
    pure (field (leNat bs) (n * fmtWidth c - 8 * first) (fmtWidth c))

/-- One element of an argument, rounded to FP32; +0 outside the argument (Table 8-4). -/
def loadElem (w : Who) (a : VArg) (h : Option Hdr) (n : Nat) : Eng Nat := do
  match h with
  | none =>
    let c := fmtOf a.word % 128
    if a.length < elemEnd c 0 n then pure 0
    else
      let code ← readCode w (vaOf a.word) c n
      pure (toFp32 (decodeElem c 0 0 code))
  | some h =>
    let off := areaOffset h.fmt h.log2 h.elements
    if a.length < elemEnd h.fmt off n ∨ h.elements ≤ n then pure 0
    else if h.wide then
      let s ← get
      match wideCopyOf s w.fn h with
      | none => failWith stDenied 0x40
      | some _ =>
        let bs ← pread w (h.widePa + n * areaBytes h.wideFmt 1) (areaBytes h.wideFmt 1)
        pure (toFp32 (decodeElem h.wideFmt 0 0 (leNat bs)))
    else
      let scale ← if fmtScaled h.fmt then vreadNat w (h.va + 64 + n / 2 ^ h.log2) 1 else pure 0
      let code ← readCode w (h.va + off) h.fmt n
      pure (toFp32 (decodeElem h.fmt scale h.tscale code))

/-- Elements of an argument. -/
def loadElems (w : Who) (a : VArg) (h : Option Hdr) : List (Option Nat) → Eng (List Nat)
  | [] => pure []
  | n :: rest => do
    let x ← match n with | some n => loadElem w a h n | none => pure 0
    let xs ← loadElems w a h rest
    pure (x :: xs)

/-! ## Registers -/

/-- Lanes of a vector register; of one not yet written, free values (DESIGN CHOICE, log entry 3). -/
def VecRun.lanes (r : VecRun) (n : Nat) : List Nat :=
  match r.v.find? fun p => p.1 == n with
  | some p => p.2
  | none => (List.range 256).map fun l => Config.vectorReg r.ring r.index n l % 2 ^ 32

/-- A scalar register: s0 is the iteration; of one not yet written, a free value (DESIGN CHOICE, log entry 3). -/
def VecRun.scalar (r : VecRun) (n : Nat) : Nat :=
  if n = 0 then r.iter % 2 ^ 32
  else match r.s.find? fun p => p.1 == n with
    | some p => p.2
    | none => Config.vectorReg r.ring r.index (32 + n) 0 % 2 ^ 32

/-- A vector register written. -/
def VecRun.putV (r : VecRun) (n : Nat) (xs : List Nat) : VecRun := { r with v := Tab.ins r.v n xs }

/-- A scalar register written; s0 is read-only. -/
def VecRun.putS (r : VecRun) (n x : Nat) : VecRun := if n = 0 then r else { r with s := Tab.ins r.s n (x % 2 ^ 32) }

/-- The instruction to run next; past the last one, an END (DEDUCED, log entry 26). -/
def VecRun.current (r : VecRun) : Nat := r.prog.getD r.pc 0x7F

/-- The elements that LD and ST name: sB + l × IMM, none below 0 (DEDUCED, log entry 26). -/
def VecRun.elems (r : VecRun) (i : Nat) : List (Option Nat) :=
  (List.range 256).map fun (l : Nat) =>
    let n : Int := (r.scalar (vB i) : Int) + (l : Int) * signed 32 (vImm i)
    if n < 0 then none else some n.toNat

/-! ## Running one operation -/

/-- The descriptor of a micro-program ends: its engine lets it go. -/
def vecFail (w : Work) (b status dcode : Nat) : Eng Unit :=
  act fun s => endWork (updBlock s b fun k => { k with vec := none }) (((findWork s w.ring w.index).getD w).fail status dcode)

/-- A run at the start of its iteration, with the registers it then had and nothing held. -/
def VecRun.restart (r : VecRun) : VecRun :=
  { r with pc := 0, executed := 0, v := r.v0, s := r.s0, stores := [], bytes := 0, popped := [], popStores := [] }

/-- A lane residue or register parity error (R339, Table 8-6): the iteration's stores and pops are discarded, and it runs again; the
second in one iteration escalates to the region. -/
def laneError (w : Work) (b : Nat) (r : VecRun) : Eng Unit := do
  act fun s => { s with upsets := s.upsets.erase (.lane b) }
  if r.again then throw (.escalate (b / 8) 1)
  else
    act fun s => emitFn s 0 0x0403 8 b (leBytes 2 b ++ leBytes 4 r.iter)
    act fun s => updWork s w.ring w.index fun v => v.also 3 0x78
    act fun s => updBlock s b fun k => { k with vec := some { r.restart with again := true } }

/-- One operation of the program that a block's vector engine runs, when it is the next one: `f` gives the registers it
leaves, with the instruction pointer already moved on. An iteration of more than 2^24 instructions ends the descriptor with
TIMEOUT (R329). -/
def vecStep (s : State) (b op : Nat) (f : Work → VecRun → Nat → Eng VecRun) : State :=
  match (getBlock s b).vec with
  | none => s
  | some r =>
    match findWork s r.ring r.index with
    | none => s
    | some w =>
      let i := r.current
      if vOp i ≠ op ∨ !engineRuns s w then s
      else runPiece s w (do
        let go ← engineStart w 1
        if !go then pure ()
        else if 2 ^ 24 ≤ r.executed then vecFail w b stTimeout 0
        else if Upset.lane b ∈ s.upsets then laneError w b r
        else
          let q ← f w { r with pc := r.pc + 1, executed := r.executed + 1 } i
          act fun s => updBlock s b fun k => { k with vec := k.vec.map fun _ => q })

/-- An operation on lanes. -/
def laneOp (f : VecRun → Nat → List Nat) : Work → VecRun → Nat → Eng VecRun :=
  fun _ r i => pure (r.putV (vD i) (f r i))

/-- An operation of one source. -/
def lane1 (f : Nat → Nat) : Work → VecRun → Nat → Eng VecRun := laneOp fun r i => (r.lanes (vA i)).map f

/-- An operation of two sources. -/
def lane2 (f : Nat → Nat → Nat) : Work → VecRun → Nat → Eng VecRun :=
  laneOp fun r i => ((r.lanes (vA i)).zip (r.lanes (vB i))).map fun p => f p.1 p.2

/-- Pairs of neighbours joined. -/
def pairUp (f : Nat → Nat → Nat) : List Nat → List Nat
  | x :: y :: rest => f x y :: pairUp f rest
  | xs => xs

/-- The tree of R326, `levels` of it. -/
def tree (f : Nat → Nat → Nat) : Nat → List Nat → List Nat
  | 0, xs => xs
  | n + 1, xs => tree f n (pairUp f xs)

/-- A reduction of the lanes into lane 0. -/
def reduceOp (f : Nat → Nat → Nat) : Work → VecRun → Nat → Eng VecRun :=
  laneOp fun r i => (tree f 8 (r.lanes (vA i))).take 1 ++ List.replicate 255 0

/-- LD. -/
def vecLd (w : Work) (r : VecRun) (i : Nat) : Eng VecRun := do
  let a := r.args.getD (vA i) ⟨0, 0, false, false, false⟩
  let who := whoOf w
  let h ← if flag (fmtOf a.word) 7 then (do let h ← argHdr who a; pure (some h)) else pure none
  let xs ← loadElems who a h (r.elems i)
  pure (r.putV (vD i) xs)

/-- Bytes that stores and pops hold may not exceed (R328). -/
def storeBufferBytes : Nat := 16384

/-- ST: the elements are held until the iteration ends (R328). -/
def vecSt (b : Nat) (w : Work) (r : VecRun) (i : Nat) : Eng VecRun := do
  let n := min (r.scalar (vC i)) 256
  let a := r.args.getD (vA i) ⟨0, 0, false, false, false⟩
  let new := (((r.elems i).zip (r.lanes (vD i))).take n).filterMap fun p =>
    p.1.map fun e => ({ arg := vA i, element := e, value := p.2 } : HeldStore)
  let bytes := r.bytes + n * areaBytes (fmtOf a.word % 128) 1
  if storeBufferBytes < bytes then vecFail w b stBad 0x72
  pure { r with stores := r.stores ++ new, bytes := bytes }

/-- A double-bit error in a block's caravan queues, as an access to them meets it: its event, and its escalation to the region
(R339). Single-bit errors are corrected and counted. -/
def queueCheck (b : Nat) : Eng Unit := do
  act fun s => correctSram s b
  let s ← get
  match s.upsets.findSome? fun u => match u with | .sramQueue c o => if c = b then some o else none | _ => none with
  | some o =>
    act fun s => sramEvent { s with upsets := s.upsets.erase (.sramQueue b o) } b o true
    throw (.escalate (b / 8) 1)
  | none => pure ()

/-- A queued packet's bytes: on the die, or read from the overflow queue. -/
def caravanBytes (w : Who) (b n : Nat) (c : Caravan) (onDie : Bool) : Eng (List Byte) :=
  if onDie then do
    queueCheck b
    pure c.bytes
  else getOverflow w b n c

/-- CPOP (R334, R336): the next packet of the slot not yet popped by this iteration. -/
def vecCpop (b : Nat) (w : Work) (r : VecRun) (i : Nat) : Eng VecRun := do
  let n := field (vImm i) 0 2
  let s ← get
  let cfg := getReg s (rid .blkCarCfg b n)
  ensure (flag cfg 0 && decide (field cfg 1 5 = w.fn)) stDenied 0
  let q := Tab.get {} (getBlock s b).slots n
  let taken := ((r.popped.find? fun p => p.1 == n).map (·.2)).getD 0
  match (q.onDie ++ q.overflow)[taken]? with
  | none => pure (r.putS (vD i) 0)
  | some c =>
    let bytes := r.bytes + c.len
    let bs ← caravanBytes (whoOf w) b n c (decide (taken < q.onDie.length))
    if storeBufferBytes < bytes then vecFail w b stBad 0x72
    pure { r.putS (vD i) (leAt bs 0 2) with
      bytes := bytes, popped := (n, taken + 1) :: r.popped.filter fun p => p.1 != n
      popStores := r.popStores ++ [(vA i, r.scalar (vB i), bs)] }

/-! ## The end of an iteration -/

/-- One held store written (R132–R134, R327); outside the argument it is dropped (DEDUCED, log entry 26). It answers
whether it was written. -/
def writeStore (who : Who) (r : VecRun) (h : HeldStore) : Eng Bool := do
  let a := r.args.getD h.arg ⟨0, 0, false, false, false⟩
  let c := fmtOf a.word % 128
  match fmtBin c with
  | none => pure false
  | some f =>
    let bs := leBytes (areaBytes c 1) (f.convert (fp32.decode h.value)).code
    if flag (fmtOf a.word) 7 then
      let hd ← argHdr who a
      let off := areaOffset c hd.log2 hd.elements
      if a.length < elemEnd c off h.element ∨ hd.elements ≤ h.element then pure false
      else
        vwrite who (hd.va + off + h.element * areaBytes c 1) bs
        pure true
    else if a.length < elemEnd c 0 h.element then pure false
    else
      vwrite who (vaOf a.word + h.element * areaBytes c 1) bs
      pure true

/-- The held stores written in order; those to headed arguments are remembered for the tensor's one write (R327). -/
def writeStores (who : Who) (r : VecRun) : List HeldStore → Eng VecRun
  | [] => pure r
  | h :: rest => do
    let ok ← writeStore who r h
    let headed := flag (fmtOf (r.args.getD h.arg ⟨0, 0, false, false, false⟩).word) 7
    let r := if ok && headed then
        { r with written := Tab.ins r.written h.arg (Tab.ins (Tab.get [] r.written h.arg) h.element h.value) }
      else r
    writeStores who r rest

/-- The popped packets' bytes written into their arguments, cut at the argument's length. -/
def writePops (who : Who) (r : VecRun) : List (Nat × Nat × List Byte) → Eng Unit
  | [] => pure ()
  | (arg, off, bs) :: rest => do
    let a := r.args.getD arg ⟨0, 0, false, false, false⟩
    vwrite who (vaOf a.word + off) (bs.take (a.length - off))
    writePops who r rest

/-- Popped packets released from their slot (R328). -/
def releasePops (b : Nat) (s : State) (p : Nat × Nat) : State :=
  updBlock s b fun k => { k with slots := Tab.upd {} k.slots p.1 fun q =>
    { q with onDie := q.onDie.drop p.2, overflow := q.overflow.drop (p.2 - q.onDie.length) } }

/-- The one write of a headed argument at its program's completion (R149, R157, R175, R327). -/
def closeArgument (w : Work) (r : VecRun) (p : Nat × Tab Nat) : Eng Unit := do
  let who := whoOf w
  let a := r.args.getD p.1 ⟨0, 0, false, false, false⟩
  let hg ← readHdr who (vaOf a.word) (fmtOf a.word) none 0x41
  let xs := p.2.map (·.2)
  match fmtBin hg.1.fmt with
  | none => pure ()
  | some f =>
    let cen := (convertAll fp32 f xs).2
    let norm := if hg.2.cls = 2 ∨ hg.2.cls = 3 then norm32 xs else 0
    let amax := fp32.amax xs
    let old ← heldCopy who hg.1
    writeHdr who hg.1.va false one32 0 amax norm
    let x ← narrowWrote old (groupWrite who hg.1 hg.2 xs.length cen amax norm)
    noteWrite w x

/-- See `closeArgument`. -/
def closeArguments (w : Work) (r : VecRun) : List (Nat × Tab Nat) → Eng Unit
  | [] => pure ()
  | p :: rest => do
    closeArgument w r p
    closeArguments w r rest

/-- The program is over. -/
def vecDone (w : Work) (b : Nat) (r : VecRun) : Eng Unit := do
  closeArguments w r r.written
  act fun s => updBlock s b fun k => { k with vec := none }
  endOk w

/-- END (R328): the iteration's stores are written, its pops released, and the next iteration starts, or the program is
over. -/
def vecEnd (b : Nat) (w : Work) (r : VecRun) (_ : Nat) : Eng VecRun := do
  let who := whoOf w
  let r ← writeStores who r r.stores
  writePops who r r.popStores
  act fun s => r.popped.foldl (releasePops b) s
  act fun s => r.popped.foldl (fun s p => resumeSlot s b p.1) s
  act fun s => updWork s w.ring w.index fun v => { v with progress := v.progress + 1 }
  let q := { r with iter := r.iter + 1, v0 := r.v, s0 := r.s, again := false }.restart
  if r.iterations ≤ r.iter + 1 then vecDone w b q
  pure q

/-! ## VECTOR_PROGRAM -/

/-- The stores of a program whose argument has a format that ST refuses (R327). -/
def storeRefused (prog : List Nat) (args : List VArg) : Bool :=
  prog.any fun i => vOp i == 0x02
    && decide (fmtOf (args.getD (vA i) ⟨0, 0, false, false, false⟩).word % 128 ∉ storeFormats)

/-- Arguments that a program loads or stores. -/
def usedArgs (prog : List Nat) : List Nat :=
  (List.range 16).filter fun n => prog.any fun i => (vOp i == 0x01 || vOp i == 0x02) && vA i == n

/-- Whether the format byte of an argument that holds one breaks R130: of a range argument, and of one that the program loads or
stores. -/
def argFormatRefused (prog : List Nat) (args : List VArg) : Bool :=
  (List.range 16).any fun n =>
    let a := args.getD n ⟨0, 0, false, false, false⟩
    (a.range || (usedArgs prog).contains n) && !fmtByteOk .storage (fmtOf a.word)

/-- The header checks of the arguments a program uses (R148, R174). -/
def checkArgs (w : Who) (args : List VArg) : List Nat → Eng Unit
  | [] => pure ()
  | n :: rest => do
    let a := args.getD n ⟨0, 0, false, false, false⟩
    if flag (fmtOf a.word) 7 then
      let hg ← readHdr w (vaOf a.word) (fmtOf a.word) none 0x41
      let _ ← heldCopy w hg.1
    checkArgs w args rest

/-- The work of a VECTOR_PROGRAM: its checks, R130 before the others (R322, R323, R327, R329), and the program loaded into its
vector engine, which starts, with the iterations already ended passed over. -/
def vectorProgram (w : Work) : Eng Unit := do
  let d := w.desc
  let who := whoOf w
  match w.place with
  | .block b =>
    let s ← get
    if (getBlock s b).vec.isSome then pure ()
    else
      let head ← vread who (vaOf (d.W 0)) 16
      let n := leAt head 4 2
      let block ← vread who (vaOf (d.W 1)) 256
      let args := (List.range 16).map (vArgOf block)
      ensure (!argFormatRefused [] args) stBad 0x40
      ensure (decide (head.take 4 = [0x56#8, 0x54#8, 0x56#8, 0x50#8] ∧ 1 ≤ n ∧ n ≤ 1022 ∧ leAt head 6 10 = 0)) stBad 0x70
      let code ← vread who (vaOf (d.W 0) + 16) (8 * n)
      let prog := (List.range n).map fun i => leAt code (8 * i) 8
      ensure (!argFormatRefused prog args) stBad 0x40
      ensure (!prog.any (instrRefused n)) stBad 0x70
      ensure (!argsRefused block) stBad 0x71
      ensure (!storeRefused prog args) stBad 0x73
      checkArgs who args (usedArgs prog)
      let imms := (List.range 16).filterMap fun k => (args[k]?).bind fun a => if a.imm then some (k, a.word % 2 ^ 32) else none
      let r : VecRun := { ring := w.ring, index := w.index, prog := prog, args := args, iterations := field (d.W 2) 0 32
                          iter := w.progress, s := imms, s0 := imms, written := w.census }
      if field (d.W 2) 0 32 ≤ w.progress then endOk w
      else
        let started ← engineStart w 1
        if started then act fun s => updBlock s b fun k => { k with vec := some r }
  | _ => pure ()

/-- VECTOR_PROGRAM. -/
def execVectorProgram (ring index : Nat) (s : State) : Host.Outcome State Fault Refusal :=
  whenLive s fun s => runOp s .vectorProgram ring index vectorProgram

/-! ## The operations of Table 8-4 -/

/-- LD. -/
def execVecLd (block : Nat) (s : State) : Host.Outcome State Fault Refusal :=
  whenLive s fun s => vecStep s block 0x01 vecLd

/-- ST. -/
def execVecSt (block : Nat) (s : State) : Host.Outcome State Fault Refusal :=
  whenLive s fun s => vecStep s block 0x02 (vecSt block)

/-- ADD. -/
def execVecAdd (block : Nat) (s : State) : Host.Outcome State Fault Refusal :=
  whenLive s fun s => vecStep s block 0x10 (lane2 fp32.add)

/-- MUL. -/
def execVecMul (block : Nat) (s : State) : Host.Outcome State Fault Refusal :=
  whenLive s fun s => vecStep s block 0x11 (lane2 fp32.mul)

/-- FMA. -/
def execVecFma (block : Nat) (s : State) : Host.Outcome State Fault Refusal :=
  whenLive s fun s => vecStep s block 0x12 (laneOp fun r i =>
    (((r.lanes (vA i)).zip (r.lanes (vB i))).zip (r.lanes (vC i))).map fun p => fp32.fma p.1.1 p.1.2 p.2)

/-- MIN. -/
def execVecMin (block : Nat) (s : State) : Host.Outcome State Fault Refusal :=
  whenLive s fun s => vecStep s block 0x13 (lane2 fp32.minOf)

/-- MAX. -/
def execVecMax (block : Nat) (s : State) : Host.Outcome State Fault Refusal :=
  whenLive s fun s => vecStep s block 0x14 (lane2 fp32.maxOf)

/-- SEL: vC ≠ 0 takes vA; a NaN is not 0. -/
def execVecSel (block : Nat) (s : State) : Host.Outcome State Fault Refusal :=
  whenLive s fun s => vecStep s block 0x15 (laneOp fun r i =>
    (((r.lanes (vA i)).zip (r.lanes (vB i))).zip (r.lanes (vC i))).map fun p =>
      fp32.canonical (if fp32.isZero p.2 then p.1.2 else p.1.1))

/-- CMPLT. -/
def execVecCmplt (block : Nat) (s : State) : Host.Outcome State Fault Refusal :=
  whenLive s fun s => vecStep s block 0x16 (lane2 fun a b => if (fp32.decode a).lt (fp32.decode b) then one32 else 0)

/-- SPLAT. -/
def execVecSplat (block : Nat) (s : State) : Host.Outcome State Fault Refusal :=
  whenLive s fun s => vecStep s block 0x18 (laneOp fun _ i => List.replicate 256 (fp32.canonical (vImm i)))

/-- RCP. -/
def execVecRcp (block : Nat) (s : State) : Host.Outcome State Fault Refusal :=
  whenLive s fun s => vecStep s block 0x20 (lane1 fp32.rcp)

/-- RSQRT. -/
def execVecRsqrt (block : Nat) (s : State) : Host.Outcome State Fault Refusal :=
  whenLive s fun s => vecStep s block 0x21 (lane1 fp32.rsqrt)

/-- EXP2. -/
def execVecExp2 (block : Nat) (s : State) : Host.Outcome State Fault Refusal :=
  whenLive s fun s => vecStep s block 0x22 (lane1 fp32.exp2)

/-- LOG2. -/
def execVecLog2 (block : Nat) (s : State) : Host.Outcome State Fault Refusal :=
  whenLive s fun s => vecStep s block 0x23 (lane1 fp32.log2)

/-- SUM. -/
def execVecSum (block : Nat) (s : State) : Host.Outcome State Fault Refusal :=
  whenLive s fun s => vecStep s block 0x30 (reduceOp fp32.add)

/-- MAXR. -/
def execVecMaxr (block : Nat) (s : State) : Host.Outcome State Fault Refusal :=
  whenLive s fun s => vecStep s block 0x31 (reduceOp fp32.maxOf)

/-- SADD. -/
def execVecSadd (block : Nat) (s : State) : Host.Outcome State Fault Refusal :=
  whenLive s fun s => vecStep s block 0x40 fun _ r i =>
    pure (r.putS (vD i) (r.scalar (vA i) + r.scalar (vB i) + vImm i))

/-- BRNZ. -/
def execVecBrnz (block : Nat) (s : State) : Host.Outcome State Fault Refusal :=
  whenLive s fun s => vecStep s block 0x48 fun _ r i => pure (if r.scalar (vA i) ≠ 0 then { r with pc := vImm i } else r)

/-- BR. -/
def execVecBr (block : Nat) (s : State) : Host.Outcome State Fault Refusal :=
  whenLive s fun s => vecStep s block 0x49 fun _ r i => pure { r with pc := vImm i }

/-- CPOP. -/
def execCpop (block : Nat) (s : State) : Host.Outcome State Fault Refusal :=
  whenLive s fun s => vecStep s block 0x50 (vecCpop block)

/-- END. -/
def execVecEnd (block : Nat) (s : State) : Host.Outcome State Fault Refusal :=
  whenLive s fun s => vecStep s block 0x7F (vecEnd block)

end Sys2Proof.Machine
end

