-- ==== Sys2Proof/Machine/Reset.lean ====
section
/-! DEFINITION. Containment (Table 13-4): the halt of the start (R581), fail-stop (R30, R506), scoreboard parity (R319), region
reset (R485–R490) and the restoring of leaves (R489). -/

namespace Sys2Proof.Machine

/-! ## Halts and fail-stop -/

/-- Device time since PERST# release in units of 0.1 s, saturating (Table 15-11). -/
def elapsed (t : Nat) : Nat := min (t / 40000000) 0xFFFF

/-- Whether the start still runs, or is held at the end of Stage 0. -/
def starting (s : State) : Bool :=
  match s.start.phase with
  | .reset | .done | .halted => false
  | _ => true

/-- The maintenance token of the start released: slot 7 (R566, R580, R581). -/
def releaseStart (s : State) : State := setReg s (rid .fltMaintSlot 7) 0

/-- The start halts for a cause of Table 15-9 (R581). -/
def haltStart (s : State) (cause : Nat) : State :=
  if !starting s then s
  else
    let r := rid .hubStartStat
    let s := { s with start := { s.start with phase := .halted, cause := cause } }
    let s := setFld (setBit (setBit s r 3 false) r 4 true) r 8 8 cause
    let s := setFld s r 16 16 (elapsed s.time)
    let s := raiseAlarm s 36
    releaseStart (emitHub s 0x0B02 (leBytes 1 cause ++ leBytes 1 s.transom.stageReached))

/-- Fail-stop (R30, R506): the buckets are withdrawn, the alarm goes to every UP port, every descriptor in flight ends
with DEVICE_FAILED, and nothing more is accepted. A start in progress halts (Table 15-10) (DEDUCED, log entry 74). -/
def failStopNow (s : State) : State :=
  if s.failStop then s
  else
    let s := haltStart s 5
    let s := withdrawAll s (fun _ => true) stFailed 0 1
    let s := latchAlarm s 0
    let s := onPorts s (forwardAlarm 0)
    let s := s.fabRecs.foldl (fun s r => dropRec s r.txn) s
    let s := clearEngines s fun _ _ => true
    { s with failStop := true, work := s.work.map fun w => w.fail stFailed 0 }

/-- RECORD_STORE_ERROR: an uncorrectable record (R480). -/
def execRecordStoreError (region : Nat) (s : State) : Host.Outcome State Fault Refusal :=
  whenLive s fun s => if region < 16 then failStopNow s else s

/-- FAIL_STOP: FLT_CTL.FAILSTOP written (R506). -/
def execFailStop (s : State) : Host.Outcome State Fault Refusal :=
  whenReg s 0 (rid .fltCtl) fun s => failStopNow (setBit s (rid .fltCtl) 0 true)

/-- HUB_FAULT (R506). -/
def execHubFault (s : State) : Host.Outcome State Fault Refusal := whenLive s failStopNow

/-- RECORD_WAIT_TIMEOUT: an engine has waited over 1 ms for a record of a region whose share is full (R479). -/
def execRecordWaitTimeout (region : Nat) (s : State) : Host.Outcome State Fault Refusal :=
  whenLive s fun s =>
    match (getRegion s region).recWait with
    | some t => if region < 16 ∧ t + 400000 < s.time then raiseAlarm s 15 else s
    | none => s

/-! ## Region reset (R485–R488) -/

/-- The cause byte of a region reset (Table 13-18). -/
def resetCauseCode : ResetCause → Nat
  | .software => 0
  | .block => 1
  | .regionUnit => 2

/-- REGION_RESET (R485): an escalation, or the PF's write of RGN_SHUTTER_CTL.RESET. -/
def execRegionReset (region : Nat) (cause : ResetCause) (s : State) : Host.Outcome State Fault Refusal :=
  if cause = .software then whenReg s 0 (rid .rgnShutterCtl region) fun s => beginReset s region 0
  else whenLive s fun s => beginReset s region (resetCauseCode cause)

/-! ## The end of a region reset (R488, R490) -/

/-- First and last byte of an operand. -/
def operandSpan (s : State) (w : Work) (word count : Nat) : Nat × Nat :=
  (vaOf word, vaOf word + operandBytes s (whoOf w) (vaOf word) (fmtOf word) count)

/-- Whether two spans share a byte. -/
def spansMeet (a b : Nat × Nat) : Bool := decide (a.1 < b.2 ∧ b.1 < a.2)

/-- What a product reads and what it writes. -/
def productSpans (s : State) (w : Work) : List (Nat × Nat) × List (Nat × Nat) :=
  let d := w.desc
  let a := field (d.W 3) 0 16
  let b := field (d.W 3) 16 16
  let c := field (d.W 3) 32 16
  if w.op = some .dmuPair then
    let out := [operandSpan s w (d.X 0) (a * b), operandSpan s w (d.X 1) (b * c)]
    ([operandSpan s w (d.W 0) (a * c), operandSpan s w (d.W 1) 0, operandSpan s w (d.W 2) (a * b)]
      ++ (if field (d.W 3) 54 2 = 1 then out else []), out)
  else
    ([operandSpan s w (d.W 0) (if c = 0 then a * b else a * c)]
      ++ (if c = 0 then [] else [operandSpan s w (d.W 1) (c * b)])
      ++ (if field (d.W 3) 54 2 = 0 then [] else [operandSpan s w (d.X 0) (a * b)]),
     [operandSpan s w (d.W 2) (a * b)])

/-- What a micro-program's READ arguments and its WRITE arguments name. -/
def argumentSpans (s : State) (w : Work) : List (Nat × Nat) × List (Nat × Nat) :=
  let bs := (quiet (vread (whoOf w) (vaOf (w.desc.W 1)) 256) s).1.getD []
  let args := (List.range 16).map (vArgOf bs)
  let span (a : VArg) : Nat × Nat := (vaOf a.word, vaOf a.word + a.length)
  ((args.filter (·.read)).map span, (args.filter (·.write)).map span)

/-- Whether a descriptor in flight at a region's reset is replayed (Table 13-6); if not, its step is rolled back. -/
def replayable (s : State) (r : Nat) (w : Work) : Bool :=
  match w.op with
  | some .leafProgram | some .memCopy | some .memAtomic => true
  | some .tileEvaluate =>
    let o := evalOps w.desc
    !o.add && decide ((w.desc.target, o.leaf) ∈ (getRegion s r).leavesAtReset)
  | some .dmuProduct | some .dmuPair =>
    let p := productSpans s w
    !(p.1.any fun a => p.2.any fun b => spansMeet a b)
  | some .vectorProgram =>
    let p := argumentSpans s w
    !(p.1.any fun a => p.2.any fun b => spansMeet a b)
  | _ => false

/-- A descriptor replayed: it goes back into its block's queue; a move or an atomic runs in its region again. -/
def Work.replayed (w : Work) : Work :=
  let w := w.also 3 0xC4
  match w.place with
  | .block _ => { w with phase := .queued, setUp := false, starts := 0, stopped := false
                         half := false, awaitLeaf := w.op == some .tileEvaluate }
  | _ => w

/-- The units of a region that a retirement takes out of use: type and instance of their entries. -/
def regionUnits (r : Nat) : List (Nat × Nat) :=
  (7, r) :: (regionBlocks r).map (fun b => (8, b)) ++ (regionCells r).map (fun c => (9, c))
    ++ (List.range 16).map (fun d => (10, 16 * r + d)) ++ (regionBlocks r).map (fun b => (11, b))

/-- Some entries RETIRED and no longer PRESENT, and the retired-cell count raised by the cells among them that were not
retired before, within one span of the update sequence (R61). -/
def retireEntries (s : State) (es : List (Nat × Nat)) : State :=
  let n := (es.filter fun e => e.1 == 9 && !(getEntry s 9 e.2).retired).length
  transomSpan s fun s =>
    let s := es.foldl (fun s e => updEntry s e.1 e.2 fun x => { x with retired := true, present := false }) s
    updEntry s 12 0 fun x => { x with word := x.word + n }

/-- The buckets of the concurrent ring that a region serves withdrawn (R488, R490). -/
def withdrawRegion (s : State) (r : Nat) : State := withdrawAll s (fun b => b.cring == r % 8) stRegion 0xC5 1

/-- A region retired until the next PERST# release (R490); its descriptors in flight end with REGION_UNAVAILABLE. -/
def retireRegion (s : State) (r : Nat) : State :=
  let mine := s.work.filter (Work.inRegion r)
  let s := retireEntries s (regionUnits r)
  let s := setBit s (rid .rgnShutterCtl r) 2 true
  let s := updRegion s r fun g => { g with retired := true, resetSince := none, atReset := [], leavesAtReset := [], lostPages := [] }
  let s := raiseAlarm s 8
  let s := emitFn s 0 0x0903 7 r (leBytes 1 r)
  let s := withdrawRegion s r
  let s := (regionCells r).foldl (fun s c => [Leaf.a, Leaf.b].foldl (fun s l => updLeaf s c l fun x =>
    if x.restoring then { x with state := .empty, restoring := false } else x) s) s
  mine.foldl (fun s w => killWork s w stRegion 0) s

/-- Whether a region has been reset for the third time within 10 s. -/
def thirdReset (g : Region) : Bool :=
  match g.resetTimes with
  | a :: _ :: c :: _ => decide (a - c ≤ 10 * cyclesPerSecond)
  | _ => false

/-- A region reset ends (t5): the shutters open, and the work in flight is replayed, withdrawn or rolled back. -/
def endReset (s : State) (r : Nat) : State :=
  let g := getRegion s r
  let ctl := rid .rgnShutterCtl r
  let s := isolate (setFld s ctl 0 2 0) r false
  let s := updRegion s r fun g => { g with resetSince := none, atReset := [], lostPages := [] }
  let mine := s.work.filter fun w => decide ((w.ring, w.index) ∈ g.atReset) && w.inRegion r
  let again := mine.filter (replayable s r)
  let rolled := mine.filter fun w => !replayable s r w
  let s := emitFn s 0 0x0902 7 r (leBytes 1 r ++ leBytes 4 again.length ++ leBytes 4 rolled.length)
  let s := g.leavesAtReset.foldl (fun s k => updLeaf s k.1 k.2 fun x =>
    { x with state := .programming, restoring := true, since := s.time }) s
  let s := again.foldl (fun s w => putWork s w.replayed) s
  let s := withdrawRegion s r
  let s := ((rolled.map (·.fn)) ++ g.lostPages).eraseDups.foldl (fun s fn => callRollback s fn 6 false) s
  (regionBlocks r).foldl fillBoard s

/-- REGION_RESET_COMPLETE: the built-in check has passed or failed; a reset that passes ends 2 ms after its trigger (R487, R488,
R490). -/
def execRegionResetComplete (region : Nat) (checkOk : Bool) (s : State) : Host.Outcome State Fault Refusal :=
  whenLive s fun s =>
    let g := getRegion s region
    match g.resetSince with
    | none => s
    | some t =>
      if !checkOk || thirdReset g then retireRegion (setFld s (rid .rgnShutterCtl region) 0 2 1) region
      else if s.time < t + 800000 then s
      else endReset s region

/-- LEAF_RESTORE_DONE (R489): the leaf is VALID again with its old image, or stays EMPTY, and the evaluations that wait for it
roll their step back. -/
def execLeafRestoreDone (cell : Nat) (leaf : Leaf) (check : CloneCheck) (s : State) : Host.Outcome State Fault Refusal :=
  whenLive s fun s =>
    let r := cell / 64
    let g := getRegion s r
    if (cell, leaf) ∉ g.leavesAtReset ∨ g.resetSince.isSome = true then s
    else
      let waits (w : Work) : Bool := w.awaitLeaf && w.desc.target == cell && (evalOps w.desc).leaf == leaf
      let fns := ((s.work.filter waits).map (·.fn)).eraseDups
      let s := updRegion s r fun g => { g with leavesAtReset := g.leavesAtReset.erase (cell, leaf) }
      let s := { s with work := s.work.map fun w => if waits w then { w with awaitLeaf := false } else w }
      let s := if leaf = .a then updLeaf s cell .b fun x => if x.restoring then { x with since := s.time } else x else s
      let x := getLeaf s cell leaf
      if x.restoring = false then s
      else if acceptable check then
        let s := updLeaf s cell leaf fun x => x.writeRows x.image
        let s := becomeValid s cell leaf x.image x.imageVa x.imageSpace
        updLeaf s cell leaf fun x => { x with restored := true }
      else
        let s := updLeaf s cell leaf fun x => { x with state := .empty, restoring := false }
        let s := emitFn s 0 0x090C 9 cell (leBytes 2 cell ++ leBytes 1 (leafBit leaf))
        fns.foldl (fun s fn => callRollback s fn 6 false) s

/-! ## Scoreboard parity (R319) -/

/-- SCOREBOARD_PARITY_ERROR: issue stops for the rebuild; a second mismatch within 1 ms of one escalates to the
region. A mismatch during a rebuild counts as the second (DEDUCED, log entry 33). -/
def execScoreboardParityError (block : Nat) (s : State) : Host.Outcome State Fault Refusal :=
  whenLive s fun s =>
    let k := getBlock s block
    let soon := match k.lastRebuild with
      | some t => decide (s.time - t < 400000)
      | none => false
    if 128 ≤ block then s
    else if k.rebuilding || soon then beginReset (emitFn s 0 0x0402 8 block (leBytes 2 block)) (block / 8) 1
    else updBlock s block fun k => { k with rebuilding := true }

/-- SCOREBOARD_REBUILD_DONE: the ranges of every entry stand again, and issue resumes. -/
def execScoreboardRebuildDone (block : Nat) (s : State) : Host.Outcome State Fault Refusal :=
  whenLive s fun s =>
    if (getBlock s block).rebuilding then
      let s := { s with work := s.work.map fun w => if w.boardAt block then { w with ranges := rangesOf s w } else w }
      let s := updBlock s block fun k => { k with rebuilding := false, lastRebuild := some s.time }
      emitFn s 0 0x0401 8 block (leBytes 2 block)
    else s

end Sys2Proof.Machine
end

