-- ==== Sys2Proof/Machine/Faults.lean ====
section
/-! DEFINITION. The step log's re-dispatch (R496), the maintenance token (R510–R512), and the register writes of the faults and
the numerics chapters that act (R170, R171, R180, R507, R13, R513). -/

namespace Sys2Proof.Machine

/-! ## The step log re-dispatched (R496) -/

/-- The descriptor of a log entry, to run again. -/
def replayWork (s : State) (e : LogEntry) : Work :=
  let ext := if 128 ≤ e.raw.length then some ((e.raw.drop 64).take 64) else none
  let w : Work := { ring := e.ring, index := e.index, fn := (getRing s e.ring).fn, desc := descOf (e.raw.take 64) ext,
                    phase := .held, replay := true }
  (if e.recovered then w.also 3 0x8C else w).also 3 0xC3

/-- Whether a log entry can be dispatched now: its completion ring has room, its ring is below its limit, and a fence finds
nothing before it (R88, R108). -/
def replayReady (s : State) (e : LogEntry) (w : Work) : Bool :=
  decide (inFlight s e.ring < 256) && cplRoom s (getRing s e.ring).ctx.cmplRing
    && (!w.desc.fence || inFlight s e.ring == 0)

/-- One log entry dispatched again. A COLLECTIVE_STEP that had completed is counted and its record posted again; one whose
bucket was open has lost its peers. -/
def replayEntry (s : State) (e : LogEntry) : State :=
  let w := replayWork s e
  let w := if w.op = some .collectiveStep then { w with detail := field (w.desc.W 2) 16 32 } else w
  if w.op = some .collectiveStep ∧ e.ok = true then
    postCpl (applyCtr s w.desc w.status) (getRing s e.ring).ctx.cmplRing (cplOf w s.time)
  else if w.op = some .collectiveStep ∧ e.openBucket = true then { s with work := s.work ++ [w.fail stPeer 0xC6] }
  else startDesc s w true

/-- Log entries dispatched again in order, as far as they can be; at most `fuel` of them. -/
def replayLog (fn : Nat) : Nat → State → State
  | 0, s => s
  | fuel + 1, s =>
    match (getFn s fn).replaying with
    | [] => s
    | e :: rest =>
      if !atBoundary s fn && replayReady s e (replayWork s e) then
        replayLog fn fuel (replayEntry (updFn s fn fun f => { f with replaying := rest }) e)
      else s

/-- Whether a region that is being reset held work of a function: its replay waits for t5 (Table 13-7). -/
def resetHolds (s : State) (fn : Nat) : Bool :=
  (List.range 16).any fun r =>
    let g := getRegion s r
    g.resetSince.isSome && (decide (fn ∈ g.lostPages) || g.atReset.any fun k => (getRing s k.1).fn == fn)

/-- LOG_REDISPATCH. At the log's end the step-replayed event is written, and the function's rings fetch again (R496, R497). -/
def execLogRedispatch (fn : Nat) (s : State) : Host.Outcome State Fault Refusal :=
  whenLive s fun s =>
    let f := getFn s fn
    if !f.replayActive || f.rollWait.isSome || allHeld s || resetHolds s fn then s
    else
      let s := settleOasis (replayLog fn f.replaying.length s) fn
      let g := getFn s fn
      if !g.replayActive || !g.replaying.isEmpty then s
      else
        let s := emitFn s fn 0x0905 4 0 (leBytes 4 (stepOf s fn))
        let s := updFn (setBit s (rid .fltStepCtl fn) 1 false) fn fun f => { f with replayActive := false }
        (submissionRings s fn).foldl (fun s n =>
          let r := getRing s n
          if r.state == .active && r.readAgain && !r.readInFlight then
            startTailRead (updRing s n fun r => { r with readAgain := false }) n
          else s) s

/-! ## The maintenance token (R510–R512) -/

/-- Whether an activity is device-wide (Table 13-10). -/
def deviceWide (i : Nat) : Bool := decide (i < 2)

/-- Whether a maintenance slot holds a token. -/
def slotHeld (s : State) (n : Nat) : Bool := getBit s (rid .fltMaintSlot n) 0

/-- The lowest slot whose token conflicts with a request (R510). -/
def conflictSlot (s : State) (act target : Nat) : Option Nat :=
  (List.range 8).find? fun n =>
    let r := getReg s (rid .fltMaintSlot n)
    flag r 0 && flag (compatRow act) (field r 1 3)
      && (deviceWide act || deviceWide (field r 1 3) || field r 16 16 == target)

/-- Whether an open bucket uses a port (R512). -/
def portInBucket (s : State) (port : Nat) : Bool := s.buckets.any fun b => b.nextPort == port || b.prevPort == port

/-- A request refused: the result, and its event. CONFLICT says BUSY_CONFLICT; an activity that does not exist, and a
repair commit that the debug state forbids, set neither bit (DEDUCED, log entry 35). -/
def refuseToken (s : State) (act target : Nat) (conflict : Bool) (slot : Nat) : State :=
  let s := setReg s (rid .fltMaintRes) (2 * bit conflict + 32 * slot)
  emitHub s 0x090A (leBytes 1 act ++ leBytes 2 target ++ leBytes 1 0)

/-- A slot's register for a token. -/
def slotWord (act target : Nat) (holder : Holder) : Nat :=
  1 + 2 * act + 16 * bit (decide (holder = .firmware)) + 65536 * (target % 65536)

/-- The repair commit of a slot's token, which it releases (R510). -/
def commitRepairs (s : State) (slot : Nat) : State := setReg { s with nv := foldJournal s.nv } (rid .fltMaintSlot slot) 0

/-- The repair commits that waited for a write of an image to flash (R593). -/
def commitsWaiting (s : State) : State :=
  (List.range 8).foldl (fun s n =>
    let r := getReg s (rid .fltMaintSlot n)
    if flag r 0 && field r 1 3 == 1 then commitRepairs s n else s) s

/-- A token granted in a slot; a repair commit is carried out at once and releases its token (R510), or, where an image is
being written to flash, once that write has ended (R593). -/
def grantToken (s : State) (slot act target : Nat) (holder : Holder) : State :=
  let s := setReg s (rid .fltMaintSlot slot) (slotWord act target holder)
  let s := { s with leaseAt := Tab.ins s.leaseAt slot s.time }
  let s := setReg s (rid .fltMaintRes) (1 + 4 * slot)
  if act = 1 ∧ s.sec.staging.isNone then commitRepairs s slot else s

/-- A token requested (R510, R512, R600). -/
def acquireToken (s : State) (act target : Nat) (holder : Holder) : State :=
  let target := if deviceWide act then 0 else target
  if 6 ≤ act then refuseToken s act target false 0
  else match conflictSlot s act target with
    | some n => refuseToken s act target true n
    | none =>
      if act = 5 ∧ portInBucket s target = true then refuseToken s act target true 0
      else if act = 1 ∧ (s.sec.vendor = true ∨ s.nv.dbgRetired = true) then refuseToken s act target false 0
      else match (List.range 8).find? fun n => !slotHeld s n with
        | none => refuseToken s act target true 0
        | some n => grantToken s n act target holder

/-- MAINT_ACQUIRE. -/
def execMaintAcquire (activity target : Nat) (holder : Holder) (s : State) : Host.Outcome State Fault Refusal :=
  if holder = .host then whenReg s 0 (rid .fltMaintReq) fun s =>
    acquireToken (setReg s (rid .fltMaintReq) (activity % 8 + 65536 * (target % 65536))) activity target holder
  else whenLive s fun s => acquireToken s activity target holder

/-- Whether a slot's token is of a holder. -/
def heldBy (s : State) (slot : Nat) (holder : Holder) : Bool :=
  slotHeld s slot && getBit s (rid .fltMaintSlot slot) 4 == decide (holder = .firmware)

/-- MAINT_RELEASE: a holder gives its own token back (DEDUCED, log entry 35). -/
def execMaintRelease (slot : Nat) (holder : Holder) (s : State) : Host.Outcome State Fault Refusal :=
  let free (s : State) : State := if heldBy s slot holder then setReg s (rid .fltMaintSlot slot) 0 else s
  if holder = .host then whenReg s 0 (rid .fltMaintReq) fun s => free (setReg s (rid .fltMaintReq) (8 + 16 * (slot % 8)))
  else whenLive s free

/-- Whether the operation of a token's activity runs. -/
def operationRuns (s : State) (slot : Nat) : Bool :=
  let r := getReg s (rid .fltMaintSlot slot)
  let target := field r 16 16
  match field r 1 3 with
  | 0 => s.sec.activating || starting s
  | 1 => true
  | 2 => (getCell s target).cal.isSome
  | 3 => (getStack s target).margin.isSome
  | 4 => (getStack s target).test.isSome
  | 5 => (getPort s target).state == .training
  | _ => false

/-- MAINT_LEASE_EXPIRY (R511) (DESIGN CHOICE, log entry 60). -/
def execMaintLeaseExpiry (slot : Nat) (s : State) : Host.Outcome State Fault Refusal :=
  whenLive s fun s =>
    let r := getReg s (rid .fltMaintSlot slot)
    let lease := getFld s (rid .fltMaintLease) 0 16 * cyclesPerSecond
    if slot < 8 ∧ slotHeld s slot = true ∧ lease ≤ s.time - Tab.get 0 s.leaseAt slot ∧ operationRuns s slot = false then
      let s := raiseAlarm (setReg s (rid .fltMaintSlot slot) 0) 14
      emitHub s 0x090A (leBytes 1 (field r 1 3) ++ leBytes 2 (field r 16 16) ++ leBytes 1 1)
    else s

/-! ## Register writes that act -/

/-- STEP_RECORD_CONFIG_WRITE (R513); the low half of a pair is held until its high half is written (R46). Records are
kept while EN is 1 (Table 13-13): clearing it drops the open ones (DESIGN CHOICE, log entry 44). -/
def execStepRecordConfigWrite (fn : Nat) (reg : RegName) (value : W32) (s : State) : Host.Outcome State Fault Refusal :=
  whenReg s fn (rid reg fn) fun s =>
    if reg ∉ [.fltStepCtl, .fltUndoLo, .fltUndoHi, .fltLogLo, .fltLogHi] then s
    else if reg = .fltUndoLo ∨ reg = .fltLogLo then writePair s (rid reg fn) value.toNat
    else if getBit s (rid .fltStepCtl fn) 1 || s.work.any fun w => w.fn == fn then
      refusedWrite (((lowHalf (rid reg fn)).map (dropLow s)).getD s) fn 4 0 value.toNat
    else
      let s := writePair s (rid reg fn) value.toNat
      if reg = .fltStepCtl ∧ getBit s (rid .fltStepCtl fn) 0 = false then
        updFn s fn fun f => { f with recOpen := false }
      else s

/-- The alarm classes of a word of HUB_ALARM_STAT, HUB_ALARM_MASK and HUB_ALARM_FWD that some bits name. -/
def classesIn (word bits : Nat) : List Nat :=
  ((List.range 32).filter fun b => decide (32 * word + b < 48) && flag bits b).map (32 * word + ·)

/-- ALARM_CLEAR (R507): the latches and their counts. -/
def execAlarmClear (word : Nat) (value : W32) (s : State) : Host.Outcome State Fault Refusal :=
  whenWindow s 0 (1, 0) fun s => (classesIn word value.toNat).foldl (fun s c =>
    if alarmLatched s c then
      setFld (setBit s (rid .hubAlarmStat word) (c % 32) false) (rid .hubAlarmCnt (c / 2)) (16 * (c % 2)) 16 0
    else s) s

/-- ALARM_MASK_WRITE (R13): a latched class whose mask bit is cleared sends a message. -/
def execAlarmMaskWrite (word : Nat) (value : W32) (s : State) : Host.Outcome State Fault Refusal :=
  whenWindow s 0 (1, 0) fun s =>
    let r := rid .hubAlarmMask word
    if word ≥ 2 then s
    else
      let old := getReg s r
      let s := writeReg s r value.toNat
      let opened := classesIn word (old - (old &&& value.toNat))
      opened.foldl (fun s c => if alarmLatched s c then msix s 0 0 else s) s

/-- MSIX_VECTOR_UNMASK (R13): a pending message is sent. -/
def execMsixVectorUnmask (fn vector : Nat) (s : State) : Host.Outcome State Fault Refusal :=
  whenHost s fun s =>
    let s := if (fn, vector) ∈ s.msixOpen then s else { s with msixOpen := (fn, vector) :: s.msixOpen }
    if (fn, vector) ∈ s.msixPending then
      send { s with msixPending := s.msixPending.filter (· ≠ (fn, vector)) } (.msix fn vector)
    else s

/-- ZERO_STREAK_CLEAR: 1 written to TRIPPED (R171). -/
def execZeroStreakClear (fn : Nat) (s : State) : Host.Outcome State Fault Refusal :=
  whenReg s fn (rid .numZsStat fn) fun s => setFld (setFld s (rid .numZsStat fn) 0 2 0) (rid .numZsCtl fn) 16 13 0

/-- ZERO_STREAK_LIMIT_WRITE (R170). -/
def execZeroStreakLimitWrite (fn limit : Nat) (s : State) : Host.Outcome State Fault Refusal :=
  whenReg s fn (rid .numZsCtl fn) fun s => writeReg s (rid .numZsCtl fn) (limit % 2 ^ 13)

/-- An oasis configuration refused (R180). -/
def oasisRefused (s : State) : State := emitFn s 0 0x0108 5 0 (leBytes 4 (oasisUsed s))

/-- Whether the pool would end beyond 1 TiB. -/
def oasisTooHigh (s : State) : Bool := decide (2 ^ 40 < oasisBase s + oasisUnits s * 65536)

/-- OASIS_CONFIG_WRITE (R180). The low half of the base is held and takes effect, or is discarded, with the high half
(R46). -/
def execOasisConfigWrite (reg : RegName) (value : W32) (s : State) : Host.Outcome State Fault Refusal :=
  whenReg s 0 (rid reg) fun s =>
    if reg ∉ [.numOasisBaseLo, .numOasisBaseHi, .numOasisSize] then s
    else if reg = .numOasisBaseLo then writePair s (rid reg) value.toNat
    else
      let kept := if reg = .numOasisBaseHi then dropLow s (rid .numOasisBaseLo) else s
      let t := writePair s (rid reg) value.toNat
      if 0 < oasisUsed s ∨ oasisTooHigh t = true then oasisRefused kept else t

end Sys2Proof.Machine
end

