-- ==== Sys2Proof/Machine/FnReset.lean ====
section
/-! DEFINITION. Hot Reset, Function Level Reset and VF Enable (R556, R557, R604, R631, R161). -/

namespace Sys2Proof.Machine

/-- A descriptor dispatched for a function stopped for good: its engines and records are freed, and no record is posted. -/
def dropDesc (s : State) (w : Work) : State :=
  let s := clearEngines s fun r i => w.isAt r i
  let s := freeRec (dropRecs s w.ring w.index) w.record
  { s with
    work := s.work.filter fun v => !v.isAt w.ring w.index
    regions := s.regions.map fun r => (r.1, { r.2 with stops := r.2.stops.filter fun x => !(x.1 == w.ring && x.2.1 == w.index) }) }

/-- The descriptors of other nodes that run here in a function's address space completed with ABORTED. -/
def abortRemotes (s : State) (fn : Nat) : State :=
  let mine := s.remotes.filter fun c => c.space == fn
  let s := { s with remotes := s.remotes.filter fun c => c.space != fn }
  mine.foldl (fun s c => answerTo s c.src c.txn c.gen (statusAnswer stAborted 0 0 c.retried)) s

/-- The windows of type 4 and 5 of a function: its Ring control and Number format registers (R603). The PF's hold the
registers that only the PF writes as well. -/
def ownRegs (fn : Nat) : List RegId :=
  let mine : List RegName :=
    [.hubRctBaseLo, .hubRctBaseHi, .hubRingCmd, .hubRingStat, .hubRingHead, .numGrpBaseLo, .numGrpBaseHi, .numStepCfg, .numStep,
     .numZsCtl, .numZsStat, .numNormStat, .numOasisUsed, .updGrpBaseLo, .updGrpBaseHi, .fabCarWin, .colGrpBaseLo,
     .colGrpBaseHi, .colStageLo, .colStageHi, .colDigLo, .colDigHi, .colDigIdx, .colCnt, .fltStepCtl, .fltStepTime,
     .fltUndoLo, .fltUndoHi, .fltLogLo, .fltLogHi]
  let pf : List RegId :=
    (List.range 17).map (rid .hubVfRing ·) ++ (List.range 64).map (rid .hubRgrpCfg ·) ++ (List.range 17).map (rid .numOasisQuota ·)
      ++ [rid .numOasisBaseLo, rid .numOasisBaseHi, rid .numOasisSize]
  mine.map (rid · fn) ++ (if fn = 0 then pf else [])

/-- The registers of a function's windows at their reset values, with no half held and no shadow. -/
def resetRegs (s : State) (fn : Nat) : State :=
  let keys := (ownRegs fn).map regKey
  let out (t : Tab Nat) : Tab Nat := t.filter fun p => decide (p.1 ∉ keys)
  { s with regs := out s.regs, heldLow := out s.heldLow, shadow := out s.shadow }

/-- The residency windows of a function flushed and disabled, and its caravan slots with their queued caravans (R557). -/
def disableBlock (fn : Nat) (s : State) (b : Nat) : State :=
  let s := (List.range 8).foldl (fun s n =>
    let r := rid .blkResCtl b n
    if (getBit s r 0 ∨ getBit s r 1) ∧ getFld s r 3 5 = fn then
      updBlock (setFld (quiet (flushPages b n) s).2 r 0 2 0) b fun k => { k with
        pages := k.pages.filter fun p => p.window != n, flushing := k.flushing.filter (· ≠ n) }
    else s) s
  (List.range 4).foldl (fun s n =>
    let r := rid .blkCarCfg b n
    if getBit s r 0 ∧ getFld s r 1 5 = fn then
      let s := resumeSlot (updSlot s b n fun k => { k with onDie := [], overflow := [] }) b n
      updSlot (setBit s r 0 false) b n fun _ => {}
    else s) s

/-- What is left of a function's own state: the default event ring is gone, and events lost since stay counted (R630). -/
def clearFn (f : FnState) : FnState :=
  { everDefault := f.everDefault, lost := f.lost, lostFirst := f.lostFirst, lostLast := f.lostLast }

/-- A ring that a reset of its function makes DISABLED: its index stays for a QUERY (Table 3-7). -/
def resetRing (r : Ring) : Ring := { loaded := r.loaded, fn := r.fn, ctx := r.ctx, head := r.head, prod := r.prod }

/-- The reset of one function (R557, R604) (DEDUCED, log entry 55). -/
def resetFunction (s : State) (fn : Nat) : State :=
  let s := abortRemotes s fn
  let s := withdrawAll s (fun b => b.fn == fn) stAborted 0 1
  let s := (s.work.filter fun w => w.fn == fn).foldl dropDesc s
  let s := { s with
    counters := s.counters.filter fun c => ownerOf s c.1 != fn
    rings := s.rings.map fun r => if r.2.fn = fn then (r.1, resetRing r.2) else r
    oasis := s.oasis.filter fun c => c.fn != fn
    tags := s.tags.filter fun t => t.fn != fn
    colGroups := s.colGroups.filter fun g => g.fn != fn
    tlbs := s.tlbs.filter fun t => t.space != fn
    atsOn := s.atsOn.filter fun f => f != fn
    ats := s.ats.filter fun t => t.1 != fn
    bar4Log := Tab.del s.bar4Log fn
    msixOpen := s.msixOpen.filter fun v => v.1 != fn
    msixPending := s.msixPending.filter fun v => v.1 != fn
    heldAccess := s.heldAccess.filter fun h => h.fn != fn }
  let s := (List.range 128).foldl (disableBlock fn) s
  resetRegs (updFn s fn clearFn) fn

/-- The maintenance tokens that the host holds released (R557). -/
def releaseHost (s : State) : State :=
  (List.range 8).foldl (fun s n =>
    let r := rid .fltMaintSlot n
    if getBit s r 0 ∧ getBit s r 4 = false then setReg s r 0 else s) s

/-- The reset of every function: VF Enable is cleared (R557). -/
def resetAll (s : State) : State :=
  let s := (List.range 17).foldl resetFunction s
  { releaseHost s with numVfs := 0 }

/-- HOT_RESET (R556, R557). -/
def execHotReset (s : State) : Host.Outcome State Fault Refusal := whenHost s resetAll

/-- PF_FUNCTION_LEVEL_RESET (R557). -/
def execPfFunctionLevelReset (s : State) : Host.Outcome State Fault Refusal := whenHost s resetAll

/-- VF_FUNCTION_LEVEL_RESET (R604, R557). A VF that is not enabled does not exist. -/
def execVfFunctionLevelReset (v : Nat) (s : State) : Host.Outcome State Fault Refusal :=
  whenHost s fun s => if 1 ≤ v ∧ v ≤ s.numVfs then resetFunction s v else s

/-! ## VF Enable (R631) -/

/-- Whether a ring lies in the range of one of VFs 1 to `n`. -/
def inVfRanges (s : State) (n ring : Nat) : Bool := decide (rangeOwner { s with numVfs := n } ring ≠ 0)

/-- VF_ENABLE_SET: the PF's rings in the ranges of VFs 1 to NumVFs are aborted, the counters there zeroed, and each VF's
NUM_STEP_CFG takes its first ring (R631, R161). -/
def execVfEnableSet (numVfs : Nat) (s : State) : Host.Outcome State Fault Refusal :=
  whenHost s fun s =>
    if s.numVfs ≠ 0 ∨ numVfs = 0 ∨ 16 < numVfs then s
    else
      let mine := (s.rings.filter fun r => r.2.state != .disabled && inVfRanges s numVfs r.1).map (·.1)
      let s := mine.foldl abortRing s
      let s := { s with counters := s.counters.filter fun c => !inVfRanges s numVfs c.1, numVfs := numVfs }
      (List.range numVfs).foldl (fun s i => setFld s (rid .numStepCfg (i + 1)) 0 16 (vfBase s (i + 1))) s

/-- VF_ENABLE_CLEAR: every VF ring range and counter is the PF's again (R631). -/
def execVfEnableClear (s : State) : Host.Outcome State Fault Refusal := whenHost s fun s => { s with numVfs := 0 }

end Sys2Proof.Machine
end

