-- ==== Sys2Proof/Machine/Image.lean ====
section
/-! DEFINITION. The security fuses (Table 16-1), the signed image (R587–R589), the boot chain (R590) and the board section
(R562, R563). -/

namespace Sys2Proof.Machine

/-! ## Fuses and the debug state -/

/-- The debug state's encoding (Table 16-7). -/
def dbgState (s : State) : Nat :=
  if s.nv.dbgRetired then 3 else if s.sec.vendor then 1 else if s.nv.dbgLocked then 2 else 0

/-- The KEY_HASH of a slot; all zeros where it is not programmed. -/
def keyHash (nv : NonVolatile) (k : Nat) : List Byte := padTo 64 (nv.keyHash.getD k [])

/-- Whether a key slot is programmed (Table 16-1). -/
def keyProgrammed (nv : NonVolatile) (k : Nat) : Bool := (keyHash nv k).any fun b => b != 0#8

/-- Whether a key slot is revoked. -/
def keyRevoked (nv : NonVolatile) (k : Nat) : Bool := flag nv.keyRevoke k

/-- The programmed key slots, as a mask. -/
def keyMask (nv : NonVolatile) : Nat := (List.range 4).foldl (fun n k => n + bit (keyProgrammed nv k) * 2 ^ k) 0

/-- SEC_FUSE_STAT brought up to date with the fuses (Table 16-8). -/
def syncFuses (s : State) : State :=
  setReg s (rid .secFuseStat)
    (s.nv.arbCount % 128 + keyMask s.nv * 2 ^ 8 + s.nv.keyRevoke % 16 * 2 ^ 12 + dbgState s * 2 ^ 16)

/-! ## The image (R587, R588) -/

/-- The largest image: the slot up to its trailer. -/
def imageMax : Nat := 0xFFF000

/-- Whether some bytes are all 0. -/
def zeroBytes (bs : List Byte) : Bool := bs.all fun b => b == 0#8

/-- The entry of section `i` of a header: type, offset, length, and its digest (Table 16-3). -/
structure Section where
  type : Nat
  off : Nat
  len : Nat
  digest : List Byte
  deriving DecidableEq, Repr

/-- The six sections a header names. -/
def sectionsOf (img : List Byte) : List Section :=
  (List.range 6).map fun i =>
    let e := (img.drop (64 + 96 * i)).take 96
    { type := leAt e 0 1, off := leAt e 4 4, len := leAt e 8 4, digest := (e.drop 32).take 64 }

/-- A section by its type. -/
def sectionOf (img : List Byte) (type : Nat) : Option Section := (sectionsOf img).find? fun x => x.type == type

/-- The bytes of a section. -/
def sectionBytesOf (img : List Byte) (x : Section) : List Byte := (img.drop x.off).take x.len

/-- The bytes of a section by its type; none where the image has no such section. -/
def sectionData (img : List Byte) (type : Nat) : List Byte := ((sectionOf img type).map (sectionBytesOf img)).getD []

/-- Whether a section matches its digest. -/
def sectionGood (img : List Byte) (type : Nat) : Bool :=
  match sectionOf img type with
  | some x => padTo 64 (Config.sha512 (sectionBytesOf img x)) == x.digest
  | none => false

/-- Whether two sections share a byte. -/
def Section.meets (x y : Section) : Bool := decide (x.off < y.off + y.len ∧ y.off < x.off + x.len)

/-- The sections meet R588. A section must lie within the image's bytes. -/
def sectionsWell (img : List Byte) : Bool :=
  let xs := sectionsOf img
  let len (t : Nat) : Nat := ((sectionOf img t).map (·.len)).getD 0
  ((List.range 6).all fun t => (xs.filter fun x => x.type == t).length == 1)
    && decide (len 0 ≤ 2 ^ 20) && decide (len 2 + len 3 + len 4 + len 5 ≤ 2 ^ 23)
    && (xs.all fun x => decide (x.off % 4096 = 0 ∧ 4096 ≤ x.off ∧ x.off + x.len ≤ img.length))
    && ((List.range 6).all fun i => (List.range 6).all fun j =>
      decide (j ≤ i) || !((xs.getD i ⟨0, 0, 0, []⟩).meets (xs.getD j ⟨0, 0, 0, []⟩)))
    && ((List.range 6).all fun i =>
      let e := (img.drop (64 + 96 * i)).take 96
      zeroBytes ((e.drop 1).take 3) && zeroBytes ((e.drop 12).take 20))

/-- KEY_SLOT, SVN and PUBKEY of a header. -/
def imageKey (img : List Byte) : Nat := leAt img 6 1
/-- See `imageKey`. -/
def imageSvn (img : List Byte) : Nat := leAt img 12 1
/-- See `imageKey`. -/
def imagePub (img : List Byte) : List Byte := (img.drop 16).take 32

/-- The header meets R587. -/
def headerWell (img : List Byte) : Bool :=
  decide (4096 ≤ img.length ∧ img.length ≤ imageMax)
    && leAt img 0 4 == 0x4D495456 && leAt img 4 2 == 1 && decide (imageKey img < 4) && leAt img 7 1 == 0
    && decide (imageSvn img ≤ 64) && zeroBytes ((img.drop 13).take 3) && leAt img 48 2 == 6
    && zeroBytes ((img.drop 50).take 14) && zeroBytes ((img.drop 640).take 3392)

/-- Why an image fails R590, the trailer aside, as a REASON of Table 16-10; 0 where it passes. The conditions are tried in
R590's order. -/
def imageFault (nv : NonVolatile) (img : List Byte) : Nat :=
  if !(headerWell img && sectionsWell img) then 3
  else if !keyProgrammed nv (imageKey img) || keyRevoked nv (imageKey img) then 1
  else if padTo 64 (Config.sha512 (imagePub img)) != keyHash nv (imageKey img) then 1
  else if !Config.ed25519Verify (imagePub img) (img.take 4032) ((img.drop 4032).take 64) then 1
  else if imageSvn img < nv.arbCount then 2
  else if !(sectionGood img 0 && sectionGood img 1) then 3
  else 0

/-! ## The boot chain (R590) -/

/-- An image slot: 0 A, 1 B. -/
def NonVolatile.slot (nv : NonVolatile) (k : Nat) : ImageSlot := if k % 2 = 0 then nv.slotA else nv.slotB

/-- An image slot changed. -/
def NonVolatile.setSlot (nv : NonVolatile) (k : Nat) (x : ImageSlot) : NonVolatile :=
  if k % 2 = 0 then { nv with slotA := x } else { nv with slotB := x }

/-- Why a slot is not valid, as a REASON; 0 where it is. A slot without its trailer is malformed. -/
def slotFault (nv : NonVolatile) (k : Nat) : Nat :=
  match (nv.slot k).bootseq with
  | none => 3
  | some _ => imageFault nv (nv.slot k).image

/-- The slot tried first: the one with the higher BOOTSEQ, and A on a tie. A slot without a trailer has no BOOTSEQ and
goes last (DEDUCED, log entry 38). -/
def firstSlot (nv : NonVolatile) : Nat :=
  match nv.slotA.bootseq, nv.slotB.bootseq with
  | some a, some b => if a < b then 1 else 0
  | none, some _ => 1
  | _, none => 0

/-- The slot booted, and whether it is the second one tried. -/
def bootSlot (nv : NonVolatile) : Option (Nat × Bool) :=
  let k := firstSlot nv
  if slotFault nv k = 0 then some (k, false) else if slotFault nv (1 - k) = 0 then some (1 - k, true) else none

/-! ## The board section (R562, R563) -/

/-- Whether a board section has the layout of Table 15-6. -/
def boardWell (b : List Byte) : Bool :=
  decide (64 ≤ b.length) && leAt b 0 4 == 0x44425456 && leAt b 4 2 == 1 && decide (leAt b 6 1 < 4) && leAt b 7 1 == 0
    && ((b.drop 8).take 12).all (fun a => decide (a.toNat < 128)) && leAt b 21 1 == 0 && zeroBytes ((b.drop 22).take 42)

/-- The board section applied; one that is missing or malformed leaves HOLD0 1, the full test, no rail on PMBus and AVSBus
rails 0 and 1 (R563). -/
def applyBoard (s : State) (b : List Byte) : State :=
  if boardWell b then
    { s with start := { s.start with
        boardOk := true, hold0 := flag (leAt b 6 1) 0, mtest := flag (leAt b 6 1) 1
        pmbusAddr := ((b.drop 8).take 12).map (·.toNat), avsRails := leAt b 20 1 } }
  else
    let s := { s with start := { s.start with boardOk := false, hold0 := true, mtest := false, pmbusAddr := [], avsRails := 0x10 } }
    emitHub s 0x0B04 (leBytes 1 (bit (!b.isEmpty)))

/-! ## What the running image says of itself -/

/-- SEC_STAT's fields of the running image (Table 16-8). -/
def syncRunning (s : State) : State :=
  setFld (setFld s (rid .secStat) 8 6 (min s.sec.runSvn 63)) (rid .secStat) 14 2 s.sec.runKey

/-- A fresh nonce in SEC_DBG_NONCE (R601). -/
def setNonce (s : State) (nonce : List Byte) : State :=
  let n := padTo 8 nonce
  setReg (setReg { s with sec := { s.sec with nonce := n } } (rid .secDbgNonceLo) (leAt n 0 4)) (rid .secDbgNonceHi) (leAt n 4 4)

/-- The image a slot holds, that is running or was booted. -/
def bootedImage (s : State) : List Byte := (s.nv.slot (s.start.booted.getD 0)).image

end Sys2Proof.Machine
end

