-- ==== Sys2Proof/Machine/Power.lean ====
section
/-! DEFINITION. Power, clocks and thermal protection (Power, Clocks and Telemetry chapter): the stretch and the governor
(R520–R531), AVSBus and PMBus (R517–R519), issue holds (R524–R527, R537), trips and stops (R532–R534, R538, R621), and spread
(R539). -/

namespace Sys2Proof.Machine

/-- The power state changed. -/
def updPower (s : State) (f : Power → Power) : State := { s with power := f s.power }

/-- The effective fraction in eighths: the smaller of the stretch and the governor fraction (R522). -/
def fraction (s : State) : Nat := min s.power.stretch s.power.governor

/-- THROTTLE_OUT# (R523, R621). -/
def throttleOut (s : State) : Bool := decide (fraction s < 8) || issueHold s || s.power.thermtrip || s.power.railStop

/-- THM_STAT brought up to date with the fractions and the hold (Table 14-11). -/
def syncThm (s : State) : State :=
  let r := rid .thmStat
  setBit (setFld (setFld s r 0 4 (fraction s)) r 4 4 s.power.governor) r 10 (issueHold s)

/-! ## VR_ALERT# and the stretch (R520) -/

/-- VR_ALERT_FALL. -/
def execVrAlertFall (s : State) : Host.Outcome State Fault Refusal :=
  whenLive s fun s =>
    if s.power.vrAlertLow then s
    else
      let s := addFld (updPower s fun p => { p with vrAlertLow := true, stretch := 4, ramping := false }) (rid .clkStretchCfg) 16 16 1
      raiseAlarm (syncThm s) 26

/-- VR_ALERT_RISE: HOLD begins; the ramp follows it. -/
def execVrAlertRise (s : State) : Host.Outcome State Fault Refusal :=
  whenLive s fun s =>
    if s.power.vrAlertLow then updPower s fun p =>
      { p with vrAlertLow := false, ramping := true, rampAt := s.time + 400 * getFld s (rid .clkStretchCfg) 0 8 }
    else s

/-- STRETCH_RAMP_STEP: one eighth more, until 8/8, every 2 µs. -/
def execStretchRampStep (s : State) : Host.Outcome State Fault Refusal :=
  whenLive s fun s =>
    if s.power.ramping && decide (s.power.rampAt ≤ s.time) then
      syncThm (updPower s fun p =>
        { p with stretch := min 8 (p.stretch + 1), ramping := decide (p.stretch + 1 < 8), rampAt := s.time + 800 })
    else s

/-! ## The regulator stage (R517–R519) -/

/-- The field of PWR_AVS_STAT of a rail: bits [9:0] for VDD_CORE_A, [25:16] for VDD_CORE_B. -/
def avsField (railB : Bool) : Nat := if railB then 16 else 0

/-- The acknowledged target of a rail; the boot voltage before the first (Table 15-1). -/
def avsTarget (s : State) (railB : Bool) : Nat :=
  let v := getFld s (rid .pwrAvsStat) (avsField railB) 10
  if v = 0 then 750 else v

/-- The next target on the way to the voltage curve's: within 650 to 850 mV, at most 5 mV away (R517). -/
def avsStep (now curve : Nat) : Nat :=
  let t := min 850 (max 650 curve)
  if now ≤ t then min t (now + 5) else max t (now - 5)

/-- A target that is not acknowledged yet. -/
def setPendingAvs (s : State) (railB : Bool) (v : Option Nat) : State :=
  updPower s fun p => if railB then { p with avsPendingB := v } else { p with avsPendingA := v }

/-- See `setPendingAvs`. -/
def pendingAvs (s : State) (railB : Bool) : Option Nat := if railB then s.power.avsPendingB else s.power.avsPendingA

/-- A target written over AVSBus. -/
def writeAvs (s : State) (railB : Bool) (mv : Nat) (acked : Bool) : State :=
  let s := send s (.avs (field s.start.avsRails (4 * bit railB) 4) mv)
  if acked then setFld (setPendingAvs s railB none) (rid .pwrAvsStat) (avsField railB) 10 mv
  else setPendingAvs s railB (some mv)

/-- AVS_UPDATE: the targets of both rails on their way to their curves (R517). -/
def execAvsUpdate (targetA targetB : Nat) (ackA ackB : Bool) (s : State) : Host.Outcome State Fault Refusal :=
  whenLive s fun s =>
    let s := writeAvs s false (avsStep (avsTarget s false) targetA) ackA
    writeAvs s true (avsStep (avsTarget s true) targetB) ackB

/-- AVS_RETRY: the one repetition (R518). -/
def execAvsRetry (railB : Bool) (acked : Bool) (s : State) : Host.Outcome State Fault Refusal :=
  whenLive s fun s =>
    match pendingAvs s railB with
    | none => s
    | some mv =>
      let s := setPendingAvs (writeAvs s railB mv acked) railB none
      if acked then s else emitHub (raiseAlarm s 35) 0x0A04 (leBytes 1 (bit railB) ++ leBytes 2 mv)

/-- The fault and warning bits of STATUS_WORD: all but POWER_GOOD# [11] and OFF [6] (PRESUMED, log entry 36). -/
def statusFaults : Nat := 0xF7BF

/-- PMBUS_POLL: a rail with a PMBus address is read (R519, R562). -/
def execPmbusPoll (rail status : Nat) (s : State) : Host.Outcome State Fault Refusal :=
  whenLive s fun s =>
    if s.start.pmbusAddr.getD rail 0 = 0 ∨ status &&& statusFaults = 0 then s
    else emitHub (raiseAlarm s 27) 0x0A03 (leBytes 1 rail ++ leBytes 2 status)

/-! ## Issue holds (R524–R526, R537) -/

/-- Whether an engine works on a descriptor, so that a hold stops it at a unit boundary (R524). Of an update unit's
descriptors only the first is in work. -/
def engineWork (s : State) (w : Work) : Bool :=
  w.phase == .running && regionRuns s w.place.regionOf
    && (match w.op with
        | some .leafProgram | some .leafReadback | some .tileEvaluate | some .dmuProduct | some .dmuPair
        | some .vectorProgram => true
        | some .memCopy => !recOpen s w.ring w.index
        | some .updateStep => (updWaiting s w.place.regionOf).head?.any fun v => w.isAt v.ring v.index
        | _ => false)

/-- A descriptor stopped by a hold restarted: OK_REPLAYED with the cause's detail code, its engines starting again as credit allows
(R525, R337). -/
def restartWork (dcode : Nat) (s : State) (w : Work) : State :=
  putWork s { w.also 3 dcode with stopped := false, starts := bit w.half }

/-- A cause of a hold has ended; with the last one the stopped descriptors restart. -/
def holdEnds (s : State) (dcode : Nat) : State :=
  if issueHold s then syncThm s
  else
    let stopped := s.work.filter fun w => w.stopped || engineWork s w
    syncThm (stopped.foldl (restartWork dcode) (updPower s fun p => { p with settled := false }))

/-- ISSUE_HOLD_SETTLED: every engine has stopped at a unit boundary (R524) (DEDUCED, log entry 59). -/
def execIssueHoldSettled (s : State) : Host.Outcome State Fault Refusal :=
  whenLive s fun s =>
    if issueHold s ∧ s.power.settled = false then
      { s with power := { s.power with settled := true },
               work := s.work.map fun w => if engineWork s w then { w with stopped := true } else w }
    else s

/-- Whether a VIN_MON code lies below a threshold in quarters of a volt: VIN is 50 × 1.2 V × code ÷ 2^23 (Tables 14-2, 14-5). -/
def vinBelow (code quarters : Nat) : Bool := decide (240 * code < quarters * 2 ^ 23)

/-- SAG_THR in quarters of a volt. -/
def sagThreshold (s : State) : Nat := 144 + getFld s (rid .pwrVinCfg) 0 6

/-- INPUT_SAG: below SAG_THR for SAG_US (R526). -/
def execInputSag (code : Nat) (s : State) : Host.Outcome State Fault Refusal :=
  whenLive s fun s =>
    if s.power.sagHold || !vinBelow code (sagThreshold s) then s
    else
      let s := raiseAlarm (updPower s fun p => { p with sagHold := true, sagSince := s.time }) 24
      emitHub (syncThm s) 0x0A01 (leBytes 1 0 ++ leBytes 3 code ++ leBytes 4 0)

/-- SAG_RECOVERY: at or above SAG_THR + 1.0 V for 100 µs (R526). -/
def execSagRecovery (code : Nat) (s : State) : Host.Outcome State Fault Refusal :=
  whenLive s fun s =>
    if !s.power.sagHold || vinBelow code (sagThreshold s + 4) then s
    else
      let s := emitHub (updPower s fun p => { p with sagHold := false }) 0x0A01
        (leBytes 1 1 ++ leBytes 3 code ++ leBytes 4 ((s.time - s.power.sagSince) / 400))
      holdEnds s 0xD0

/-- INPUT_SURGE: above SURGE_THR (R527). -/
def execInputSurge (code : Nat) (s : State) : Host.Outcome State Fault Refusal :=
  whenLive s fun s =>
    if (208 + getFld s (rid .pwrVinCfg) 8 6) * 2 ^ 23 < 240 * code then emitHub (raiseAlarm s 25) 0x0A02 (leBytes 4 code) else s

/-! ## The governor (R528–R531) -/

/-- Whether the current cause holds: a limit exceeded, or no valid result of channel 1 or 2 in the last 2 ms (R528, R530). -/
def currentCause (s : State) (mean100 mean1 : Nat) : Bool :=
  let stale := match s.power.lastCoreResult with
    | some t => decide (800000 < s.time - t)
    | none => true
  stale || decide (getFld s (rid .pwrIccCfg) 0 11 < mean100) || decide (2600 < mean1)

/-- Whether both sides are comfortable enough to raise the fraction (R528). -/
def comfortable (s : State) (hottest mean100 mean1 : Nat) : Bool :=
  decide (hottest + 3 ≤ getFld s (rid .thmCfg) 0 7) && decide (100 * mean100 ≤ 95 * getFld s (rid .pwrIccCfg) 0 11)
    && decide (100 * mean1 ≤ 95 * 2600)

/-- GOVERNOR_EVALUATE: the hottest block sensor in °C, and the means of the core current over 100 ms and 1 ms in A. -/
def execGovernorEvaluate (hottest mean100 mean1 : Nat) (s : State) : Host.Outcome State Fault Refusal :=
  whenLive s fun s =>
    let r := rid .thmStat
    let thermal := decide (getFld s (rid .thmCfg) 0 7 ≤ hottest)
    let current := currentCause s mean100 mean1
    let old := s.power.governor
    let calm := if !thermal && !current && comfortable s hottest mean100 mean1 then s.power.calmMs + 1 else 0
    let raised := decide (10 ≤ calm ∧ old < 8)
    let new := if 105 ≤ hottest then 4 else if thermal || current then max 4 (old - 1) else if raised then old + 1 else old
    let s := if 105 ≤ hottest ∧ getFld s r 16 8 < 105 then raiseAlarm s 30 else s
    let s := updPower s fun p => { p with governor := new, calmMs := if raised then 0 else calm }
    let s := setFld (setBit (setBit s r 8 thermal) r 9 current) r 16 8 hottest
    let s := syncThm s
    if new = old then s
    else
      let s := addFld s r 24 8 1
      let s := if old = 8 ∧ thermal = true then raiseAlarm s 29 else s
      let s := if old = 8 ∧ current = true then raiseAlarm s 28 else s
      emitHub s 0x0A05 (leBytes 1 new ++ leBytes 1 (bit thermal + 2 * bit current) ++ leBytes 1 hottest)

/-- OPTICAL_ENGINE_TEMPERATURE (R532). No step of training has failed where the port goes DOWN: FAIL_STEP is 0 (log entry
36). -/
def execOpticalEngineTemperature (port celsius : Nat) (s : State) : Host.Outcome State Fault Refusal :=
  whenLive s fun s =>
    if 8 ≤ port then s
    else
      let event (s : State) (hot : Bool) : State :=
        emitFn s 0 0x0A07 14 port (leBytes 1 port ++ leBytes 1 celsius ++ leBytes 1 (bit hot))
      let warm := decide (port ∈ s.power.oeWarm)
      let s := setFld s (rid .portOeTemp port) 0 8 celsius
      let s := updPower s fun p => { p with oeWarm := if celsius < 85 then p.oeWarm.filter (· ≠ port)
                                                     else if warm then p.oeWarm else port :: p.oeWarm }
      let s := if 85 ≤ celsius ∧ warm = false then event s false else s
      let p := getPort s port
      if 95 ≤ celsius ∧ p.overTemp = false then
        let s := event (raiseAlarm s 34) true
        let s := updPort s port fun p => { p with overTemp := true }
        if p.state = .disabled then s else portDown s port 0 (p.rxMap.length + p.spares.length)
      else if celsius ≤ 85 ∧ p.overTemp = true then
        let s := updPort s port fun p => { p with overTemp := false }
        if p.state = .down then beginTraining s port .signalDetect else s
      else s

/-! ## Trips, PLLs and rails (R533, R537, R538, R621) -/

/-- THERMTRIP (R533). -/
def execThermtrip (s : State) : Host.Outcome State Fault Refusal :=
  finish s (updPower s fun p => { p with thermtrip := true })

/-- The bit of CLK_PLL_STAT.LOCK of a PLL. -/
def pllBit : Pll → Nat
  | .host => 0
  | .mgt => 1
  | .cmp => 2
  | .net => 3
  | .arr => 4
  | .mem => 5
  | .fab => 6

/-- PLL_LOSS_OF_LOCK (R537, R538). -/
def execPllLossOfLock (pll : Pll) (s : State) : Host.Outcome State Fault Refusal :=
  whenLive s fun s =>
    if !getBit s (rid .clkPllStat) (pllBit pll) then s
    else
      let s := setBit s (rid .clkPllStat) (pllBit pll) false
      match pll with
      | .mgt => updPower s fun p => { p with mgtLost := true }
      | .host => updPower s fun p => { p with hostLost := true }
      | .fab => (List.range 8).foldl (fun s p => linkLost s p false) s
      | _ => raiseAlarm (syncThm (updPower s fun p =>
          { p with pllHold := pll :: p.pllHold, pllAt := (pll, s.time) :: p.pllAt })) 31

/-- PLL_RELOCKED: the PLL has settled again (R537). -/
def execPllRelocked (pll : Pll) (s : State) : Host.Outcome State Fault Refusal :=
  whenLive s fun s =>
    if pll ∈ s.power.pllHold then
      let s := addFld (setBit s (rid .clkPllStat) (pllBit pll) true) (rid .clkPllStat) 16 8 1
      let s := updPower s fun p => { p with pllHold := p.pllHold.filter (· ≠ pll), pllAt := p.pllAt.filter (·.1 ≠ pll) }
      let s := emitHub s 0x0A06 (leBytes 1 (pllBit pll) ++ leBytes 1 0)
      holdEnds s 0xD1
    else s

/-- PLL_RELOCK_TIMEOUT: not settled within 10 ms of the loss (R537). -/
def execPllRelockTimeout (pll : Pll) (s : State) : Host.Outcome State Fault Refusal :=
  whenLive s fun s =>
    match s.power.pllAt.find? fun x => x.1 = pll with
    | some x =>
      if x.2 + 10 * 400000 ≤ s.time then failStopNow (emitHub s 0x0A06 (leBytes 1 (pllBit pll) ++ leBytes 1 1)) else s
    | none => s

/-- The setting in force after one peak of the modulation: the RATE written, the DEPTH at most one step closer (R539). -/
def sscStep (now reg : Nat) : Nat :=
  let d := field now 0 4
  let t := field reg 0 4
  setField reg 0 4 (if d < t then d + 1 else if t < d then d - 1 else d)

/-- SSC_APPLY. -/
def execSscApply (network : Bool) (s : State) : Host.Outcome State Fault Refusal :=
  whenLive s fun s =>
    if network then updPower s fun p => { p with sscNet := sscStep p.sscNet (getReg s (rid .clkSscNet)) }
    else updPower s fun p => { p with sscCmp := sscStep p.sscCmp (getReg s (rid .clkSscCmp)) }

/-- RAIL_UNDERVOLTAGE of a rail other than VDD_HUB and VDD_IO18 (R621): the PLLs but PLL_HOST and PLL_MGT stop; the alarm
latches, and no message leaves. -/
def execRailUndervoltage (rail : Nat) (s : State) : Host.Outcome State Fault Refusal :=
  whenLive s fun s =>
    if rail = 5 ∨ rail = 6 ∨ 12 ≤ rail then s
    else
      let t := latchAlarm s 27
      let t := { t with out := s.out, msixPending := s.msixPending }
      updPower (setFld t (rid .clkPllStat) 2 5 0) fun p => { p with railStop := true }

end Sys2Proof.Machine
end

