-- ==== Sys2Proof/Machine/Telemetry.lean ====
section
/-! DEFINITION. The telemetry converters (R540–R550): triggers, passes, conversions, urgent requests, and their calibration. -/

namespace Sys2Proof.Machine

/-- Whether a converter's clock runs (R64). -/
def tadcRuns (s : State) (n : Nat) : Bool := decide (n < 5) && clkRuns s (2 + n)

/-- Whether a converter takes new work: its enable reads 1 and its clock runs (R64). -/
def tadcTakes (s : State) (n : Nat) : Bool := tadcRuns s n && clkEnabled s (2 + n)

/-- TRIG of a converter. -/
def tadcTrig (s : State) (n : Nat) : Nat := getFld s (rid .tadcCtl n) 4 2

/-- SYNC_LOST of a converter. -/
def syncLost (s : State) (n : Nat) : Bool := getBit s (rid .tadcStat n) 1

/-- The converter that runs a converter's next pass (BY): TADC4, where it replaces it or stands in for it (R547). -/
def tadcBy (s : State) (n : Nat) : Nat := if getBit s (rid .tadcStat n) 2 || s.power.bgStand == some n then 4 else n

/-- The channels of a converter's valid sequence entries, in order (R541). -/
def tadcSequence (s : State) (n : Nat) : List Nat :=
  (List.range 16).filterMap fun e =>
    let r := getReg s (rid .tadcSeq n (e / 4))
    if flag r (8 * (e % 4) + 6) then some (field r (8 * (e % 4)) 6) else none

/-- PASSING brought up to date. -/
def syncPassing (s : State) (n : Nat) : State :=
  let t := getTadc s n
  setBit s (rid .tadcStat n) 0 (t.delaying || t.passRunning)

/-- A pass begins (R541). -/
def startPass (s : State) (n : Nat) : State :=
  let q := tadcSequence s n
  let s := setFld s (rid .tadcStat n) 4 3 (tadcBy s n)
  syncPassing (updTadc s n fun t => { t with
    delaying := false, pass := q.drop 1, converting := q.head?, passRunning := !q.isEmpty, runs := tadcBy s n }) n

/-- A trigger (R542): it starts the delay or the pass, or is counted in OVERRUN. -/
def tadcTrigger (s : State) (n : Nat) : State :=
  let t := getTadc s n
  if t.delaying || t.passRunning then addFld s (rid .tadcStat n) 16 16 1
  else if getFld s (rid .tadcCtl n) 8 11 = 0 then startPass s n
  else syncPassing (updTadc s n fun t => { t with delaying := true, delayAt := s.time }) n

/-- TADC_TIMER_TRIGGER, every PERIOD µs (R542): also what runs a converter that has lost VR_SYNC (R543). -/
def execTadcTimerTrigger (conv : Nat) (s : State) : Host.Outcome State Fault Refusal :=
  whenLive s fun s =>
    if tadcTakes s conv && (tadcTrig s conv == 1 || (decide (2 ≤ tadcTrig s conv) && syncLost s conv))
        && decide ((getTadc s conv).timerAt + 400 * getFld s (rid .tadcPer conv) 0 16 ≤ s.time) then
      tadcTrigger (updTadc s conv fun t => { t with timerAt := s.time }) conv
    else s

/-- DIV of a converter: 0 means 4,096. -/
def tadcDiv (s : State) (n : Nat) : Nat := let d := getFld s (rid .tadcCtl n) 19 12; if d = 0 then 4096 else d

/-- TADC_SYNC_TRIGGER: an edge of VR_SYNC; every DIV-th of the selected polarity triggers (R542), and any of them ends a sync
loss (R543). -/
def execTadcSyncTrigger (conv : Nat) (rising : Bool) (s : State) : Host.Outcome State Fault Refusal :=
  whenLive s fun s =>
    if !tadcTakes s conv || tadcTrig s conv != (if rising then 2 else 3) then s
    else
      let s := setBit (updTadc s conv fun t => { t with edgeAt := s.time }) (rid .tadcStat conv) 1 false
      let n := (getTadc s conv).edges + 1
      if tadcDiv s conv ≤ n then tadcTrigger (updTadc s conv fun t => { t with edges := 0 }) conv
      else updTadc s conv fun t => { t with edges := n }

/-- TADC_PASS_START: the delay of DELAY × 10 ns is over (R542). -/
def execTadcPassStart (conv : Nat) (s : State) : Host.Outcome State Fault Refusal :=
  whenLive s fun s =>
    let t := getTadc s conv
    if tadcRuns s conv && t.delaying && decide (t.delayAt + 4 * getFld s (rid .tadcCtl conv) 8 11 ≤ s.time) then startPass s conv
    else s

/-- Whether a result of a channel is valid: channels 4 to 6 only once a self-calibration has passed, and not while one runs
(R549). -/
def resultValid (s : State) (ch : Nat) : Bool :=
  !(decide (4 ≤ ch ∧ ch ≤ 6)) || (getBit s (rid .tadcScal) 1 && !s.power.scalRunning)

/-- A result stored (R541, Table 14-14); one of channel 1 or 2 serves the governor (R530). -/
def storeResult (s : State) (runner ch : Nat) (value : Int) (urgent : Bool) : State :=
  let ok := resultValid s ch
  let s := setReg s (rid .tadcRes ch)
    (unsigned 24 value + runner % 8 * 2 ^ 24 + bit ok * 2 ^ 27 + bit urgent * 2 ^ 28)
  if ok ∧ (ch = 1 ∨ ch = 2) then updPower s fun p => { p with lastCoreResult := some s.time } else s

/-- GO of TADC_URG reads 1 until the last urgent result is stored (R544). -/
def syncUrgent (s : State) : State :=
  setBit s (rid .tadcUrg) 31 ((List.range 5).any fun n => !(getTadc s n).urgent.isEmpty)

/-- TADC_CONVERSION_DONE: the urgent conversion, or the one of the pass, which moves on (R541, R544). -/
def execTadcConversionDone (conv : Nat) (value : Int) (s : State) : Host.Outcome State Fault Refusal :=
  whenLive s fun s =>
    let t := getTadc s conv
    if !tadcRuns s conv then s
    else match t.urgent with
      | ch :: rest =>
        let s := storeResult s (tadcBy s conv) ch value true
        syncUrgent (updTadc s conv fun t => { t with urgent := rest })
      | [] =>
        match t.converting with
        | none => s
        | some ch =>
          let s := storeResult s t.runs ch value false
          syncPassing (updTadc s conv fun t => { t with
            converting := t.pass.head?, pass := t.pass.drop 1, passRunning := !t.pass.isEmpty }) conv

/-- TADC_SYNC_LOST: no edge for 1 ms (R543). -/
def execTadcSyncLost (conv : Nat) (s : State) : Host.Outcome State Fault Refusal :=
  whenLive s fun s =>
    if tadcRuns s conv && decide (2 ≤ tadcTrig s conv) && !syncLost s conv
        && decide ((getTadc s conv).edgeAt + 400000 ≤ s.time) then
      emitFn (setBit s (rid .tadcStat conv) 1 true) 0 0x0A09 2 conv (leBytes 1 conv)
    else s

/-- TADC_URGENT_REQUEST: TADC_URG written with GO (R544). The converter named is one of TADC0 to TADC3; one that is disabled
refuses it (R64). -/
def execTadcUrgentRequest (value : W32) (s : State) : Host.Outcome State Fault Refusal :=
  whenReg s 0 (rid .tadcUrg) fun s =>
    let x := value.toNat
    let r := rid .tadcUrg
    let s := setFld (setFld s r 0 6 x) r 8 3 (field x 8 3)
    if flag x 31 ∧ field x 8 3 < 4 ∧ tadcTakes s (field x 8 3) = true then
      syncUrgent (updTadc s (field x 8 3) fun t => { t with urgent := t.urgent ++ [field x 0 6] })
    else s

/-! ## The privileged self-calibration (R548–R550) -/

/-- A self-calibration runs; the results of channels 4 to 6 are not valid meanwhile (R549). -/
def beginScal (s : State) (first : Bool) : State :=
  let s := [4, 5, 6].foldl (fun s c => setBit s (rid .tadcRes c) 27 false) s
  updPower s fun p => { p with scalRunning := true, scalFirst := first }

/-- A self-calibration is started: it waits for TADC4 to hand back the passes it holds. TADC4, which makes it, refuses it while it
is disabled, but for the start's own (R64). -/
def startScal (s : State) (first : Bool) : State :=
  if s.power.scalRunning || s.power.scalWaits || !(first || tadcTakes s 4) then s
  else
    let s := setBit s (rid .tadcScal) 0 true
    if s.power.bgStand.isSome then updPower s fun p => { p with scalWaits := true } else beginScal s first

/-! ## Background calibration (R547) -/

/-- TADC4 hands back the passes that it holds; a self-calibration that waits for it begins (R547, R548). -/
def handBack (s : State) : State :=
  let s := updPower s fun p => { p with bgStand := none }
  if s.power.scalWaits then beginScal (updPower s fun p => { p with scalWaits := false }) false else s

/-- TADC_BACKGROUND_CALIBRATION of the converter in turn (R547): TADC4 takes over its passes, and 100 ms later, when it has measured
its offset and gain, it takes them back, or TADC4 replaces it for good. TADC4 measures itself while it stands in for no converter
(DEDUCED, log entry 37). -/
def execTadcBackgroundCalibration (conv : Nat) (offsetOk gainOk : Bool) (s : State) : Host.Outcome State Fault Refusal :=
  whenLive s fun s =>
    let fault (s : State) : State :=
      let s := raiseAlarm (updPower s fun p => { p with bgStopped := true }) 32
      emitFn s 0 0x0A08 2 conv (leBytes 1 conv ++ leBytes 1 (bit offsetOk))
    if s.power.bgStopped || s.power.scalRunning || !tadcRuns s conv || decide (5 ≤ conv) then s
    else match s.power.bgStand with
      | none =>
        if s.power.scalWaits then s
        else if conv = 4 then (if offsetOk && gainOk then s else fault s)
        else if conv ≠ s.power.bgConv then s
        else updPower s fun p => { p with bgStand := some conv, bgSince := s.time }
      | some n =>
        if conv ≠ n ∨ s.time < s.power.bgSince + 100 * 400000 then s
        else if offsetOk && gainOk then handBack (updPower s fun p => { p with bgConv := (p.bgConv + 1) % 4 })
        else handBack (fault (setFld (setBit s (rid .tadcStat conv) 2 true) (rid .tadcStat conv) 4 3 4))

/-- SELF_CALIBRATION_START: TADC_SCAL.START written (R548). -/
def execSelfCalibrationStart (s : State) : Host.Outcome State Fault Refusal := 
  whenReg s 0 (rid .tadcScal) fun s => startScal s false

/-- Whether a self-calibration fails: REXT more than 9.98 Ω away, or the thermal references more than 0.5 °C apart, in units of
2^−16 (R550). -/
def scalFails (rext diff : Int) : Bool := decide (998 * 65536 < 100 * rext.natAbs) || decide (32768 < diff.natAbs)

/-- SELF_CALIBRATION_END (R548, R550). -/
def execSelfCalibrationEnd (rext tref0 tref1 : Int) (offsets gains : List Nat) (s : State) : Host.Outcome State Fault Refusal :=
  whenLive s fun s =>
    if !s.power.scalRunning then s
    else
      let fail := scalFails rext (tref0 - tref1)
      let first := s.power.scalFirst
      let r := rid .tadcScal
      let s := setBit (setBit s r 0 false) r 2 fail
      let s := updPower s fun p => { p with scalRunning := false, scalFirst := false,
                                            scalAtStart := if first then !fail else p.scalAtStart }
      let s := if fail then
          let s := if first then (List.range 1024).foldl (fun s c => setBit s (rid .cellCalStat c) 0 false) s else s
          raiseAlarm s 33
        else
          (List.range 3).foldl (fun s c => setFld (setFld s (rid .tadcCalOfs c) 0 24 (offsets.getD c 0))
            (rid .tadcCalGain c) 0 24 (gains.getD c 0x400000)) (setBit s r 1 true)
      emitHub s 0x0A0A (leBytes 1 (bit fail) ++ leBytes 4 (unsigned 32 rext) ++ leBytes 4 (unsigned 32 (tref0 - tref1)))

end Sys2Proof.Machine
end

