-- ==== Sys2Proof/Machine/Start.lean ====
section
/-! DEFINITION. PERST#, the boot, and the five stages of the start (R553–R582, R612–R614). -/

namespace Sys2Proof.Machine

/-! ## PERST# and the loss of power -/

/-- What an assertion of PERST# leaves (R556): the non-volatile stores of R515, the thermal trip of R533, the vendor debug
state, which ends at the release (Table 16-7), and what is not the device's: the host's memory, what was sent, and the test
port, which TCK clocks (R616). -/
def perstReset (s : State) : State :=
  { State.atReset s.nv with
    free := s.free
    out := s.out
    hostMem := s.hostMem
    hostErr := s.hostErr
    tap := s.tap
    sec := { vendor := s.sec.vendor }
    power := { thermtrip := s.power.thermtrip } }

/-- PERST_ASSERT (R556). -/
def execPerstAssert (s : State) : Host.Outcome State Fault Refusal := finish s (perstReset s)

/-- LOSS_OF_POWER (R515, R533): THERMTRIP# is released with VDD_HUB. -/
def execLossOfPower (s : State) : Host.Outcome State Fault Refusal :=
  finish s { State.atReset s.nv with free := s.free, out := s.out, hostMem := s.hostMem, hostErr := s.hostErr }

/-! ## The map of logical to physical units (R20, R21) -/

/-- The repair entries in force: the factory's, the record's, and the journal's that the record lacks (R270). -/
def repairsInForce (nv : NonVolatile) : List Repair := nv.factory ++ foldedEntries nv

/-- Positions of 8 logical things over physical ones 0 to 8, of which 8 is the spare: the first one to have become bad is
replaced by the spare, where that is good, and the rest stay out of use (R21). `bad` lists the bad ones in the order in which
they became so. It answers, for each, its physical position, if any. -/
def positions (bad : List Nat) : List (Option Nat) :=
  let first := bad.find? (· < 8)
  (List.range 8).map fun i =>
    if i ∉ bad then some i
    else if first = some i ∧ 8 ∉ bad then some 8
    else none

/-- The physical blocks of a region's logical blocks. -/
def blockPositions (nv : NonVolatile) (r : Nat) : List (Option Nat) :=
  positions ((List.range 9).filter fun k => decide (9 * r + k ∈ nv.badBlocks))

/-- The defective cells of nine physical ones from a number on, in the order of R270: those of the yield map, then those that
repair entries retire, the factory's, the record's and the journal's (R21). -/
def badInOrder (nv : NonVolatile) (base : Nat) : List Nat :=
  (((List.range 9).filter fun c => decide (base + c ∈ nv.badCells))
    ++ ((repairsInForce nv).filter fun e => e.kind == 4 && decide (base ≤ e.pcell ∧ e.pcell < base + 9)).map fun e =>
      e.pcell - base).eraseDups

/-- The physical cells of the logical cells of a physical block of a region. -/
def cellPositions (nv : NonVolatile) (r k : Nat) : List (Option Nat) := positions (badInOrder nv (81 * r + 9 * k))

/-- Where a logical cell lies in its physical block; none where it stays retired. -/
def cellPlace (nv : NonVolatile) (cell : Nat) : Option Nat :=
  match (blockPositions nv (cell / 64)).getD (cell / 8 % 8) none with
  | none => none
  | some k => (cellPositions nv (cell / 64) k).getD (cell % 8) none

/-- The units that the map leaves out of use: blocks with their vector engines and DMUs, and cells (R21). -/
def unmapped (nv : NonVolatile) : List (Nat × Nat) :=
  let bs := (List.range 128).filter fun b => ((blockPositions nv (b / 8)).getD (b % 8) none).isNone
  let cs := (List.range 1024).filter fun c => (cellPlace nv c).isNone
  bs.flatMap (fun b => [(8, b), (11, b), (10, 2 * b), (10, 2 * b + 1)]) ++ cs.map fun c => (9, c)

/-- The units out of use RETIRED and counted (R61). -/
def retireUnmapped (s : State) : State :=
  let out := unmapped s.nv
  let s := out.foldl (fun s e => updEntry s e.1 e.2 fun x => { x with retired := true }) s
  updEntry s 12 0 fun x => { x with word := (out.filter fun e => e.1 == 9).length }

/-! ## Stages -/

/-- The type-specific word of an entry as it is appended (Table 2-6). -/
def firstWord (type inst : Nat) : Nat :=
  if type = 4 then 65536
  else if type = 6 then 6
  else if type = 3 then inst
  else if type = 7 then inst / 8
  else if type = 13 then 100
  else 0

/-- An entry as it is appended: PRESENT 0, GATED while its clock does not run (R60, Table 2-5; DEDUCED, log entry 39).
-/
def newEntry (s : State) (e : Nat × Nat) : State :=
  let gated := match clkIndex e.1 e.2 with
    | some i => !clkRuns s i
    | none => false
  updEntry s e.1 e.2 fun x => { x with gated := gated, word := firstWord e.1 e.2 }

/-- The entries that a stage appends, within one span of the update sequence (R60). The units that the map leaves out of use
appear with RETIRED set, and counted (R61). In recovery BAR0 holds the Hub entry alone
(R591). -/
def appendStage (s : State) (stage : Nat) : State :=
  let es := if s.start.recovery then [(1, 0)] else stageEntries stage formatCodes
  transomSpan s fun s =>
    let s := es.foldl newEntry { s with transom := { s.transom with appended := stage + 1 } }
    if stage = 1 then retireUnmapped s else s

/-- Entries made PRESENT, but for those RETIRED. -/
def setPresent (s : State) (es : List (Nat × Nat)) : State :=
  es.foldl (fun s e => updEntry s e.1 e.2 fun x => { x with present := !x.retired }) s

/-- Milliseconds since PERST# release. -/
def startMs (s : State) : Nat := s.time / 400000

/-- A stage completes: what its end settles and the stage-reached byte within one span, and the event (R558, R60). -/
def stageComplete (s : State) (stage : Nat) (settle : State → State) : State :=
  let s := transomSpan s fun s =>
    let s := settle s
    { s with transom := { s.transom with stageReached := stage } }
  emitHub s 0x0B01 (leBytes 1 stage ++ leBytes 4 (startMs s))

/-- A stage begins: HUB_START_STAT.STAGE, the PLLs it starts, and its entries. -/
def beginStage (s : State) (stage : Nat) (phase : StartPhase) (plls : List Pll) : State :=
  let s := { s with start := { s.start with phase := phase } }
  let s := setFld (setBit s (rid .hubStartStat) 3 false) (rid .hubStartStat) 0 3 stage
  let s := plls.foldl (fun s p => setBit s (rid .clkPllStat) (pllBit p) true) s
  if stage < 3 then appendStage s stage else s

/-- Stage 1 begins: firmware holds the token for activation in slot 7 (R566). -/
def beginStage1 (s : State) : State :=
  let s := setReg s (rid .fltMaintSlot 7) (slotWord 0 0 .firmware)
  beginStage s 1 .stage1 [.cmp, .net, .arr, .mem]

/-! ## Stage 0 -/

/-- The boot ROM's outcome (R590, R591): the slot booted, with its board section applied and the self-calibration started, or
recovery, in which the start halts. -/
def bootRun (s : State) : State :=
  match bootSlot s.nv with
  | none =>
    let s := { s with start := { s.start with recovery := true, configReady := true } }
    haltStart (appendStage s 0) 1
  | some (k, second) =>
    let s := { s with start := { s.start with booted := some k, fallback := second } }
    let img := bootedImage s
    let s := { s with sec := { s.sec with runSvn := imageSvn img, runKey := imageKey img } }
    let s := syncRunning (setBit (setBit s (rid .secStat) 2 (decide (k = 1))) (rid .secStat) 3 second)
    let s := appendStage s 0
    let s := if second then
        emitHub (raiseAlarm s 40) 0x0C01 (leBytes 1 k ++ leBytes 1 (slotFault s.nv (1 - k)))
      else s
    startScal (applyBoard s (sectionData img 1)) true

/-- The identity public key in SEC_ID_PUB (R595); a retired device never uses its identity key (Table 16-7). -/
def setIdentity (s : State) : State :=
  if s.nv.dbgRetired then s
  else (List.range 8).foldl (fun s n => setReg s (rid .secIdPub n) (leAt (identityPublic s.nv) (4 * n) 4)) s

/-- Whether an instruction of the test port drives a land or enters internal state (R616). -/
def jtagDrives : JtagOp → Bool
  | .idcode | .bypass | .samplePreload => false
  | .extest | .internalScan | .memory | .coreDebug => true

/-- Stage 0 begins at PERST# release (R558, R560, R595, R612, R616). -/
def beginStart (s : State) (straps : Straps) (nonce : List Byte) : State :=
  let s := { s with
    time := 0
    start := { s.start with perst := false, phase := .stage0, straps := straps }
    sec := { s.sec with vendor := false }
    tap := if jtagDrives s.tap.instruction then {} else s.tap }
  let s := setReg s (rid .hubStrapStat) (straps.pllSettle.toNat + 8 * straps.smbAddr.toNat + 32 * bit straps.testEn)
  let s := setNonce (syncFuses s) nonce
  let s := setBit (setBit s (rid .clkPllStat) 0 true) (rid .clkPllStat) 1 true
  bootRun (setIdentity s)

/-- PERST_RELEASE. After a thermal trip every PLL stays stopped, and nothing begins (R533) (DEDUCED, log entry 54). -/
def execPerstRelease (straps : Straps) (nonce : List Byte) (s : State) : Host.Outcome State Fault Refusal :=
  finish s
    (if !s.start.perst then s
     else if s.power.thermtrip then { s with start := { s.start with perst := false } }
     else beginStart s straps nonce)

/-- HOLD0 as Stage 0 loads it (R564, R602, R613): a factory test hold forces it in the open debug state. -/
def testHold (s : State) : Bool := s.start.straps.testEn && dbgState s == 0

/-- STAGE0_COMPLETE (R560, R564): the configuration space is ready, and Stage 1 begins unless the start is held. -/
def execStage0Complete (s : State) : Host.Outcome State Fault Refusal :=
  whenLive s fun s =>
    if s.start.phase ≠ .stage0 then s
    else
      let hold := s.start.hold0 || testHold s
      let s := { s with start := { s.start with configReady := true, testHold := testHold s } }
      let s := setBit s (rid .hubStrapStat) 6 (testHold s)
      let s := setBit (setBit s (rid .hubStartCtl) 1 hold) (rid .hubStartCtl) 2 s.start.mtest
      let s := stageComplete s 0 fun s => setPresent s (stageEntries 0 formatCodes)
      if hold || s.nv.dbgRetired then
        setBit { s with start := { s.start with phase := .heldAt0 } } (rid .hubStartStat) 3 true
      else beginStage1 s

/-- START_GO of the PF: GO releases a start held at the end of Stage 0, and has no effect at any other time or on a retired device
(R564, R602). -/
def execStartGo (fn : Nat) (s : State) : Host.Outcome State Fault Refusal :=
  whenReg s fn (rid .hubStartCtl) fun s =>
    if s.start.phase = .heldAt0 ∧ s.nv.dbgRetired = false then
      beginStage1 (setBit s (rid .hubStartCtl) 0 true)
    else s

/-! ## Stage 1 (R567) -/

/-- A repair entry applied to the cell it names (Table 6-7). -/
def applyRepair (c : Cell) (e : Repair) : Cell :=
  let l := leafOf e.leaf
  match e.kind with
  | 1 => { c.updLeaf l (LeafRec.moveRow · e.logical e.spare) with
      usedRows := (l, e.spare) :: c.usedRows, rowDepth := setDepth c.rowDepth l e.logical e.depth }
  | 2 => { c.updLeaf l (LeafRec.moveCol · e.logical e.spare) with
      usedPairs := (l, e.spare) :: c.usedPairs, colDepth := setDepth c.colDepth l e.logical e.depth }
  | 3 => { c with spareConv := some e.logical }
  | 5 => if e.spare < 16 then { c with usedRows := (l, e.spare) :: c.usedRows }
         else { c with usedPairs := (l, e.spare - 16) :: c.usedPairs }
  | _ => c

/-- A block mapped: its physical block, and whether its spare cell is taken or bad. -/
def mapBlock (s : State) (b : Nat) : State :=
  match (blockPositions s.nv (b / 8)).getD (b % 8) none with
  | none => s
  | some k =>
    let s := { s with start := { s.start with blockMap := Tab.set (b % 8) s.start.blockMap b k } }
    updBlock s b fun x => { x with spareUsed := !(badInOrder s.nv (81 * (b / 8) + 9 * k)).isEmpty }

/-- A wear counter loaded (R233), with the levels it has reached (R234). -/
def loadWear (s : State) (cell : Nat) (l : Leaf) : State :=
  let old := Tab.get 0 s.nv.wearStored (wearRow s cell l)
  let n := satAdd 40 old 65536
  let s := setWear s cell l n
  let s := wearMarks s cell l n (fun x => decide (x ≤ old)) false
  wearMarks s cell l n (fun x => decide (old < x ∧ x ≤ n)) true

/-- A cell mapped, with its repairs and wear counters (R270, R233, Table 6-12). -/
def mapCell (s : State) (cell : Nat) : State :=
  match cellPlace s.nv cell with
  | none =>
    let s := updCell s cell fun c => { c with retired := true }
    setBit s (rid .cellRepairStat cell) 17 true
  | some i =>
    let s := { s with start := { s.start with cellMap := Tab.set (cell % 8) s.start.cellMap cell i } }
    let p := pcellOf s cell
    let es := (repairsInForce s.nv).filter fun e => e.pcell == p
    let n := ((foldedEntries s.nv).filter fun e => e.pcell == p).length
    let s := syncRepair (updCell s cell fun c => es.foldl applyRepair c) cell
    let s := setFld s (rid .cellRepairStat cell) 24 8 (min n 255)
    loadWear (loadWear s cell .a) cell .b

/-- Whether Stage 1 writes a repair record: the journal holds what the record lacks, or no copy is valid (R270, R272), and the
debug state allows it (Table 16-7). -/
def recordDue (s : State) : Bool :=
  ((recordInUse s.nv).isNone || !s.nv.journal.isEmpty) && !s.sec.vendor && !s.nv.dbgRetired

/-- The repair record of Stage 1 (R270–R272, R569): written when the journal holds what the record lacks or no copy is valid;
the journal rows are cleared only after it. In the vendor and the retired debug state no record is written (Table 16-7). -/
def stage1Record (s : State) (flashOk : Bool) : State :=
  let none_ := (recordInUse s.nv).isNone
  let s := if none_ then
      emitHub (raiseAlarm s 3) 0x0216 (leBytes 1 (foundCopy s.nv).1 ++ leBytes 4 (foundCopy s.nv).2) else s
  if !recordDue s then s
  else if flashOk then { s with nv := foldJournal s.nv }
  else emitHub (raiseAlarm s 37) 0x0B08 (leBytes 1 (nextCopy s.nv))

/-- The end of Stage 1: the map and the repairs, the record, and the retired-cell count (DEDUCED, log entry 54). -/
def endStage1 (s : State) (flashOk : Bool) : State :=
  let s := (List.range 128).foldl mapBlock s
  let s := (List.range 1024).foldl mapCell s
  let s := stage1Record s flashOk
  stageComplete s 1 fun s => setPresent s [(12, 0)]

/-- Stage 2 begins: PLL_FAB, and every port trains (R404). -/
def beginStage2 (s : State) : State :=
  let s := beginStage s 2 .stage2 [.fab]
  (List.range 8).foldl (fun s p => beginTraining s p .stage2) s

/-- STAGE1_COMPLETE: `fuseOk` says whether every fuse word could be corrected (R568), `flashOk` whether the record's write
succeeded (R569). While an image is being written to flash the record cannot be (R593). -/
def execStage1Complete (fuseOk flashOk : Bool) (s : State) : Host.Outcome State Fault Refusal :=
  whenLive s fun s =>
    if s.start.phase ≠ .stage1 ∨ issueHold s = true ∨ (recordDue s && s.sec.staging.isSome) = true then s
    else if fuseOk then beginStage2 (endStage1 s flashOk)
    else haltStart s 2

/-! ## Stage 2 (R570, R571) -/

/-- Whether a stack's training is over. -/
def stackSettled (s : State) (k : Nat) : Bool := (getStack s k).trained || (getStack s k).thermal == .lost

/-- Whether every stack is lost. -/
def allLost (s : State) : Bool := (List.range 16).all fun k => (getStack s k).thermal == .lost

/-- STACK_TRAINING_DONE (R570): a failure is retried once, a second one loses the stack; with every stack lost the start
halts. -/
def execStackTrainingDone (stack : Nat) (pass : Bool) (s : State) : Host.Outcome State Fault Refusal :=
  whenLive s fun s =>
    if 16 ≤ stack ∨ s.start.phase ≠ .stage2 ∨ issueHold s = true ∨ stackSettled s stack = true then s
    else if pass then updStack s stack fun k => { k with trained := true }
    else if (getStack s stack).failures = 0 then
      emitFn (updStack s stack fun k => { k with failures := 1 }) 0 0x0B05 13 stack (leBytes 1 stack ++ leBytes 1 0)
    else
      let s := stackFails (updStack s stack fun k => { k with failures := 2 }) stack
      if allLost s then haltStart s 6 else s

/-- STAGE2_COMPLETE (R571). Stage 3 takes MTEST as it begins (R572). -/
def execStage2Complete (s : State) : Host.Outcome State Fault Refusal :=
  whenLive s fun s =>
    if s.start.phase ≠ .stage2 ∨ issueHold s = true ∨ ((List.range 16).all (stackSettled s)) = false
        ∨ ((List.range 8).all fun p => (getPort s p).everSettled) = false then s
    else
      let s := beginStage (stageComplete s 2 id) 3 .stage3 []
      { s with start := { s.start with mtestUsed := getBit s (rid .hubStartCtl) 2 } }

/-! ## Stage 3 (R572–R576) -/

/-- What Stage 3 found on a stack; nothing found where none is given. -/
def stackTestOf (tests : List StackTest) (k : Nat) : StackTest :=
  (tests.find? fun t => t.stack == k).getD { stack := k, repaired := 0, failed := 0, lost := false }

/-- One stack's test ends. -/
def endStackTest (tests : List StackTest) (s : State) (k : Nat) : State :=
  if (getStack s k).thermal = .lost then s
  else
    let t := stackTestOf tests k
    let s := dropLines (testResult false s t) k
    if t.lost then stackFails s k else s

/-- Whether the booted image's runtime sections match their digests (R592). -/
def runtimeGood (s : State) : Bool := [2, 3, 4, 5].all (sectionGood (bootedImage s))

/-- STAGE3_COMPLETE: `imageOk` says whether the runtime sections could be read from flash. A stack in the critical state keeps
its test from ending (Table 15-10). -/
def execStage3Complete (tests : List StackTest) (imageOk : Bool) (s : State) : Host.Outcome State Fault Refusal :=
  whenLive s fun s =>
    if s.start.phase ≠ .stage3 ∨ issueHold s = true
        ∨ ((List.range 16).any fun k => (getStack s k).thermal == .critical) = true then s
    else
      let s := (List.range 16).foldl (endStackTest tests) s
      if allLost s then haltStart s 6
      else
        let ks := (List.range 16).filter fun k => (getStack s k).thermal != .lost
        let s := stageComplete s 3 fun s => setPresent s (ks.map fun k => (13, k))
        if imageOk && runtimeGood s then beginStage s 4 .broadcast [] else haltStart s 3

/-! ## Stage 4 (R577–R580) -/

/-- A block out of use with its cells, DMUs and vector engine (R578). Its descriptors in flight end. -/
def retireBlock (s : State) (b : Nat) : State :=
  let cs := (List.range 8).map (8 * b + ·)
  let s := retireEntries s ([(8, b), (11, b), (10, 2 * b), (10, 2 * b + 1)] ++ cs.map fun c => (9, c))
  let s := cs.foldl (fun s c => setBit (updCell s c fun k => { k with retired := true, cal := none })
    (rid .cellRepairStat c) 17 true) s
  (s.work.filter fun w => w.place == .block b && w.phase != .done).foldl (fun s w => killWork s w stRegion 0) s

/-- The unit of a core whose digest failed twice (R578): blocks' cores are 0–1,535, regions' 1,536–1,599, ports'
1,600–1,607, the hub's 1,608–1,611 (DESIGN CHOICE, log entry 40). -/
def loseCore (s : State) (core : Nat) : State :=
  let s := emitHub (raiseAlarm s 39) 0x0B07 (leBytes 2 core ++ leBytes 1 1)
  if core < 1536 then
    if (getEntry s 8 (core / 12)).retired then s else retireBlock s (core / 12)
  else if core < 1600 then
    if (getRegion s ((core - 1536) / 4)).retired then s else retireRegion s ((core - 1536) / 4)
  else if core < 1608 then
    let p := core - 1600
    transomSpan (closePort s p .disabled) fun s => updEntry s 14 p fun e => { e with retired := true, present := false }
  else s

/-- A section sent again to a core (R577). -/
def resendCore (s : State) (core : Nat) : State := emitHub s 0x0B07 (leBytes 2 core ++ leBytes 1 0)

/-- The broadcast's outcome: sections sent again, units lost. Every core that fails twice was asked again once. -/
def broadcastEnds (s : State) (resent failed : List Nat) : State :=
  let asked := (resent ++ failed.filter fun c => decide (c ∉ resent)).filter (· < 1612)
  let s := asked.foldl resendCore s
  (failed.filter (· < 1612)).foldl loseCore s

/-- The digests of the runtime sections of an image (Table 16-6). -/
def runtimeDigests (img : List Byte) : List (List Byte) :=
  [2, 3, 4, 5].map fun t => ((sectionOf img t).map (·.digest)).getD []

/-- A full calibration begins on a cell that is not retired (R579). -/
def startCellCal (s : State) (cell : Nat) : State :=
  if (getCell s cell).retired || (getEntry s 9 cell).retired then s
  else updCell (setBit s (rid .cellCalStat cell) 1 true) cell fun c => { c with cal := some s.time }

/-- FIRMWARE_BROADCAST_DONE (R577, R578): the cores in `resent` were sent their section again, those in `failed` failed it
twice. The calibration waits for the self-calibration of Stage 0 (R238). -/
def execFirmwareBroadcastDone (resent failed : List Nat) (s : State) : Host.Outcome State Fault Refusal :=
  whenLive s fun s =>
    if s.start.phase ≠ .broadcast ∨ issueHold s = true ∨ (s.power.scalRunning && s.power.scalFirst) = true then s
    else
      let s := broadcastEnds s resent failed
      if failed.any fun c => decide (1608 ≤ c ∧ c < 1612) then haltStart s 4
      else
        let s := { s with
          sec := { s.sec with running := runtimeDigests (bootedImage s) }
          start := { s.start with phase := .stage4 } }
        (List.range 1024).foldl startCellCal s

/-- One cell's start-time calibration ends (R249); where the self-calibration has failed the cell reports PASS 0 (R238). -/
def endCellCal (results : List (Nat × CalResult)) (s : State) (cell : Nat) : State :=
  if (getCell s cell).cal.isNone then s
  else
    endCalibration s cell (((results.find? fun r => r.1 == cell).map (·.2)).getD ⟨[], 0⟩)

/-- The entries that Stage 4 makes PRESENT: those of Table 15-3 that remain usable. No cell is where the self-calibration has
failed (R238). -/
def stage4Entries (s : State) : List (Nat × Nat) :=
  (stageEntries 1 []).filter fun e => e.1 != 12 && (e.1 != 9 || s.power.scalAtStart)

/-- STAGE4_COMPLETE (R580). -/
def execStage4Complete (results : List (Nat × CalResult)) (s : State) : Host.Outcome State Fault Refusal :=
  whenLive s fun s =>
    if s.start.phase ≠ .stage4 ∨ issueHold s = true
        ∨ ((List.range 1024).all fun c => (getCell s c).cal.isNone || calOver s c) = false then s
    else
      let s := (List.range 1024).foldl (endCellCal results) s
      let s := stageComplete s 4 fun s => setPresent s (stage4Entries s)
      let s := releaseStart { s with start := { s.start with phase := .done } }
      let s := setFld (setBit s (rid .hubStartStat) 5 true) (rid .hubStartStat) 16 16 (elapsed s.time)
      emitHub s 0x0B03 (leBytes 4 (startMs s) ++ leBytes 1 (bit s.start.mtestUsed))

end Sys2Proof.Machine
end

