-- ==== Sys2Proof/Machine/Security.lean ====
section
/-! DEFINITION. The security commands of SEC_CMD (R593, R594, R601, R602), SPDM attestation (R597–R599) and the test access port
(R616). -/

namespace Sys2Proof.Machine

/-! ## SEC_CMD -/

/-- Whether a security command is in progress: GO reads 1. -/
def secBusy (s : State) : Bool := getBit s (rid .secCmd) 31

/-- FAIL and REASON as a command's end leaves them (Table 16-8). -/
def secResult (s : State) (reason : Nat) : State :=
  let s := setBit s (rid .secCmd) 31 false
  setFld (setBit s (rid .secStat) 0 (decide (reason ≠ 0))) (rid .secStat) 4 4 reason

/-- A command refused or failed: FAIL, REASON and the alarm (R593, Table 16-11). -/
def secFail (s : State) (reason : Nat) : State := raiseAlarm (secResult s reason) 42

/-- A REASON that the spec does not state (DESIGN CHOICE, log entry 41). -/
def openReason (s : State) : Nat × State :=
  let d := draw s
  (Config.freeNat d.1 % 16, d.2)

/-- A security command of the PF that SEC_CMD takes: not while GO reads 1 (R593). OP is stored. In recovery only STAGE is
taken (R591). -/
def secCommand (s : State) (op : Nat) (f : State → State) : Host.Outcome State Fault Refusal :=
  whenHost s fun s =>
    if secBusy s then s
    else
      let s := setFld s (rid .secCmd) 0 4 op
      if s.start.recovery && op != 1 then
        let r := openReason s
        secFail r.2 r.1
      else f s

/-- Whether the host holds the token for firmware activation. -/
def actToken (s : State) : Bool :=
  (List.range 8).any fun n =>
    let r := getReg s (rid .fltMaintSlot n)
    flag r 0 && field r 1 3 == 0 && !flag r 4

/-- The inactive slot: the one not booted; A in recovery (DESIGN CHOICE, log entry 41). -/
def inactiveSlot (s : State) : Nat :=
  match s.start.booted with
  | some k => 1 - k
  | none => 0

/-- The image STAGE reads from SEC_XFER: as many bytes as SEC_XFER_LEN says. -/
def xferImage (s : State) (image : List Byte) : List Byte := padTo (getFld s (rid .secXferLen) 0 24) image

/-- The hub's read of SEC_XFER with the PF's requester ID. -/
def readXfer (s : State) (len : Nat) : State := send s (.hostRead 0 (getPair s .secXferLo .secXferHi) len)

/-- STAGE accepted or refused (Table 16-4). An image in the inactive slot is staged no more once its trailer is erased. -/
def execStage (image : List Byte) (s : State) : Host.Outcome State Fault Refusal :=
  secCommand s 1 fun s =>
    let len := getFld s (rid .secXferLen) 0 24
    let s := readXfer s len
    let img := xferImage s image
    let k := inactiveSlot s
    let why := if imageMax < len then 3 else imageFault s.nv img
    if why ≠ 0 then
      emitHub (secFail s why) 0x0C02 (leBytes 1 k ++ leBytes 1 why ++ leBytes 1 (imageSvn img))
    else
      let s := { s with
        nv := s.nv.setSlot k { s.nv.slot k with bootseq := none }
        sec := { s.sec with staging := some img } }
      setBit (setBit s (rid .secStat) 1 false) (rid .secCmd) 31 true

/-- STAGE_DONE: `flashOk` says whether the readback's digest agreed. In recovery the trailer is written at once
(R591); its BOOTSEQ is not stated (DESIGN CHOICE, log entry 41). -/
def execStageDone (flashOk : Bool) (s : State) : Host.Outcome State Fault Refusal :=
  whenLive s fun s =>
    match s.sec.staging with
    | none => s
    | some img =>
      let k := inactiveSlot s
      let s := commitsWaiting { s with sec := { s.sec with staging := none } }
      if flashOk then
        let d := draw s
        let s := if s.start.recovery then d.2 else s
        let seq := if s.start.recovery then some (Config.freeNat d.1 % 2 ^ 32) else none
        let s := { s with nv := s.nv.setSlot k { image := img, bootseq := seq } }
        let s := secResult (setBit s (rid .secStat) 1 (!s.start.recovery)) 0
        emitHub s 0x0C02 (leBytes 1 k ++ leBytes 1 0 ++ leBytes 1 (imageSvn img))
      else emitHub (secFail s 8) 0x0C02 (leBytes 1 k ++ leBytes 1 8 ++ leBytes 1 (imageSvn img))

/-- Whether a descriptor of any function is dispatched and incomplete. -/
def workInFlight (s : State) : Bool := !s.work.isEmpty

/-- Why ACTIVATE is refused; 0 where it is not. -/
def activateRefused (s : State) : Nat :=
  if !actToken s then 4
  else if s.start.phase ≠ .done then 5
  else if !getBit s (rid .secStat) 1 then 6
  else if workInFlight s then 5
  else 0

/-- An activation that fails, with its event; its BOOTSEQ bytes are not stated (DESIGN CHOICE, log entry 41). -/
def activateFails (s : State) (why : Nat) : State :=
  let d := draw s
  emitHub (secFail d.2 why) 0x0C03 (leBytes 1 why ++ leBytes 4 (Config.freeNat d.1))

/-- ACTIVATE (R594, steps 1 and 2): `hubDigestOk` says whether section 2 passed its check, repeated once. -/
def execActivate (hubDigestOk : Bool) (s : State) : Host.Outcome State Fault Refusal :=
  secCommand s 2 fun s =>
    let why := if activateRefused s ≠ 0 then activateRefused s else if hubDigestOk then 0 else 9
    if why ≠ 0 then activateFails s why
    else setBit { s with sec := { s.sec with activating := true } } (rid .secCmd) 31 true

/-- BOOTSEQ that an activation writes: the booted slot's + 1 (R594). -/
def nextBootseq (s : State) : Nat := (((s.nv.slot (s.start.booted.getD 0)).bootseq.getD 0) + 1) % 2 ^ 32

/-- ACTIVATION_COMPLETE (R594, steps 3 to 7): the cores in `failed` failed their digest twice (R578). -/
def execActivationComplete (failed : List Nat) (s : State) : Host.Outcome State Fault Refusal :=
  whenLive s fun s =>
    if !s.sec.activating then s
    else
      let s := broadcastEnds s [] (failed.filter (· < 1608))
      let k := inactiveSlot s
      let img := (s.nv.slot k).image
      let seq := nextBootseq s
      let s := { s with
        nv := s.nv.setSlot k { image := img, bootseq := some seq }
        sec := { s.sec with activating := false, running := runtimeDigests img, runSvn := imageSvn img, runKey := imageKey img } }
      let s := secResult (setBit (syncRunning s) (rid .secStat) 1 false) 0
      emitHub s 0x0C03 (leBytes 1 0 ++ leBytes 4 seq)

/-- A fuse bit that does not read back as blown fails its command (R585) (DEDUCED, log entry 56). -/
def fuseFails (s : State) (fuse b : Nat) : State :=
  emitHub (secFail (raiseAlarm s 43) 8) 0x0C08 (leBytes 1 fuse ++ leBytes 1 b)

/-- COMMIT (Table 16-4), which blows the bits of ARB_COUNT upwards: `blown` is how many of them read back as blown before one
does not. -/
def execCommit (blown : Nat) (s : State) : Host.Outcome State Fault Refusal :=
  secCommand s 3 fun s =>
    let old := s.nv.arbCount
    let new := s.sec.runSvn
    if !actToken s then secFail s 4
    else if dbgState s ≠ 2 then secFail s 7
    else if new < old then secFail s 2
    else if old + blown < new then fuseFails (syncFuses { s with nv := { s.nv with arbCount := old + blown } }) 0 (old + blown)
    else
      let s := secResult (syncFuses { s with nv := { s.nv with arbCount := new } }) 0
      emitHub s 0x0C04 (leBytes 1 old ++ leBytes 1 new)

/-- Whether another programmed slot stays unrevoked once a slot is revoked. -/
def otherKey (nv : NonVolatile) (slot : Nat) : Bool :=
  (List.range 4).any fun k => k != slot && keyProgrammed nv k && !keyRevoked nv k

/-- REVOKE (Table 16-4) of the slot in SEC_CMD.SLOT. -/
def execRevoke (readsBack : Bool) (s : State) : Host.Outcome State Fault Refusal :=
  secCommand s 4 fun s =>
    let k := getFld s (rid .secCmd) 4 2
    if !actToken s then secFail s 4
    else if k = s.sec.runKey || !otherKey s.nv k then secFail s 7
    else if !readsBack && !keyRevoked s.nv k then fuseFails s 1 k
    else
      let s := secResult (syncFuses { s with nv := { s.nv with keyRevoke := setField s.nv.keyRevoke k 1 1 } }) 0
      emitHub s 0x0C05 (leBytes 1 k)

/-- Why an unlock token and its key are refused (R601); 0 where they are not. -/
def tokenFault (s : State) (t : List Byte) : Nat :=
  let key := (t.drop 128).take 32
  if leAt t 0 4 ≠ 0x55445456 ∨ leAt t 4 2 ≠ 1 ∨ leAt t 6 2 ≠ 0 ∨ t.length < 160 ∨ zeroBytes ((t.drop 32).take 32) = false then 3
  else if (t.drop 8).take 16 ≠ deviceId s.nv ∨ (t.drop 24).take 8 ≠ s.sec.nonce then 0xA
  else if ((List.range 4).any fun k => keyProgrammed s.nv k && !keyRevoked s.nv k
      && padTo 64 (Config.sha512 key) == keyHash s.nv k) && Config.ed25519Verify key (t.take 64) ((t.drop 64).take 64) then 0
  else 1

/-- UNLOCK (R601): `token` is what the hub reads at SEC_XFER, the signing key at offset 128; `nonce` is the one drawn
afterwards, whatever the outcome. -/
def execUnlock (token nonce : List Byte) (s : State) : Host.Outcome State Fault Refusal :=
  secCommand s 5 fun s =>
    let s := readXfer s 160
    let why := if dbgState s ≠ 2 then 7 else tokenFault s token
    let s := setNonce s nonce
    if why ≠ 0 then emitHub (secFail s why) 0x0C07 (leBytes 1 why)
    else
      let s := secResult (syncFuses { s with sec := { s.sec with vendor := true } }) 0
      emitHub (raiseAlarm s 41) 0x0C06 (leBytes 1 2 ++ leBytes 1 1)

/-- LOCK (Table 16-4). -/
def execLock (readsBack : Bool) (s : State) : Host.Outcome State Fault Refusal :=
  secCommand s 6 fun s =>
    if dbgState s ≠ 0 then secFail s 7
    else if readsBack then
      emitHub (secResult (syncFuses { s with nv := { s.nv with dbgLocked := true } }) 0) 0x0C06 (leBytes 1 0 ++ leBytes 1 2)
    else fuseFails s 2 0

/-- Both leaves of a cell at level 0: no tile is left in them (R602). -/
def clearLeaves (s : State) (cell : Nat) : State :=
  let s := leaveValid (leaveValid s cell .a .empty) cell .b .empty
  updCell s cell fun c => { c with leafA := {}, leafB := {} }

/-- The clone in a block's hidden spare cell at level 0 (R602). -/
def clearClone (s : State) (b : Nat) : State := updBlock s b fun k => { k with cloneLeaf := .empty }

/-- The bits of ID_SEED below a number blown. -/
def blowSeed (seed : List Byte) (n : Nat) : List Byte := leBytes 32 (leAt seed 0 32 ||| (2 ^ n - 1))

/-- RETIRE (R602): the leaves first, then the fuses, DBG_RETIRED before ID_SEED. `failed` names the first fuse bit that does not
read back: 0 for DBG_RETIRED, 1 + b for bit b of ID_SEED. -/
def execRetire (failed : Option Nat) (s : State) : Host.Outcome State Fault Refusal :=
  secCommand s 7 fun s =>
    let old := dbgState s
    if !actToken s then secFail s 4
    else if old ≠ 1 ∧ old ≠ 2 then secFail s 7
    else
      let s := (List.range 128).foldl clearClone ((List.range 1024).foldl clearLeaves s)
      let retire (n : Nat) : State := syncFuses { s with nv := { s.nv with dbgRetired := true, idSeed := blowSeed s.nv.idSeed n } }
      let changed (s : State) : State := emitHub s 0x0C06 (leBytes 1 old ++ leBytes 1 3)
      match failed with
      | some 0 => fuseFails s 2 1
      | some (b + 1) => if b < 256 then changed (fuseFails (retire b) 3 b) else changed (secResult (retire 256) 0)
      | none => changed (secResult (retire 256) 0)

/-! ## SPDM (R597–R599) -/

/-- Whether the responder answers on a path: over MCTP while the hub's firmware runs, over DOE once the configuration space
is ready; not in recovery (R561, R591). -/
def spdmOn (s : State) (path : SpdmPath) : Bool :=
  !s.start.recovery && (match path with | .doe => hostLive s | .mctp => live s)

/-- A request answered: a retired device refuses all but GET_VERSION (R602). -/
def spdmReply (s : State) (path : SpdmPath) (open_ : Bool) (f : State → State) : Host.Outcome State Fault Refusal :=
  finish s
    (if !spdmOn s path then s
     else if s.nv.dbgRetired && !open_ then send s (.spdmError path 7)
     else f s)

/-- GET_VERSION: SPDM 1.3. -/
def execGetVersion (path : SpdmPath) (s : State) : Host.Outcome State Fault Refusal :=
  spdmReply s path true fun s => send s (.spdm path 0x84 (leBytes 2 0x1300))

/-- GET_CAPABILITIES: CERT_CAP, CHAL_CAP and MEAS_CAP with signature (Table 16-5). -/
def execGetCapabilities (path : SpdmPath) (s : State) : Host.Outcome State Fault Refusal :=
  spdmReply s path false fun s => send s (.spdm path 0xE1 (leBytes 4 (2 + 4 + 16)))

/-- NEGOTIATE_ALGORITHMS: Ed25519, SHA-512 and SHA-512 for measurements (Table 16-5). -/
def execNegotiateAlgorithms (path : SpdmPath) (s : State) : Host.Outcome State Fault Refusal :=
  spdmReply s path false fun s => send s (.spdm path 0xE3 (ascii ['E', 'd', '2', '5', '5', '1', '9', 'S', 'H', 'A', '5', '1', '2']))

/-- GET_DIGESTS: the digest of slot 0's chain. -/
def execGetDigests (path : SpdmPath) (s : State) : Host.Outcome State Fault Refusal :=
  spdmReply s path false fun s => send s (.spdm path 0x81 (leBytes 1 1 ++ padTo 64 (Config.sha512 s.nv.certChain)))

/-- GET_CERTIFICATE: a part of the chain of slot 0, the only one (Table 16-5). -/
def execGetCertificate (path : SpdmPath) (slot offset length : Nat) (s : State) : Host.Outcome State Fault Refusal :=
  spdmReply s path false fun s =>
    if slot = 0 then send s (.spdm path 0x82 ((s.nv.certChain.drop offset).take length)) else send s (.spdmError path 7)

/-- A response signed with the identity key over the request's nonce, what it says, and the responder's nonce (DESIGN
CHOICE, log entry 4). -/
def signedReply (s : State) (path : SpdmPath) (code : Nat) (nonce content : List Byte) : State :=
  let d := draw s
  let body := content ++ padTo 32 (Config.spdmNonce d.1)
  send d.2 (.spdm path code (body ++ padTo 64 (Config.ed25519Sign (identitySecret s.nv) (padTo 32 nonce ++ body))))

/-- CHALLENGE. -/
def execChallenge (path : SpdmPath) (slot : Nat) (nonce : List Byte) (s : State) : Host.Outcome State Fault Refusal :=
  spdmReply s path false fun s =>
    if slot = 0 then signedReply s path 0x83 nonce (padTo 64 (Config.sha512 s.nv.certChain)) else send s (.spdmError path 7)

/-- One measurement: its index, its value type (0 ROM digest, 1 mutable firmware digest, 2 hardware configuration digest, 128
raw) and its value. -/
structure Meas where
  index : Nat
  type : Nat
  value : List Byte
  deriving DecidableEq, Repr

/-- The bytes of the repair record copy in use. -/
def recordBytes (nv : NonVolatile) : List Byte :=
  match recordInUse nv with
  | some r => recordBody r ++ padTo 64 r.signature
  | none => []

/-- The measurements of Table 16-6; 3 to 6 appear once the broadcast has completed (R598). -/
def measurements (s : State) : List Meas :=
  let img := bootedImage s
  let hash (bs : List Byte) : List Byte := padTo 64 (Config.sha512 bs)
  let run : List Meas := (List.range s.sec.running.length).map fun i => ⟨3 + i, 1, s.sec.running.getD i []⟩
  [⟨1, 0, hash Config.bootRom⟩, ⟨2, 1, hash (sectionData img 0 ++ sectionData img 1)⟩] ++ run
    ++ [⟨7, 128, leBytes 1 (s.start.booted.getD 0) ++ leBytes 1 (imageKey img) ++ leBytes 1 (imageSvn img)⟩,
        ⟨8, 128, leBytes 1 s.nv.arbCount ++ leBytes 1 s.nv.keyRevoke ++ leBytes 1 (keyMask s.nv)⟩,
        ⟨9, 128, leBytes 1 (dbgState s)⟩, ⟨10, 2, hash (recordBytes s.nv)⟩]

/-- The bytes of a measurement (DESIGN CHOICE, log entry 4). -/
def measBytes (m : Meas) : List Byte := leBytes 1 m.index ++ leBytes 1 m.type ++ leBytes 2 m.value.length ++ m.value

/-- GET_MEASUREMENTS: operation 0 asks for their number, 255 for all, any other for one index. -/
def execGetMeasurements (path : SpdmPath) (operation : Nat) (nonce : List Byte) (s : State) : Host.Outcome State Fault Refusal :=
  spdmReply s path false fun s =>
    let ms := measurements s
    if s.sec.activating then send s (.spdmError path 3)
    else if operation = 0 then signedReply s path 0xE0 nonce (leBytes 1 ms.length)
    else if operation = 255 then signedReply s path 0xE0 nonce (leBytes 1 ms.length ++ ms.flatMap measBytes)
    else match ms.find? fun m => m.index == operation with
      | some m => signedReply s path 0xE0 nonce (leBytes 1 1 ++ measBytes m)
      | none => send s (.spdmError path 7)

/-- SPDM_UNSUPPORTED_REQUEST (Table 16-5). -/
def execSpdmUnsupportedRequest (path : SpdmPath) (code : Nat) (s : State) : Host.Outcome State Fault Refusal :=
  spdmReply s path false fun s => if code < 256 then send s (.spdmError path 7) else s

/-! ## The test access port (R616, Table 16-7) -/

/-- TAP_RESET: Test-Logic-Reset, which selects IDCODE. -/
def execTapReset (s : State) : Host.Outcome State Fault Refusal := finish s { s with tap := {} }

/-- The instructions the debug state allows (Table 16-7). -/
def jtagAllowed (dbg : Nat) : JtagOp → Bool
  | .idcode | .bypass => true
  | .samplePreload | .extest => decide (dbg ≠ 3)
  | .internalScan | .memory | .coreDebug => decide (dbg < 2)

/-- JTAG_INSTRUCTION: accepted where the debug state allows it, and, if it drives a land or enters internal state, only while
PERST# is asserted; else the port keeps its instruction. -/
def execJtagInstruction (op : JtagOp) (s : State) : Host.Outcome State Fault Refusal :=
  finish s
    (if jtagAllowed (dbgState s) op && (s.start.perst || !jtagDrives op) then { s with tap := { instruction := op } } else s)

/-- The IDCODE register (R616). -/
def idcode : Nat := Config.metalStep % 16 * 2 ^ 28 + 0xA72C * 2 ^ 12 + Config.jep106 % 2 ^ 11 * 2 + 1

end Sys2Proof.Machine
end

