-- ==== Sys2Proof/Machine/View.lean ====
section
/-! DEFINITION. What a host read sees: the registers whose fields tell of other state, and the bytes of the Transom. -/

namespace Sys2Proof.Machine

/-! ## Registers that tell of other state -/

/-- The code of a leaf's state (Table 5-7). -/
def leafCode : LeafState → Nat
  | .empty => 0
  | .programming => 1
  | .programmed => 2
  | .reading => 3
  | .valid => 4

/-- The state of a leaf as the host sees it. A restored leaf is programmed, 820 µs long, and then read back, the second leaf of a
cell after the first (R489). -/
def leafSeen (s : State) (c : Cell) (l : Leaf) : LeafState :=
  let x := c.leaf l
  if x.restoring && decide (x.since + 328000 ≤ s.time) && !(l == .b && c.leafA.restoring) then .reading else x.state

/-- The fold of Table 7-4 that R290 selects: the first of the fewest tiles. -/
def foldOf (m n block : Nat) : Nat :=
  let t := tilesOf m n block
  ((List.range 5).find? fun i =>
    let f := folds.getD i (128, 128)
    decide (block ≤ f.2) && foldTiles m n f == t).getD 0

/-- The block size of the output of a DMU's product, for its fold; 0 where it cannot be read. -/
def blockSize (s : State) (w : Work) (word rows cols : Nat) : Nat :=
  ((quiet (outputBlock (whoOf w) word rows cols) s).1).getD 0

/-- DMU_STAT (Table 7-9): the product in front of the DMU's issued work. The chunks in the stager are a matter of the
memory's pace, which the spec leaves open: a free value while the DMU is busy (DESIGN CHOICE, log entry 3). -/
def dmuStatus (s : State) (dmu : Nat) : Nat :=
  let b := getBlock s (dmu / 2)
  match if dmu % 2 = 0 then b.dmu0 else b.dmu1 with
  | [] => 0
  | (ring, index) :: _ =>
    let more : Nat := match findWork s ring index with
      | none => 0
      | some w =>
        let d := w.desc
        let ref := bit (flag (d.W 3) 50 || w.refMode)
        if w.op = some .dmuPair then
          let t := field (d.W 3) 0 16
          let r := field (d.W 3) 16 16
          let c := field (d.W 3) 32 16
          let f := if dmu % 2 = 0 then foldOf t r (blockSize s w (d.X 0) t r) else foldOf r c (blockSize s w (d.X 1) r c)
          2 * f + 16 + 32 * ref
        else if w.op = some .dmuProduct then
          let m := field (d.W 3) 0 16
          let n := field (d.W 3) 16 16
          2 * foldOf m n (blockSize s w (d.W 2) m n) + 32 * ref
        else 0
    1 + more + 256 * (Config.freeNat s.free % 9)

/-- The value of a register as a read finds it: what is stored, and the fields that tell of other state. -/
def regView (s : State) (r : RegId) : Nat :=
  let v := getReg s r
  match r.name with
  | .cellLeafStat =>
    let c := getCell s r.i
    leafCode (leafSeen s c .a) + 16 * leafCode (leafSeen s c .b) + 256 * bit c.activeB
  | .cellGainSel => setField v 16 10 (rMax (field v 0 4) (field v 4 4) 49)
  | .cellCalStat => setField v 16 16 (fullAge s r.i)
  | .cellCheckStat => setField v 2 1 (bit !(getCell s r.i).suspects.isEmpty)
  | .dmuStat => dmuStatus s r.i
  | .blkSbStat => setField (setField v 0 9 (boardCount s r.i)) 16 10 (queueCount s r.i)
  | .blkSramStat => setField v 0 9 (getBlock s r.i).pages.length
  | .blkCarStat =>
    let q := getSlot s r.i r.j
    q.onDie.length % 2 ^ 14 + 2 ^ 14 * bit q.hold + 2 ^ 16 * ceilDiv (queueBytes q.overflow) 65536
  | .memThermStat =>
    let k := getStack s r.i
    setField v 16 16 (if k.thermal = .critical then min ((s.time - k.criticalSince) / 400000) 65535 else 0)
  | .memTagStat => (s.tags.filter fun t => t.region == r.i).length
  | .fltRecStat => setField v 0 17 (recsIn s r.i)
  | .rgnUpdStat => setField (setField v 0 1 (bit !(updWaiting s r.i).isEmpty)) 8 7 (updQueued s r.i)
  | .fabRtData => Tab.get 0 s.routes (getFld s (rid .fabRtAddr) 0 16)
  | .matrixRow => compatRow r.i
  | .portLaneStat =>
    let ms := s.time / 400000
    if ms = 0 then v else setField (setField v 0 12 (Config.lanePower r.i r.j ms)) 16 16 (Config.laneErrors r.i r.j ms)
  | .numOasisUsed => if r.i = 0 then oasisUsed s else oasisUsedBy s r.i
  | .hubStartStat => if flag v 4 || flag v 5 then v else setField v 16 16 (elapsed s.time)
  | .hubGpio =>
    setField v 8 4 (((List.range 4).map fun n =>
      bit (if flag v (4 + n) then flag v n else Config.gpioLevel n s.time) * 2 ^ n).foldl (· + ·) 0)
  | _ => v

/-! ## The Transom -/

/-- All entries of a Transom, in order (R59, R60); in a VF those of its windows (R603). -/
def allEntries (vf : Bool) : List (Nat × Nat) :=
  if vf then [(4, 0), (5, 0)] else (List.range 3).flatMap fun k => stageEntries k formatCodes

/-- Size of the Transom in bytes, and of BAR0 (Table 2-1). -/
def transomSize (vf : Bool) : Nat := if vf then 65536 else 262144
/-- See `transomSize`. -/
def bar0Size (vf : Bool) : Nat := if vf then 262144 else 67108864

/-- Whether an entry has registers, and so a window. -/
def hasWindow (e : Nat × Nat) : Bool :=
  decide (e.1 ∈ [1, 2, 4, 6, 7, 8, 9, 10, 13, 14]) || e == (5, 0)

/-- Whether a window, base and size, keeps R44 by itself, in its BAR0 past the Transom. -/
def windowWell (vf : Bool) (w : Nat × Nat) : Bool :=
  decide (4096 ≤ w.2 ∧ w.2 = 2 ^ Nat.log2 w.2 ∧ w.1 % w.2 = 0 ∧ transomSize vf ≤ w.1 ∧ w.1 + w.2 ≤ bar0Size vf)

/-- Whether none of some windows overlaps another. -/
def windowsApart : List (Nat × Nat) → Bool
  | [] => true
  | w :: ws => (ws.all fun x => decide (w.1 + w.2 ≤ x.1 ∨ x.1 + x.2 ≤ w.1)) && windowsApart ws

/-- The window of the configuration for an entry. -/
def configWindow (vf : Bool) (e : Nat × Nat) : Nat × Nat := (Config.windowBase vf e.1 e.2, Config.windowSize vf e.1 e.2)

/-- Whether the windows of the configuration keep R44. -/
def layoutOk (vf : Bool) : Bool :=
  let ws := (allEntries vf).filter hasWindow |>.map (configWindow vf)
  (ws.all (windowWell vf)) && windowsApart ws

/-- The window of an entry: of the configuration, where that keeps R44, else 4 KiB in the order of the entries (DESIGN CHOICE, log
entry 43); 0 and 0 where the entry has no registers. -/
def windowOf (vf : Bool) (e : Nat × Nat) : Nat × Nat :=
  if hasWindow e = false then (0, 0)
  else if layoutOk vf then configWindow vf e
  else (transomSize vf + 4096 * (((allEntries vf).filter hasWindow).findIdx? (· == e)).getD 0, 4096)

/-- The entries in the table now, in order (R59, R60): in a VF those of its windows (R603), in recovery the Hub's (R591). -/
def tableEntries (s : State) (vf : Bool) : List (Nat × Nat) :=
  let es := if s.start.recovery then [(1, 0)]
    else (List.range s.transom.appended).flatMap fun k => stageEntries k formatCodes
  if vf then es.filter fun e => e.1 == 4 || e.1 == 5 else es

/-- The capability bits of an entry (Table 2-7). -/
def capBits (type inst : Nat) : Nat :=
  if type = 9 then 0x1F
  else if type = 10 then 0x3F
  else if type = 14 then 3
  else if type = 5 then
    let size (k : Nat) : Nat := bit (fmtBlockOk inst (4 + k)) * 2 ^ k
    size 0 + size 1 + size 2 + size 3 + 2 ^ 8 * bit (fmtUse .storage inst) + 2 ^ 9 * bit (fmtUse .dmu inst)
      + 2 ^ 10 * bit (fmtUse .cell inst) + 2 ^ 11 * bit (fmtUse .wire inst) + 2 ^ 12 * bit (fmtUse .update inst)
  else 0

/-- The resource that contains an entry's (DESIGN CHOICE, log entry 43). -/
def parentOf (type inst : Nat) : Option (Nat × Nat) :=
  if type = 2 ∨ type = 3 then some (1, 0)
  else if type = 8 then some (7, inst / 8)
  else if type = 9 then some (8, inst / 8)
  else if type = 10 then some (8, inst / 2)
  else if type = 11 then some (8, inst)
  else none

/-- The status byte of an entry (Table 2-5). -/
def statusByte (e : Entry) : Nat :=
  bit e.present + 2 * bit e.retired + 4 * bit e.gated + 8 * bit e.degraded + 16 * bit e.isolated

/-- The position of an entry in a table. -/
def entryIndex (es : List (Nat × Nat)) (e : Nat × Nat) : Nat := (es.findIdx? (· == e)).getD 0xFFFF

/-- The 32 bytes of an entry (R51). -/
def entryWords (s : State) (vf : Bool) (es : List (Nat × Nat)) (e : Nat × Nat) : List Byte :=
  let x := getEntry s e.1 e.2
  leBytes 2 e.1 ++ leBytes 2 e.2 ++ leBytes 4 (windowOf vf e).1 ++ leBytes 4 (windowOf vf e).2
    ++ leBytes 2 (Config.blockVersion e.1) ++ leBytes 1 (statusByte x) ++ leBytes 1 0 ++ leBytes 8 (capBits e.1 e.2)
    ++ leBytes 4 x.word ++ leBytes 2 ((clkIndex e.1 e.2).getD 0xFFFF)
    ++ leBytes 2 (((parentOf e.1 e.2).map (entryIndex es)).getD 0xFFFF)

/-- The header's words before its checksum (R49). -/
def headerBytes (s : State) (vf : Bool) (count : Nat) : List Byte :=
  [0x54#8, 0x52#8, 0x4E#8, 0x53#8, 0x00#8, 0x01#8] ++ leBytes 2 count ++ leBytes 2 2
    ++ leBytes 1 (Config.metalStep % 16 + 16 * (Config.baseStep % 16)) ++ leBytes 1 s.transom.stageReached
    ++ leBytes 2 16 ++ leBytes 2 128 ++ leBytes 2 1024 ++ leBytes 2 256 ++ leBytes 2 128 ++ leBytes 2 16 ++ leBytes 2 1612
    ++ leBytes 1 8 ++ leBytes 1 64 ++ leBytes 4 s.transom.seq ++ leBytes 2 32 ++ leBytes 2 0
    ++ leBytes 4 (transomSize vf) ++ leBytes 20 0

/-- The sum of the little-endian words of some bytes. -/
def wordSum (bs : List Byte) : Nat := (runs 4 bs).foldl (fun n w => n + leNat w) 0

/-- The Transom of the PF or of a VF, as far as its entries go; the bytes past them read 0 (DESIGN CHOICE, log entry
49). -/
def transomBytes (s : State) (vf : Bool) : List Byte :=
  let es := tableEntries s vf
  let head := headerBytes s vf es.length
  head ++ leBytes 4 (2 ^ 32 - wordSum head % 2 ^ 32) ++ es.flatMap (entryWords s vf es)

end Sys2Proof.Machine
end

