-- ==== Sys2Proof/Machine/HostRegs.lean ====
section
/-! DEFINITION. Host accesses to BAR0: the registers that have no behaviour of their own (R2, R3, R46), and the accesses that
reach no register (R47, R48, R65, R621). -/

namespace Sys2Proof.Machine

/-! ## Writes (R3) -/

/-- A write to SEC_CMD: OP and SLOT stored; GO with an OP that names no command fails (DESIGN CHOICE, log entry 41).
GO with a command is that command's row. While GO reads 1 nothing is taken (R593). -/
def writeSecCmd (s : State) (v : Nat) : State :=
  let r := rid .secCmd
  let op := field v 0 4
  if secBusy s then s
  else if !flag v 31 then setFld s r 0 6 v
  else if op = 0 ∨ 8 ≤ op then
    let o := openReason (setFld s r 0 6 v)
    secFail o.2 o.1
  else s

/-- Every region's slew credit brought up to date, before LIMIT changes (R337). -/
def settleCredits (s : State) : State :=
  (List.range 16).foldl (fun s r => updRegion s r fun g => { g with credit := creditNow s r, creditAt := s.time }) s

/-- Whether TADC4 stands in for another converter. -/
def standsIn (s : State) : Bool := s.power.bgStand.isSome || (List.range 4).any fun n => getBit s (rid .tadcStat n) 2

/-- Whether a register ignores writes now: the invalidation's while one runs (R75), SEC_XFER while a command runs (R593), and
TADC4's while it stands in for another converter (R547). -/
def writeIgnored (s : State) (r : RegId) : Bool :=
  match r.name with
  | .hubMmuInvCtl | .hubMmuInvAddrLo | .hubMmuInvAddrHi => getBit s (rid .hubMmuInvCtl) 0
  | .secXferLo | .secXferHi | .secXferLen => secBusy s
  | .tadcCtl | .tadcPer | .tadcSeq => r.i == 4 && standsIn s
  | _ => false

/-- A residency window that is enabled or flushes: its other fields keep (R332). -/
def windowFixed (s : State) (r : RegId) : Bool :=
  (r.name == .blkResLo || r.name == .blkResHi)
    && (getBit s (rid .blkResCtl r.i r.j) 0 || getBit s (rid .blkResCtl r.i r.j) 1)

/-- A write to HUB_RING_CMD or FLT_MAINT_REQ that starts no command: the RW fields are stored. GO with one of the reserved
operations of HUB_RING_CMD starts nothing, stores RING and OP and sets FAIL (DESIGN CHOICE, log entry 79); GO with any other
is that command's row. -/
def writeRequest (s : State) (r : RegId) (v : Nat) : State :=
  if r.name = .hubRingCmd then
    if !flag v 31 then writeReg s r v
    else if field v 16 3 ∈ [0, 6, 7] then setBit (writeReg s r (field v 0 19)) r 30 true
    else s
  else if flag v 7 then s else writeReg s r v

/-- A host write of a register: by the access codes of its fields, with what the spec says of the register. A register whose
writes are a row of their own, and a value that sets an action bit, are left to that row. -/
def hostWriteReg (s : State) (r : RegId) (v : Nat) : State :=
  if r.name = .secCmd then writeSecCmd s v
  else if r.name = .hubRingCmd ∨ r.name = .fltMaintReq then writeRequest s r v
  else if regOwned r.name ∨ v &&& regAction r.name ≠ 0 then s
  else if writeIgnored s r then s
  else if windowFixed s r then windowRefused s r.i r.j
  else if r.name = .hubSlewCfg then writePair (settleCredits s) r v
  else if r.name = .tadcCtl then writePair (updTadc s r.i fun t => { t with edgeAt := s.time }) r v
  else writePair s r v

/-- REGISTER_WRITE (R3). -/
def execRegisterWrite (fn : Nat) (reg : RegId) (value : W32) (s : State) : Host.Outcome State Fault Refusal :=
  whenWindow s fn (regWindow reg) fun s => if reaches s fn reg then hostWriteReg s reg value.toNat else s

/-! ## Reads (R3, R46) -/

/-- A register read for itself: its value, and its RC fields cleared. A read of FAB_RT_DATA moves to the next node where
AUTOINC says so (Table 11-9). -/
def readOne (s : State) (r : RegId) : Nat × State :=
  let v := regView s r
  let s := setReg s r (clearRc (regFields r) (getReg s r))
  let s := if r.name = .fabRtData ∧ getBit s (rid .fabRtAddr) 16 then
      setFld s (rid .fabRtAddr) 0 16 ((getFld s (rid .fabRtAddr) 0 16 + 1) % 65536)
    else s
  (v, if r.name = .dmuStat then (draw s).2 else s)

/-- The low half that a high half's shadow belongs to; WEAR, ECC address and nonce halves are read-only pairs too. -/
def pairLow (r : RegId) : Option RegId :=
  match r.name with
  | .cellWearAHi => some { r with name := .cellWearALo }
  | .cellWearBHi => some { r with name := .cellWearBLo }
  | .memEccAddrHi => some { r with name := .memEccAddrLo }
  | .secDbgNonceHi => some { r with name := .secDbgNonceLo }
  | _ => lowHalf r

/-- A register read (R46): the low half of a pair copies its high half into the shadow; the high half returns a pending
shadow and clears nothing, else it is read for itself. -/
def readReg (s : State) (r : RegId) : Nat × State :=
  match highHalf r with
  | some h =>
    let a := readOne s r
    let b := readOne a.2 h
    (a.1, { b.2 with shadow := Tab.set 0 b.2.shadow (regKey h) (b.1 + 1) })
  | none =>
    match pairLow r, Tab.get 0 s.shadow (regKey r) with
    | some _, v + 1 => (v, { s with shadow := Tab.set 0 s.shadow (regKey r) 0 })
    | _, _ => readOne s r

/-- A read of a register answered. -/
def hostReadReg (s : State) (fn : Nat) (r : RegId) : State :=
  if reaches s fn r then
    let a := readReg s r
    send a.2 (.completion fn .success (leBytes 4 a.1))
  else s

/-- RC_REGISTER_READ (R3). -/
def execRcRegisterRead (fn : Nat) (reg : RegId) (s : State) : Host.Outcome State Fault Refusal :=
  whenWindow s fn (regWindow reg) fun s => hostReadReg s fn reg

/-- REG64_LOW_READ (R46): a read of a low half. -/
def execReg64LowRead (fn : Nat) (reg : RegId) (s : State) : Host.Outcome State Fault Refusal :=
  whenWindow s fn (regWindow reg) fun s => if (highHalf reg).isSome then hostReadReg s fn reg else s

/-! ## Accesses that reach no register -/

/-- Whether an access is one that R45 or R47 allows. -/
def widthOk (offset length : Nat) : Bool :=
  (length == 4 && decide (offset % 4 = 0)) || (length == 8 && decide (offset % 8 = 0))

/-- UNSUPPORTED_ACCESS_WIDTH (R47). -/
def execUnsupportedAccessWidth (fn offset length : Nat) (write : Bool) (window : Option (Nat × Nat)) (s : State) :
    Host.Outcome State Fault Refusal :=
  whenWindow s fn (window.getD (1, 0)) fun s =>
    if widthOk offset length ∨ s.numVfs < fn then s
    else
      let src := window.getD (1, 0)
      let s := emitFn s fn 0x0003 src.1 src.2 (leBytes 4 offset ++ leBytes 1 (bit write) ++ leBytes 1 length)
      send s (.completion fn .unsupportedRequest [])

/-- UNMAPPED_ACCESS (R48): a write is discarded and a read returns 0, with an event; a read of the Transom returns its contents
and writes none. -/
def execUnmappedAccess (fn offset : Nat) (write transom : Bool) (s : State) : Host.Outcome State Fault Refusal :=
  whenWindow s fn (1, 0) fun s =>
    if s.numVfs < fn then s
    else if transom && !write then
      send s (.completion fn .success (padTo 4 ((transomBytes s (fn ≠ 0)).drop offset)))
    else
      let s := emitFn s fn 0x0002 1 0 (leBytes 4 offset ++ leBytes 1 (bit write) ++ leBytes 1 (bit transom))
      if write then s else send s (.completion fn .success (leBytes 4 0))

/-- GATED_ACCESS (R65). -/
def execGatedAccess (fn offset : Nat) (write : Bool) (entryType entryInst : Nat) (s : State) :
    Host.Outcome State Fault Refusal :=
  whenWindow s fn (entryType, entryInst) fun s =>
    match clkIndex entryType entryInst with
    | some i =>
      if fn ≠ 0 ∨ windowThere s (entryType, entryInst) = false ∨ clkEnabled s i = true then s
      else
        let s := emitFn s fn 0x0001 entryType entryInst
          (leBytes 1 0 ++ leBytes 1 0 ++ leBytes 2 i ++ leBytes 1 (bit write) ++ leBytes 3 0 ++ leBytes 8 offset)
        send s (.completion fn .completerAbort [])
    | none => s

end Sys2Proof.Machine
end

