-- ==== Sys2Proof/Machine/Gates.lean ====
section
/-! DEFINITION. Clock enables (R63, R64) and the invalidation of translations (R74–R78). -/

namespace Sys2Proof.Machine

/-! ## Clock enables -/

/-- Whether an index names a bit that software writes (Tables 2-8 and 2-9): the hub's peripherals and the blocks. -/
def clkWritable (idx : Nat) : Bool := decide ((2 ≤ idx ∧ idx ≤ 10) ∨ (32 ≤ idx ∧ idx ≤ 159))

/-- The entries that carry an index: a converter, or a block with its cells, DMUs and vector engine. -/
def clkEntries (idx : Nat) : List (Nat × Nat) :=
  if idx < 7 then [(2, idx - 2)]
  else if idx < 32 then []
  else
    let b := idx - 32
    [(8, b)] ++ ((List.range 8).map fun k => (9, 8 * b + k)) ++ [(10, 2 * b), (10, 2 * b + 1), (11, b)]

/-- The GATED bit of an index's entries, within one span of the update sequence if any of them changes (R56, R63, R64). -/
def setGated (s : State) (idx : Nat) (g : Bool) : State :=
  let es := (clkEntries idx).filter fun e =>
    windowThere s e && (getEntry s e.1 e.2).gated != g
  if es.isEmpty then s
  else transomSpan s fun s => es.foldl (fun s e => updEntry s e.1 e.2 fun x => { x with gated := g }) s

/-- A bit of HUB_CLKEN_n. -/
def setEnable (s : State) (idx : Nat) (v : Bool) : State := setBit s (rid .hubClken (idx / 32)) (idx % 32) v

/-- The RUN bit of an index. -/
def setRun (s : State) (idx : Nat) (v : Bool) : State := setBit s (rid .hubClkst (idx / 32)) (idx % 32) v

/-- CLOCK_ENABLE_SET (R63): the clock has started by the end of the command (DESIGN CHOICE, log entry 42). -/
def execClockEnableSet (index : Nat) (s : State) : Host.Outcome State Fault Refusal :=
  whenWindow s 0 (1, 0) fun s =>
    if clkWritable index then setGated (setRun (setEnable s index true) index true) index false else s

/-- CLOCK_ENABLE_CLEAR (R64). -/
def execClockEnableClear (index : Nat) (s : State) : Host.Outcome State Fault Refusal :=
  whenWindow s 0 (1, 0) fun s => if clkWritable index then setEnable s index false else s

/-- Whether a block has accepted work: a descriptor that has left dispatch for it, a calibration of one of its cells,
or a residency window that flushes (DEDUCED, log entry 51). -/
def blockBusy (s : State) (b : Nat) : Bool :=
  (s.work.any fun w => w.place == .block b
      && (w.phase == .queued || w.phase == .board || w.phase == .granted || w.phase == .running))
    || ((List.range 8).any fun k => (getCell s (8 * b + k)).cal.isSome)
    || !(getBlock s b).flushing.isEmpty

/-- Whether a converter has accepted work: a pass, its delay, or an urgent conversion. -/
def converterBusy (s : State) (n : Nat) : Bool :=
  let t := getTadc s n
  t.delaying || t.passRunning || !t.urgent.isEmpty

/-- Whether accepted work on the resources of an index goes on. -/
def clkBusy (s : State) (idx : Nat) : Bool :=
  if idx < 7 then converterBusy s (idx - 2)
  else if idx < 32 then decide (idx = 10) && secBusy s
  else blockBusy s (idx - 32)

/-- CLOCK_STOPPED (R64): a disabled resource has finished its accepted work. -/
def execClockStopped (index : Nat) (s : State) : Host.Outcome State Fault Refusal :=
  whenLive s fun s =>
    if clkWritable index && !clkEnabled s index && clkRuns s index && !clkBusy s index then
      setGated (setRun s index false) index true
    else s

/-! ## Translations -/

/-- MMU_ROOT_WRITE (R76): the register, and no cached translation of its space is left. -/
def execMmuRootWrite (space : Nat) (high : Bool) (value : W32) (s : State) : Host.Outcome State Fault Refusal :=
  whenWindow s 0 (1, 0) fun s =>
    if 16 < space then s
    else
      let s := writePair s (if high then rid .hubMmuRootHi space else rid .hubMmuRootLo space) value.toNat
      { s with tlbs := s.tlbs.filter fun t => t.space != space }

/-- MMU_INVALIDATE: HUB_MMU_INV_CTL written with START (R74, R75) (DESIGN CHOICE, log entry 50). -/
def execMmuInvalidate (value : W32) (s : State) : Host.Outcome State Fault Refusal :=
  whenWindow s 0 (1, 0) fun s =>
    let r := rid .hubMmuInvCtl
    let v := value.toNat
    if getBit s r 0 ∨ flag v 0 = false then s
    else
      let s := writeReg s r v
      let units := if field v 16 16 = 0 then 65536 else field v 16 16
      { s with inval := some { all := flag v 1, space := field v 8 5,
                               va := getPair s .hubMmuInvAddrLo .hubMmuInvAddrHi, pages := units } }

/-- Whether an invalidation covers a cached translation: all of its space, or a page that meets its 64 KiB units. -/
def Inval.covers (i : Inval) (t : Tlb) : Bool :=
  t.space == i.space && (i.all || decide (t.va < i.va + 65536 * i.pages ∧ i.va < t.va + t.size))

/-- MMU_INVALIDATION_COMPLETE (R74). -/
def execMmuInvalidationComplete (s : State) : Host.Outcome State Fault Refusal :=
  whenLive s fun s =>
    match s.inval with
    | some i =>
      setBit { s with inval := none, tlbs := s.tlbs.filter fun t => !i.covers t } (rid .hubMmuInvCtl) 0 false
    | none => s

/-- ATS_INVALIDATION_REQUEST (R78): every access is one step of this model, so none that used the translation is open;
its 4 KiB page goes and the request is completed (DESIGN CHOICE, log entry 50). -/
def execAtsInvalidationRequest (fn addr : Nat) (s : State) : Host.Outcome State Fault Refusal :=
  whenHost s fun s =>
    send { s with ats := s.ats.filter fun t => !(t.1 == fn && t.2.1 == addr / 4096) } (.atsDone fn addr)

end Sys2Proof.Machine
end

