-- ==== Sys2Proof/Machine/Snapshot.lean ====
section
/-! DEFINITION. Checkpoints (R500–R505): manifests, the checkpoint's layout, chains, SNAPSHOT and SNAPSHOT_RESTORE, to
memory and to the buddy area of another node. What the layout leaves open is the model's choice (DESIGN CHOICE, log
entry 34). -/

namespace Sys2Proof.Machine

/-! ## Manifests (R500) -/

/-- A manifest entry: VA and length in bytes. -/
structure MEntry where
  va : Nat
  len : Nat
  deriving DecidableEq, Repr

/-- Whether a manifest entry keeps R500. -/
def entryOk (e : List Byte) : Bool :=
  decide (leAt e 0 8 < 2 ^ 52 ∧ leAt e 0 8 % 65536 = 0 ∧ leAt e 8 4 % 65536 = 0 ∧ leAt e 12 1 ≤ 5 ∧ leAt e 13 3 = 0)

/-- The entries that some bytes spell. -/
def entriesOf (bs : List Byte) : List MEntry := (runs 16 bs).map fun e => { va := leAt e 0 8, len := leAt e 8 4 }

/-- The bytes of a manifest's entries, once it keeps R500. -/
def readManifest (w : Work) : Eng (List Byte) := do
  let va := vaOf (w.desc.W 0)
  let h ← vread (whoOf w) va 64
  let n := leAt h 6 2
  ensure (decide (h.take 4 = [0x56#8, 0x54#8, 0x4D#8, 0x46#8] ∧ leAt h 4 2 = 1 ∧ 1 ≤ n ∧ n ≤ 4096)
    && (h.drop 8).all fun b => b == 0#8) stBad 0xC7
  let es ← vread (whoOf w) (va + 64) (16 * n)
  ensure ((runs 16 es).all entryOk) stBad 0xC7
  pure es

/-! ## The device section (R500; its layout: log entry 34) -/

/-- The counters that a function's section lists: the first one and how many. -/
def sectionRange (s : State) (fn : Nat) : Nat × Nat :=
  if fn = 0 then (0, 65536) else vfRange (getReg s (rid .hubVfRing fn))

/-- Flags packed eight to a byte, the first in bit 0. -/
def packBits (bs : List Bool) : List Byte :=
  (runs 8 bs).map fun g => BitVec.ofNat 8 (g.foldr (fun b n => bit b + 2 * n) 0)

/-- One flag of packed ones. -/
def packedBit (bs : List Byte) (i : Nat) : Bool := flag (leAt bs (i / 8) 1) (i % 8)

/-- The device section: NUM_STEP, LIMIT and STREAK, then the counters' values and their FAILED flags. -/
def deviceSection (s : State) (fn : Nat) (im : SnapImage) : List Byte :=
  let r := sectionRange s fn
  let cs := (List.range r.2).map fun k => Tab.get {} im.counters (r.1 + k)
  leBytes 4 im.step ++ leBytes 2 im.limit ++ leBytes 2 im.streak
    ++ (cs.flatMap fun c => leBytes 4 c.value) ++ packBits (cs.map (·.failed))

/-- Bytes of a device section. -/
def sectionBytes (s : State) (fn : Nat) : Nat := let n := (sectionRange s fn).2; 8 + 4 * n + (n + 7) / 8

/-- The counters of a device section, as the function's own ones take them. -/
def putSection (s : State) (fn : Nat) (bs : List Byte) : State :=
  let r := sectionRange s fn
  let flags := bs.drop (8 + 4 * r.2)
  let s := (List.range r.2).foldl (fun s k =>
    if ownerOf s (r.1 + k) = fn then setCtr s (r.1 + k) { value := leAt bs (8 + 4 * k) 4, failed := packedBit flags k } else s) s
  let s := setReg s (rid .numStep fn) (leAt bs 0 4)
  setFld (setFld s (rid .numZsCtl fn) 0 13 (leAt bs 4 2)) (rid .numZsCtl fn) 16 13 (leAt bs 6 2)

/-! ## Chains (R501, R502) -/

/-- A checkpoint found in a chain: where it starts, its header, and the bytes of its manifest entries. -/
structure Ckpt where
  off : Nat
  hdr : List Byte
  entries : List Byte
  deriving DecidableEq, Repr

/-- INCREMENTAL. -/
def Ckpt.incremental (c : Ckpt) : Bool := flag (leAt c.hdr 6 1) 0
/-- STEP. -/
def Ckpt.step (c : Ckpt) : Nat := leAt c.hdr 12 4
/-- SEQUENCE. -/
def Ckpt.seq (c : Ckpt) : Nat := leAt c.hdr 16 4
/-- LENGTH. -/
def Ckpt.len (c : Ckpt) : Nat := leAt c.hdr 24 8
/-- Where the next checkpoint of the chain starts (R502). -/
def Ckpt.next (c : Ckpt) : Nat := ckptEnd c.off c.len

/-- A part of a chain asked for: its bytes (fewer at the end of the area), or the offset and length still to be read. -/
abbrev Part (α : Type) : Type := Except (Nat × Nat) α

/-- The checkpoints of a chain from an offset on. -/
def walkChain (rd : Nat → Nat → Part (List Byte)) : Nat → Nat → Nat → Part (List Ckpt)
  | 0, _, _ => .ok []
  | fuel + 1, off, prev =>
    match rd off 128 with
    | .error e => .error e
    | .ok h =>
      if headerFollows h prev then
        match rd (off + 128) (16 * leAt h 20 4) with
        | .error e => .error e
        | .ok es =>
          let c : Ckpt := { off := off, hdr := h, entries := es }
          match walkChain rd fuel c.next (prev + 1) with
          | .error e => .error e
          | .ok cs => .ok (c :: cs)
      else .ok []

/-- The largest number of checkpoints in a chain: each takes 64 KiB of a 52-bit address space at least. -/
def chainMax : Nat := 2 ^ 36

/-- A part of a chain in this function's memory; what cannot be read is missing. -/
def ownPart (w : Work) (s : State) (off len : Nat) : Part (List Byte) :=
  .ok ((quiet (vread (whoOf w) (vaOf (w.desc.W 1) + off) len) s).1.getD [])

/-- A piece of a chain in a buddy's area, as far as it has been read. -/
def gotPiece (w : Work) (off len : Nat) : Part (List Byte) :=
  match w.got.find? fun g => g.1 == off && g.2.1 == len with
  | some g => .ok g.2.2
  | none => .error (off, len)

/-- A part of a chain in a buddy's area, in pieces of at most 4,096 bytes. -/
def gotPart (w : Work) : Nat → Nat → Nat → Part (List Byte)
  | 0, _, _ => .ok []
  | fuel + 1, off, len =>
    if len = 0 then .ok []
    else
      let n := min copyPiece len
      match gotPiece w off n with
      | .error e => .error e
      | .ok a =>
        match gotPart w fuel (off + n) (len - n) with
        | .error e => .error e
        | .ok b => .ok (a ++ b)

/-- Whether a descriptor's checkpoint lies on another node (R504). -/
def isRemote (s : State) (w : Work) : Bool := decide (w.desc.node ≠ nodeId s)

/-- The reader of a descriptor's chain. -/
def chainPart (s : State) (w : Work) : Nat → Nat → Part (List Byte) :=
  if isRemote s w then fun off len => gotPart w (len / copyPiece + 2) off len else ownPart w s

/-- A packet sent for a descriptor with its fabric record (R478); it waits where no record is free. -/
def sendFor (w : Work) (p : Packet) : Eng Unit := do
  let s ← get
  match sendTracked s 4 p w.ring w.index with
  | some t => set t
  | none => throw (.noRecord 4)

/-- The node whose checkpoints a descriptor of this device means: itself, or the one it adopts (R505). -/
def ckptNode (s : State) (w : Work) : Nat :=
  if w.op = some .snapshotRestore ∧ getBit s (rid .fabAdopt) 16 = true then getFld s (rid .fabAdopt) 0 16 else nodeId s

/-! ## SNAPSHOT -/

/-- The unit of a 64 KiB page of a function, and its bytes as they stood at the dispatch (R503). A host-backed page has no
unit, and is taken as it stands. -/
def unitBytes (w : Work) (im : SnapImage) (va : Nat) : Eng (Option Nat × List Byte) := do
  let t ← translate (whoOf w) va false
  let bs ← vread (whoOf w) va 65536
  let s ← get
  if t.host then pure (none, bs)
  else pure (some (t.addr va / 65536), peek { s with mem := im.mem } (t.addr va) 65536)

/-- Whether a unit's dirty bit was set at the dispatch; without a unit it counts as dirty. -/
def wasDirty (s : State) (im : SnapImage) : Option Nat → Bool
  | some u => flag (leNat (peek { s with mem := im.mem } (dirtyBase s + u / 8) 1)) (u % 8)
  | none => true

/-- The units of a range. -/
def readUnits (w : Work) (im : SnapImage) (va : Nat) : Nat → Eng (List (Option Nat × List Byte))
  | 0 => pure []
  | n + 1 => do
    let u ← unitBytes w im va
    let rest ← readUnits w im (va + 65536) n
    pure (u :: rest)

/-- A range's data: all its units, or the bitmap of the dirty ones and those units (R501); and the units included. -/
def rangeData (s : State) (im : SnapImage) (inc : Bool) (us : List (Option Nat × List Byte)) : List Byte × List Nat :=
  let pick := if inc then us.filter fun u => wasDirty s im u.1 else us
  ((if inc then packBits (us.map fun u => wasDirty s im u.1) else []) ++ pick.flatMap (·.2), pick.filterMap (·.1))

/-- The data of every range. -/
def readRanges (w : Work) (im : SnapImage) (inc : Bool) : List MEntry → Eng (List Byte × List Nat)
  | [] => pure ([], [])
  | e :: es => do
    let us ← readUnits w im e.va (e.len / 65536)
    let s ← get
    let d := rangeData s im inc us
    let rest ← readRanges w im inc es
    pure (d.1 ++ rest.1, d.2 ++ rest.2)

/-- The bytes of a checkpoint (Table 13-8). -/
def ckptBytes (s : State) (w : Work) (seq : Nat) (body : List Byte) (ranges : Nat) : List Byte :=
  leBytes 4 0x4B435456 ++ leBytes 2 1 ++ leBytes 1 (bit (1 < seq)) ++ leBytes 1 w.fn ++ leBytes 2 (nodeId s)
    ++ leBytes 2 (getFld s (rid .fabNodeEpoch) 0 16) ++ leBytes 4 (field (w.desc.W 2) 0 32) ++ leBytes 4 seq ++ leBytes 4 ranges
    ++ leBytes 8 (128 + body.length) ++ leBytes 32 0 ++ padTo 64 (Config.sha512 body) ++ body

/-- Dirty bits of units sent, cleared unless the unit has been written since the dispatch (R503). -/
def clearDirty (w : Work) (units : List Nat) : Eng Unit := do
  let s ← get
  let touched := ((findWork s w.ring w.index).bind (·.image)).elim [] (·.touched)
  (units.filter fun u => !touched.contains u).forM fun u => markDirty (u * 65536) false

/-- Where a checkpoint goes, and its sequence number: at the end of the chain, or at its start as a full one (R502). -/
def ckptPlace (s : State) (w : Work) (entries : List Byte) (chain : List Ckpt) : Nat × Nat :=
  match chain.getLast? with
  | some c =>
    if flag (w.desc.W 2) 32 && dirtyOn s && decide (c.entries = entries) then (c.next, c.seq + 1) else (0, 1)
  | none => (0, 1)

/-- The next packet of a checkpoint for a buddy: its bytes from 128 on, then its header (R504). -/
def sendPiece (w : Work) : Eng Unit := do
  let s ← get
  let n := w.file.length
  let head := decide (n ≤ w.progress)
  let off := if head then 0 else w.progress
  let bs := if head then w.file.take 128 else (w.file.drop w.progress).take copyPiece
  act fun s => updWork s w.ring w.index fun v => { v with progress := if head then n + 1 else w.progress + bs.length }
  sendFor w (dataPacket s w.desc.node 0 0 0 (w.base + off) 0 0 (2 + bit head) bs)

/-- The checkpoint made (R501–R504): written at its destination, or kept to be sent. -/
def makeCkpt (w : Work) (im : SnapImage) (entries : List Byte) (chain : List Ckpt) : Eng Unit := do
  let s ← get
  let p := ckptPlace s w entries chain
  let d ← readRanges w im (decide (1 < p.2)) (entriesOf entries)
  let s ← get
  let bytes := ckptBytes s w p.2 (entries ++ deviceSection s w.fn im ++ d.1) (entries.length / 16)
  if isRemote s w then
    act fun s => updWork s w.ring w.index fun v => { v with file := bytes, base := p.1, progress := 128, seqNo := p.2 }
    clearDirty w d.2
    let s ← get
    match findWork s w.ring w.index with
    | some v => sendPiece v
    | none => pure ()
  else
    let who := { whoOf w with snap := true }
    vwrite who (vaOf (w.desc.W 1) + p.1) bytes
    let after := vaOf (w.desc.W 1) + ckptEnd p.1 bytes.length
    act fun s => voidHeader (fun s => (quiet (vread who after 128) s).1.getD []) (fun s => (quiet (vwrite who after [0#8]) s).2) p.2 s
    clearDirty w d.2
    endWith w fun v => { v with seqNo := p.2 }

/-- The work of a SNAPSHOT. To another node, each command sends or asks for one packet, once the one before is answered. -/
def snapshot (w : Work) : Eng Unit := do
  let s ← get
  match w.image with
  | none => pure ()
  | some im =>
    if recOpen s w.ring w.index then pure ()
    else if !w.file.isEmpty then sendPiece w
    else
      ensure (decide (field (w.desc.W 2) 0 32 = im.step)) stBad 0xC8
      let entries ← readManifest w
      if flag (w.desc.W 2) 32 then
        match walkChain (chainPart s w) chainMax 0 0 with
        | .error (off, len) => sendFor w (areaRequest s w.desc.node (ckptNode s w) off len)
        | .ok chain => makeCkpt w im entries chain
      else makeCkpt w im entries []

/-- SNAPSHOT. -/
def execSnapshot (ring index : Nat) (s : State) : Host.Outcome State Fault Refusal :=
  whenLive s fun s => runOp s .snapshot ring index snapshot

/-! ## SNAPSHOT_RESTORE -/

/-- The units of a range written back: of a full checkpoint all, of an incremental those of its bitmap. It answers the bytes
left. -/
def writeUnits (w : Work) (pick : Nat → Bool) (va : Nat) : Nat → Nat → List Byte → Eng (List Byte)
  | 0, _, bs => pure bs
  | n + 1, i, bs =>
    if pick i then do
      vwrite (whoOf w) (va + 65536 * i) (bs.take 65536)
      writeUnits w pick va n (i + 1) (bs.drop 65536)
    else writeUnits w pick va n (i + 1) bs

/-- The ranges of one checkpoint written. -/
def writeRanges (w : Work) (inc : Bool) : List MEntry → List Byte → Eng Unit
  | [], _ => pure ()
  | e :: es, bs => do
    let n := e.len / 65536
    let map := if inc then (n + 7) / 8 else 0
    let rest ← writeUnits w (fun i => !inc || packedBit bs i) e.va n 0 (bs.drop map)
    writeRanges w inc es rest

/-- The checkpoints of a chain up to one, each with its bytes from 128 on. -/
def chainBodies (rd : Nat → Nat → Part (List Byte)) : List Ckpt → Part (List (Ckpt × List Byte))
  | [] => .ok []
  | c :: cs =>
    match rd (c.off + 128) (c.len - 128) with
    | .error e => .error e
    | .ok b =>
      match chainBodies rd cs with
      | .error e => .error e
      | .ok rest => .ok ((c, b) :: rest)

/-- A chain up to the last checkpoint of a step; none where no checkpoint has it. -/
def chainUpTo (chain : List Ckpt) (step : Nat) : Option (List Ckpt) :=
  let r := chain.reverse.dropWhile fun c => c.step != step
  if r.isEmpty then none else some r.reverse

/-- A chain applied: the ranges of each checkpoint, then the last one's device section (R505). -/
def applyChain (w : Work) (entries : List Byte) : List (Ckpt × List Byte) → Eng Unit
  | [] => endOk w
  | (c, b) :: rest => do
    let s ← get
    let n := entries.length + sectionBytes s w.fn
    writeRanges w c.incremental (entriesOf entries) (b.drop n)
    if rest.isEmpty then
      act fun s => putSection s w.fn (b.drop entries.length)
      endWith w fun v => { v with seqNo := c.seq, ckEpoch := leAt c.hdr 10 2 }
    else applyChain w entries rest

/-- The work of a SNAPSHOT_RESTORE. From another node, each command asks for one part, once the one before has come. -/
def snapshotRestore (w : Work) : Eng Unit := do
  let s ← get
  if recOpen s w.ring w.index then pure ()
  else
    let entries ← readManifest w
    let rd := chainPart s w
    let ask (off len : Nat) : Eng Unit := sendFor w (areaRequest s w.desc.node (ckptNode s w) off len)
    match walkChain rd chainMax 0 0 with
    | .error (off, len) => ask off len
    | .ok chain =>
      match chainUpTo chain (field (w.desc.W 2) 0 32) with
      | none => failWith stAborted 0xCB
      | some cs =>
        ensure (cs.all fun c => decide (leAt c.hdr 8 2 = ckptNode s w ∧ leAt c.hdr 7 1 = w.fn)) stDenied 0xCA
        ensure (cs.all fun c => decide (c.entries = entries)) stAborted 0xCB
        match chainBodies rd cs with
        | .error (off, len) => ask off len
        | .ok bodies =>
          ensure (bodies.all fun p => decide (p.2.length = p.1.len - 128
            ∧ padTo 64 (Config.sha512 p.2) = (p.1.hdr.drop 64).take 64)) stAborted 0xCB
          applyChain w entries bodies

/-- SNAPSHOT_RESTORE. -/
def execSnapshotRestore (ring index : Nat) (s : State) : Host.Outcome State Fault Refusal :=
  whenLive s fun s => runOp s .snapshotRestore ring index snapshotRestore

end Sys2Proof.Machine
end

