-- ==== Sys2Proof/Machine/Update.lean ====
section
/-! DEFINITION. The fused update unit: the update group table (R380, R381), UPDATE_STEP with its checks (R382–R384), step
count and schedules (R385–R387), rule micro-programs (R388–R391), blocks and their commitment (R392–R395), the inverse root
(R396, R397), and replay from staging (R398). -/

namespace Sys2Proof.Machine

/-! ## The update group (Table 10-1) -/

/-- An update group entry. -/
structure UpdGrp where
  bytes : List Byte
  deriving DecidableEq, Repr

/-- KIND. -/
def UpdGrp.kind (g : UpdGrp) : Nat := leAt g.bytes 0 1
/-- One bit of FLAGS: 0 SPARSE, 1 NONFIN_WRITE, 2 METHOD, 3 ROOT4. -/
def UpdGrp.flagBit (g : UpdGrp) (n : Nat) : Bool := flag (leAt g.bytes 1 1) n
/-- Format bytes: P_FMT, G_FMT, M1_FMT, M2_FMT. -/
def UpdGrp.fmt (g : UpdGrp) (n : Nat) : Nat := leAt g.bytes (2 + n) 1
/-- LOG2_BLOCK. -/
def UpdGrp.log2 (g : UpdGrp) : Nat := leAt g.bytes 6 1
/-- ORDER. -/
def UpdGrp.order (g : UpdGrp) : Nat := leAt g.bytes 7 1
/-- ITERS. -/
def UpdGrp.iters (g : UpdGrp) : Nat := leAt g.bytes 8 1
/-- STEP_BASE. -/
def UpdGrp.stepBase (g : UpdGrp) : Nat := leAt g.bytes 12 4
/-- PROG with its reserved bits. -/
def UpdGrp.prog (g : UpdGrp) : Nat := leAt g.bytes 16 8
/-- SCHED0–SCHED3. -/
def UpdGrp.sched (g : UpdGrp) (n : Nat) : Nat := leAt g.bytes (24 + 8 * n) 8
/-- K0–K7. -/
def UpdGrp.k (g : UpdGrp) (n : Nat) : Nat := leAt g.bytes (56 + 4 * n) 4
/-- EPS. -/
def UpdGrp.eps (g : UpdGrp) : Nat := leAt g.bytes 88 4
/-- LAMBDA. -/
def UpdGrp.lam (g : UpdGrp) : Nat := leAt g.bytes 92 4

/-- Whether an entry's inverse-root fields hold: ORDER, ITERS, ROOT4, EPS and LAMBDA (Table 10-1, R396). -/
def UpdGrp.rootOk (g : UpdGrp) : Bool :=
  decide (1 ≤ g.order ∧ g.order ≤ 128)
    && (if g.flagBit 2 then decide (1 ≤ g.iters ∧ g.iters ≤ 32) else g.iters == 0 && !g.flagBit 3)
    && fp32.finite g.eps && !fp32.isZero g.eps && !fp32.sign g.eps
    && fp32.finite g.lam && (!fp32.sign g.lam || fp32.isZero g.lam)

/-- The refusals of an entry with detail code 0x90 (R383; the kind-1 fields of a kind-0 entry are log entry 30). -/
def UpdGrp.refused (g : UpdGrp) : Bool :=
  decide (1 < g.kind) || decide (field (leAt g.bytes 1 1) 4 4 ≠ 0) || decide (leAt g.bytes 9 3 ≠ 0)
    || decide (leAt g.bytes 113 15 ≠ 0) || decide (field g.prog 52 12 ≠ 0)
    || (if g.kind = 0 then g.flagBit 2 || g.flagBit 3 || decide (g.order ≠ 0 ∨ g.iters ≠ 0) else !g.rootOk)

/-- VA of a group's entry. -/
def updGrpVa (s : State) (fn g : Nat) : Nat := vaPair s .updGrpBaseLo .updGrpBaseHi fn 12 + 128 * g

/-- The bytes of the entry a descriptor names, where its table holds one. -/
def rawUpdGrp (w : Who) (g : Nat) : Eng (Option UpdGrp) := do
  let s ← get
  if getBit s (rid .updGrpBaseLo w.fn) 0 && decide (g ≤ 4095) then
    let bs ← vread w (updGrpVa s w.fn g) 128
    pure (some ⟨bs⟩)
  else pure none

/-- The entry a descriptor names, or the refusal of R383. -/
def readUpdGrp (w : Who) (g : Nat) : Eng UpdGrp := do
  match ← rawUpdGrp w g with
  | some e =>
    ensure (!e.refused) stBad 0x90
    pure e
  | none => failWith stBad 0x90

/-- A header checked under R148 for itself; its format is compared with the group's by `formatsFit`. -/
def updHdr (w : Who) (va : Nat) : Eng (Hdr × Grp) := do
  let bs ← vread w va 64
  let h : Hdr := ⟨va, bs⟩
  ensure (!h.refused (leAt bs 4 1)) stBad 0x41
  let g ← readGrp w h.group
  pure (h, g)

/-- The header of an operand; none for VA 0. -/
def updOperand (w : Who) (va : Nat) : Eng (Option (Hdr × Grp)) := do
  if va = 0 then pure none
  else
    let h ← updHdr w va
    pure (some h)

/-! ## Step count, bias terms and schedules -/

/-- t (R385). -/
def updStepCount (numStep base : Nat) : Nat :=
  let t := (numStep + 2 ^ 32 - base % 2 ^ 32 + 1) % 2 ^ 32
  if t = 0 then 1 else t

/-- The powers of R386: p and b after the bits of e. -/
def biasPower : Nat → Nat → Nat → Nat → Nat
  | 0, _, p, _ => p
  | fuel + 1, e, p, b =>
    if e = 0 then p else biasPower fuel (e / 2) (if e % 2 = 1 then fp64.mul p b else p) (fp64.mul b b)

/-- R386: 1 − k^t. -/
def biasTerm (k t : Nat) : Nat :=
  let p := biasPower 32 t (fp64.round (.fin false 1 0)) (fp64.round (fp32.decode k))
  fp32.round ((Val.fin false 1 0).add (fp64.decode p).neg)

/-- The piece of a schedule that holds t: its points, at most `fuel` of them looked at (R387). -/
def schedPiece (t : Nat) : List (Nat × Nat) → Nat
  | (s0, v0) :: (s1, v1) :: rest =>
    if s1 ≤ t ∧ rest ≠ [] then schedPiece t ((s1, v1) :: rest)
    else
      let f := fp32.divVal (.fin false (t - s0) 0) (.fin false (s1 - s0) 0)
      fp32.fma f (fp32.sub v1 v0) v0
  | (_, v0) :: [] => v0
  | [] => one32

/-- R387. -/
def schedValue (points : List (Nat × Nat)) (t : Nat) : Nat :=
  match points.head?, points.getLast? with
  | some a, some z => if t ≤ a.1 then a.2 else if z.1 ≤ t then z.2 else schedPiece t points
  | _, _ => one32

/-- Whether steps rise strictly. -/
def risingSteps : List (Nat × Nat) → Bool
  | a :: b :: rest => decide (a.1 < b.1) && risingSteps (b :: rest)
  | _ => true

/-- A schedule value: 1.0 for no table, or the refusal of R383 (Table 10-6; a VA above 52 bits is log entry 30). -/
def readSched (w : Who) (va t : Nat) : Eng Nat := do
  if va = 0 then pure one32
  else
    ensure (decide (va < 2 ^ 52)) stBad 0x93
    let hd ← vread w va 16
    let n := leAt hd 4 2
    ensure (decide (hd.take 4 = [0x56#8, 0x54#8, 0x53#8, 0x43#8] ∧ 2 ≤ n ∧ n ≤ 64 ∧ leAt hd 6 10 = 0)) stBad 0x93
    let bs ← vread w (va + 16) (8 * n)
    let points := (List.range n).map fun k => (leAt bs (8 * k) 4, leAt bs (8 * k + 4) 4)
    ensure (risingSteps points && points.all fun p => fp32.finite p.2) stBad 0x93
    pure (schedValue points t)

/-! ## Micro-programs -/

/-- Operands that an operation uses; none for a code that is no operation (Table 10-4). -/
def ruleArity (op : Nat) : Option Nat :=
  if op ∈ [0x04, 0x0B, 0x0E] then some 3
  else if op ∈ [0x01, 0x02, 0x03, 0x05, 0x06, 0x0A, 0x0C, 0x0D, 0x0F] then some 2
  else if op ∈ [0x07, 0x08, 0x09] then some 1
  else if op = 0x7F then some 0 else none

/-- Operands A, B and C of an instruction. -/
def ruleFields (i : Nat) : List Nat := [field i 13 5, field i 18 5, field i 23 5]

/-- R388 for one instruction. -/
def ruleInstrOk (i : Nat) : Bool :=
  match ruleArity (field i 0 8) with
  | some n => decide (field i 28 36 = 0 ∧ field i 8 5 ≤ 15) && ((ruleFields i).drop n).all (· == 0)
  | none => false

/-- A micro-program read up to its END; at most `fuel` instructions. -/
def readRule (w : Who) : Nat → Nat → Eng (List Nat)
  | 0, _ => failWith stBad 0x91
  | fuel + 1, va => do
    let i ← vreadNat w va 8
    ensure (ruleInstrOk i) stBad 0x91
    if field i 0 8 = 0x7F then pure [i]
    else
      let rest ← readRule w fuel (va + 8)
      pure (i :: rest)

/-! ## Operand shapes (R383, R384) -/

/-- Whether a moment's format is allowed: update state, and in sparse-touch mode FP32, BF16 or MX (R384). -/
def momentOk (sparse : Bool) (b : Nat) : Bool :=
  flag b 7 && fmtByteOk .update b && (!sparse || b == 0x80 || b == 0x81 || fmtMx (b % 128))

/-- The operands of an element rule: parameter, first moment, gradient, second moment, master copy. -/
structure RuleOps where
  p : Option (Hdr × Grp)
  m1 : Option (Hdr × Grp)
  g : Option (Hdr × Grp)
  m2 : Option (Hdr × Grp)
  master : Option (Hdr × Grp)
  deriving DecidableEq, Repr

/-- The operands' headers. -/
def ruleOps (w : Who) (d : Desc) : Eng RuleOps := do
  let p ← updOperand w (vaOf (d.W 0))
  let m1 ← updOperand w (vaOf (d.W 1))
  let g ← updOperand w (vaOf (d.W 2))
  let m2 ← updOperand w (vaOf (d.X 0))
  let x ← updOperand w (vaOf (d.X 1))
  pure ⟨p, m1, g, m2, x⟩

/-- The format bytes of a group's entry that a descriptor uses, against R130: those of the parameter, of the gradient, and of the
moments it has. -/
def groupFormats (d : Desc) (g : UpdGrp) : Eng Unit :=
  ensure (decide (g.kind ≠ 0) || (fmtByteOk .storage (g.fmt 0) && fmtByteOk .storage (g.fmt 1)
    && (decide (vaOf (d.W 1) = 0) || fmtByteOk .update (g.fmt 2))
    && (decide (vaOf (d.X 0) = 0) || fmtByteOk .update (g.fmt 3)))) stBad 0x40

/-- Whether a header, where there is one, holds a FORMAT. -/
def headerIs (o : Option (Hdr × Grp)) (fmt : Nat) : Bool :=
  match o with
  | some h => decide (leAt h.1.bytes 4 1 = fmt)
  | none => true

/-- The FORMAT of each header against its format byte (R148). -/
def formatsFit (g : UpdGrp) (o : RuleOps) : Bool :=
  if g.kind = 0 then
    headerIs o.p (g.fmt 0) && headerIs o.g (g.fmt 1) && headerIs o.m1 (g.fmt 2) && headerIs o.m2 (g.fmt 3) && headerIs o.master 0x80
  else if g.kind = 1 then headerIs o.p 0x80 && headerIs o.m1 0x80
  else true

/-- One operand's block size and elements (R383). -/
def operandFits (o : Option (Hdr × Grp)) (log2 elements : Nat) : Eng Unit := do
  match o with
  | none => pure ()
  | some h =>
    ensure (decide ((fmtScaled h.1.fmt = true → h.1.log2 = log2) ∧ h.1.elements = elements)) stBad 0x92

/-- The shape of an element rule's operands. -/
def ruleShape (g : UpdGrp) (o : RuleOps) (blocks : Nat) : Eng Unit := do
  let L := g.log2
  let sparse := g.flagBit 0
  ensure (decide (4 ≤ L ∧ L ≤ 7 ∧ (g.fmt 0 = 0x80 ∨ g.fmt 0 = 0x81))) stBad 0x92
  ensure (o.p.isSome && o.g.isSome && o.master.isSome == (g.fmt 0 == 0x81)) stBad 0x92
  ensure (flag (g.fmt 1) 7 && fmtByteOk .storage (g.fmt 1)) stBad 0x92
  ensure ((o.m1.isNone || momentOk sparse (g.fmt 2)) && (o.m2.isNone || momentOk sparse (g.fmt 3))) stBad 0x92
  let n := match o.p with | some h => h.1.elements | none => 0
  operandFits o.p L n
  operandFits o.m1 L n
  operandFits o.g L n
  operandFits o.m2 L n
  operandFits o.master L n
  ensure (decide (blocks = ceilDiv n (2 ^ L))) stBad 0x92

/-! ## Reading and writing blocks -/

/-- Elements `first` to `first + n − 1` of an area of format `c` at `at'`, read through `rd`. -/
def areaSlice (c first n : Nat) (rd : Nat → Nat → Eng (List Byte)) : Eng (List Nat) := do
  let unit := if c = 0x23 then 5 else 8
  let u0 := first / unit
  let lo := if c = 0x23 then u0 else u0 * fmtWidth c
  let bs ← rd lo (areaBytes c (first + n) - lo)
  pure (((areaCodes c (first + n - unit * u0) bs).drop (first - unit * u0)).take n)

/-- Block `b` of a tensor, of 2^L elements, as FP32 codes (R389). A VQ block whose scale byte is 0x00 is not read further
(R395). -/
def readBlock (w : Who) (h : Hdr) (L b : Nat) : Eng (List Nat) := do
  let s ← get
  let first := b * 2 ^ L
  let n := min (2 ^ L) (h.elements - first)
  if h.wide then
    match wideCopyOf s w.fn h with
    | none => failWith stDenied 0x40
    | some _ =>
      let cs ← areaSlice h.wideFmt first n fun off k => pread w (h.widePa + off) k
      pure (cs.map fun q => toFp32 (decodeElem h.wideFmt 0 0 q))
  else
    let c := h.fmt
    let scale ← if fmtScaled c then vreadNat w (h.va + 64 + b) 1 else pure 0
    if fmtScaled c ∧ ¬ fmtMx c ∧ scale = 0 then pure (List.replicate n 0)
    else
      let cs ← areaSlice c first n fun off k => vread w (h.va + areaOffset c h.log2 h.elements + off) k
      pure (cs.map fun q => toFp32 (decodeElem c scale h.tscale q))

/-- Whether every element of a block is ±0 (R395). -/
def allZero (xs : List Nat) : Bool := xs.all fp32.isZero

/-- A block written in place, with the census of what it holds; `L` is the grain. -/
def writeBlock (w : Who) (h : Hdr) (L b : Nat) (xs : List Nat) : Eng Census := do
  let e := encodeTensor fp32 h.fmt (if fmtScaled h.fmt then h.log2 else 0) h.headroom 0 xs
  if fmtScaled h.fmt then vwrite w (h.va + 64 + b) e.scales
  vwrite w (h.va + areaOffset h.fmt h.log2 h.elements + b * 2 ^ L * fmtWidth h.fmt / 8) e.area
  pure e.census

/-- A block's old bytes written back unchanged (R394). -/
def keepBlock (w : Who) (h : Hdr) (L b : Nat) : Eng Unit := do
  if fmtScaled h.fmt then
    let sc ← vread w (h.va + 64 + b) 1
    vwrite w (h.va + 64 + b) sc
  let n := if fmtScaled h.fmt then 2 ^ L else min (2 ^ L) (h.elements - b * 2 ^ L)
  let va := h.va + areaOffset h.fmt h.log2 h.elements + b * 2 ^ L * fmtWidth h.fmt / 8
  let bs ← vread w va (areaBytes h.fmt n)
  vwrite w va bs

/-- The census of values written back unchanged. -/
def keptCensus (xs : List Nat) : Census :=
  ⟨(xs.filter fp32.isZero).length, 0, (xs.filter fun x => !fp32.finite x).length⟩

/-- The accesses to the tensors of an element rule: in streaming mode with the stream-through hint (Table 9-3, R352). -/
def updWho (w : Work) (sparse : Bool) : Who := { whoOf w with hint := bit !sparse }

/-- Block `b` of the operand at a VA, of 2^L elements; `n` times +0 for one that is absent (R389). -/
def readRuleOperand (w : Work) (sparse : Bool) (va L b n : Nat) : Eng (List Nat) := do
  if va = 0 then pure (List.replicate n 0)
  else
    let hg ← updHdr (updWho w sparse) va
    readBlock (updWho w sparse) hg.1 L b

/-- Whether a tensor is written block by block: every one but a VQ tensor, whose tensor scale and widening are those of all its
values, so that it is written behind its last block (R151, R173) (DEDUCED, log entry 30). -/
def byBlock (h : Hdr) : Bool := !fmtScaled h.fmt || fmtMx h.fmt

/-- A block's values put out. -/
def RuleOut.add (o : RuleOut) (xs : List Nat) (c : Census) : RuleOut :=
  { vals := o.vals ++ [xs], zeros := o.zeros + c.zeros, saturated := o.saturated + c.saturated
    nonfinite := o.nonfinite + c.nonfinite }

/-- A block of the operand at a VA committed (R392): its new values, or its old ones written back where it is kept (R394). -/
def commitOperand (w : Work) (sparse kept : Bool) (va L b : Nat) (xs : List Nat) (o : RuleOut) : Eng RuleOut := do
  if va = 0 then pure o
  else
    let who := updWho w sparse
    let hg ← updHdr who va
    if !byBlock hg.1 then pure (o.add xs {})
    else if kept && !hg.1.wide then
      keepBlock who hg.1 L b
      pure (o.add xs (keptCensus xs))
    else
      let c ← writeBlock who hg.1 L b xs
      pure (o.add xs c)

/-- The operand at a VA with all its blocks put out: its header and group update, in sparse-touch mode over the touched blocks alone
(R149, R157, R395), or a VQ tensor written whole. A tensor of which no block is touched is not written (DEDUCED, log entry
30). -/
def finishOperand (w : Work) (sparse : Bool) (va : Nat) (o : RuleOut) : Eng Unit := do
  if va = 0 || o.vals.isEmpty then pure ()
  else
    let who := updWho w sparse
    let hg ← updHdr who va
    let xs := o.vals.flatten
    if byBlock hg.1 then
      let amax := fp32.amax xs
      let norm := if hg.2.cls = 2 ∨ hg.2.cls = 3 then norm32 xs else 0
      let old ← heldCopy who hg.1
      writeHdr who va false one32 0 amax norm
      let x ← narrowWrote old (groupWrite who hg.1 hg.2 xs.length ⟨o.zeros, o.saturated, o.nonfinite⟩ amax norm)
      noteWrite w x
    else
      let x ← writeHeaded who hg.1 hg.2 fp32 xs
      noteWrite w x

/-- Saturating 32-bit fields of the group entry, from offset `off`, each raised by its number, with new bytes behind them. -/
def addGroupField (w : Who) (va off width n : Nat) : Eng Unit := do
  let old ← vreadNat w (va + off) width
  vwrite w (va + off) (leBytes width (satAdd (8 * width) old n))

/-! ## Replay from staging (R398) -/

/-- An error of a region's unit that it replays from its staging buffers: the descriptor is marked. -/
def unitReplay (w : Work) (u : Upset) : Eng Unit := do
  act fun s => { s with upsets := s.upsets.erase u }
  act fun s => updWork s w.ring w.index fun v => v.also 3 0x98

/-- A commit of a region's unit: whether it failed, and was written again from the held results. -/
def commitFails (w : Work) (region : Nat) : Eng Bool := do
  let s ← get
  if Upset.commit region ∈ s.upsets then
    unitReplay w (.commit region)
    pure true
  else pure false

/-- The update-replayed event of a descriptor, with the first block replayed (Table 10-10). -/
def replayEvent (w : Work) (region : Nat) (first : Option Nat) : Eng Unit :=
  match first with
  | some b => act fun s => emitRing s w.ring 0x0603 7 region (leBytes 2 (field (w.desc.W 3) 0 16) ++ leBytes 4 b ++ leBytes 1 region)
  | none => pure ()

/-- Every block of an element rule is committed, and its descriptor ends: the tensors' headers, the group's fields (R381), and
the events of R394 and R398. -/
def ruleDone (w : Work) (region : Nat) (r : RuleRun) : Eng Unit := do
  let who := whoOf w
  let d := w.desc
  let grp := field (d.W 3) 0 16
  let g ← readUpdGrp who grp
  let sparse := g.flagBit 0
  finishOperand w sparse (vaOf (d.W 0)) r.outP
  finishOperand w sparse (vaOf (d.W 1)) r.outM1
  finishOperand w sparse (vaOf (d.X 0)) r.outM2
  finishOperand w sparse (vaOf (d.X 1)) r.outX
  replayEvent w region r.replayed
  let s ← get
  let va := updGrpVa s w.fn grp
  vwrite who (va + 96) (leBytes 4 r.t)
  addGroupField who va 100 4 r.nonfin
  addGroupField who va 104 4 r.skipped
  act fun s =>
    if r.nonfin = 0 then s
    else emitRing (setBit s (rid .rgnUpdStat region) 2 true) w.ring 0x0602 7 region
      (leBytes 2 grp ++ leBytes 4 r.nonfin ++ leBytes 1 (bit (g.flagBit 1)))
  endOk w

/-- The registers of an element at its start (R389). -/
def RuleRun.load (r : RuleRun) : RuleRun :=
  { r with pc := 0, r := [(0, r.grad.getD r.elem 0), (1, r.master.getD r.elem 0), (2, r.m1.getD r.elem 0), (3, r.m2.getD r.elem 0)] }

/-- A block's start: its gradient norm (R390) and its first element. -/
def RuleRun.startBlock (r : RuleRun) : RuleRun :=
  RuleRun.load { r with elem := 0, results := [], nb := fp32.sqrt (runSquares r.grad) }

/-- The next block to update, from the run's own on: read with all its operands and started, or the end of the descriptor where
there is none (R389, R392). In sparse-touch mode the untouched blocks before it are counted, and nothing else of them is read
(R395). The number bounds the blocks looked at. -/
def nextBlock (w : Work) (region : Nat) (sparse : Bool) (L : Nat) : Nat → RuleRun → Eng Unit
  | 0, r => ruleDone w region r
  | fuel + 1, r => do
    let d := w.desc
    let grad ← readRuleOperand w sparse (vaOf (d.W 2)) L r.block 0
    if sparse && allZero grad then
      nextBlock w region sparse L fuel { r with block := r.block + 1, skipped := r.skipped + 1 }
    else
      let master ← readRuleOperand w sparse (vaOf (if vaOf (d.X 1) = 0 then d.W 0 else d.X 1)) L r.block grad.length
      let m1 ← readRuleOperand w sparse (vaOf (d.W 1)) L r.block grad.length
      let m2 ← readRuleOperand w sparse (vaOf (d.X 0)) L r.block grad.length
      act fun s => updRegion s region fun k =>
        { k with rule := some (RuleRun.startBlock { r with grad := grad, master := master, m1 := m1, m2 := m2 }) }

/-- Whether a result of the block in work is not finite (R394). -/
def RuleRun.bad (r : RuleRun) : Bool :=
  r.results.any fun x => !fp32.finite x.1 || !fp32.finite x.2.1 || !fp32.finite x.2.2

/-- The block in work committed (R392): its results, or its old values where it is non-finite and NONFIN_WRITE is 0 (R394). A commit
that fails is made again of the results held (R398). It answers the run at the next block. -/
def commitBlock (w : Work) (region : Nat) (g : UpdGrp) (r : RuleRun) : Eng RuleRun := do
  let d := w.desc
  let L := g.log2
  let sparse := g.flagBit 0
  let kept := r.bad && !g.flagBit 1
  let new (f : Nat × Nat × Nat → Nat) (old : List Nat) : List Nat := if kept then old else r.results.map f
  let old ← if kept && vaOf (d.X 1) ≠ 0 then readRuleOperand w sparse (vaOf (d.W 0)) L r.block 0 else pure r.master
  let p ← commitOperand w sparse kept (vaOf (d.W 0)) L r.block (new (·.1) old) r.outP
  let m1 ← commitOperand w sparse kept (vaOf (d.W 1)) L r.block (new (·.2.1) r.m1) r.outM1
  let m2 ← commitOperand w sparse kept (vaOf (d.X 0)) L r.block (new (·.2.2) r.m2) r.outM2
  let x ← commitOperand w sparse kept (vaOf (d.X 1)) L r.block (new (·.1) r.master) r.outX
  let again ← commitFails w region
  act fun s => addFld s (rid .rgnUpdCnt region) 0 32 1
  pure { r with
    outP := p, outM1 := m1, outM2 := m2, outX := x, nonfin := r.nonfin + bit r.bad, block := r.block + 1
    replayed := match r.replayed with | some b => some b | none => if again then some r.block else none }

/-! ## The inverse root (R396) -/

/-- An entry of a matrix of FP32 codes. -/
def mAt (m : List (List Nat)) (i j : Nat) : Nat := (m.getD i []).getD j 0

/-- A sum of products by fused multiply-adds from +0, in order. -/
def fmaSum (xs : List (Nat × Nat)) : Nat := xs.foldl (fun a p => fp32.fma p.1 p.2 a) 0

/-- The symmetric matrix of a lower triangle. -/
def symmetric (n : Nat) (s : List (List Nat)) : List (List Nat) :=
  (List.range n).map fun i => (List.range n).map fun j => if j ≤ i then mAt s i j else mAt s j i

/-- Column j of the factor below and on the diagonal, from the columns before it; none where its pivot fails. `cols` holds
the columns 0 to j − 1 in order, each with n entries. -/
def cholColumn (n : Nat) (s : List (List Nat)) (tau : Nat) (cols : List (List Nat)) (j : Nat) : Option (List Nat) :=
  let row (i : Nat) : List Nat := cols.map fun c => c.getD i 0
  let dj := fp32.sub (mAt s j j) (fmaSum ((row j).map fun x => (x, x)))
  if !fp32.finite dj || (fp32.decode dj).le (fp32.decode tau) then none
  else
    let l := fp32.sqrt dj
    some ((List.range n).map fun i =>
      if i < j then 0 else if i = j then l
      else fp32.div (fp32.sub (mAt s i j) (fmaSum ((row i).zip (row j)))) l)

/-- chol_ok: the columns of the factor, or none where it fails. -/
def chol (n : Nat) (s : List (List Nat)) (tau : Nat) : Option (List (List Nat)) :=
  (List.range n).foldl (fun acc j => acc.bind fun cols => (cholColumn n s tau cols j).map fun c => cols ++ [c]) (some [])

/-- Column j of L⁻¹ by forward substitution in ascending order. -/
def invColumn (n : Nat) (l : List (List Nat)) (j : Nat) : List Nat :=
  (List.range n).foldl (fun x i =>
    x ++ [if i < j then 0
          else if i = j then fp32.rcp (mAt l j j)
          else fp32.div (fp32.negate (fmaSum (((List.range i).drop j).map fun k => (mAt l k i, x.getD k 0)))) (mAt l i i)]) []

/-- A matrix turned over. -/
def turned (n : Nat) (m : List (List Nat)) : List (List Nat) :=
  (List.range n).map fun i => (List.range n).map fun j => mAt m j i

/-- inv_chol_factor, from the columns of L. -/
def invCholFactor (n : Nat) (l : List (List Nat)) : List (List Nat) :=
  turned n ((List.range n).map fun j => invColumn n l j)

/-- A matrix product accumulated in ascending index. -/
def mMul (n : Nat) (a b : List (List Nat)) : List (List Nat) :=
  let bt := turned n b
  a.map fun r => bt.map fun c => fmaSum (r.zip c)

/-- The identity. -/
def identity32 (n : Nat) : List (List Nat) :=
  (List.range n).map fun i => (List.range n).map fun j => if i = j then one32 else 0

/-- The FP32 code of 3 and of one half. -/
def three32 : Nat := fp32.round (.fin false 3 0)
/-- See `three32`. -/
def half32 : Nat := fp32.round (.fin false 1 (-1))

/-- The coupled iterations from Y and Z. -/
def schulz (n : Nat) : Nat → List (List Nat) → List (List Nat) → List (List Nat) × List (List Nat)
  | 0, y, z => (y, z)
  | k + 1, y, z =>
    let zy := mMul n z y
    let m := (List.range n).map fun i => (List.range n).map fun j =>
      fp32.mul half32 (fp32.sub (if i = j then three32 else 0) (mAt zy i j))
    schulz n k (mMul n y m) (mMul n m z)

/-- newton_schulz (R396). -/
def newtonSchulz (n : Nat) (s : List (List Nat)) (root4 : Bool) (iters : Nat) : List (List Nat) :=
  let f := fp32.sqrt (fmaSum (s.flatten.map fun x => (x, x)))
  let a := s.map fun r => r.map fun x => fp32.div x f
  let p := schulz n iters a (identity32 n)
  let q := if root4 then schulz n iters p.1 (identity32 n) else p
  let c := if root4 then fp32.rsqrt (fp32.sqrt f) else fp32.rsqrt f
  q.2.map fun r => r.map fun x => fp32.mul x c

/-- diag_root. -/
def diagRoot (n : Nat) (s : List (List Nat)) (tau : Nat) (root4 : Bool) : List (List Nat) :=
  (List.range n).map fun i => (List.range n).map fun j =>
    if i = j then
      let v := fp32.maxOf (mAt s i i) tau
      fp32.rsqrt (if root4 then fp32.sqrt v else v)
    else 0

/-- The root of one matrix: the result, whether it was damped, and whether it took the diagonal preconditioner or the
identity (R396). -/
def inverseRoot (g : UpdGrp) (s : List (List Nat)) : List (List Nat) × Bool × Bool :=
  let n := g.order
  let s := symmetric n s
  let root4 := g.flagBit 3
  let tr := (List.range n).foldl (fun a i => fp32.add a (mAt s i i)) 0
  let tau := fp32.divVal (fp32.decode (fp32.mul g.eps tr)) (.fin false n 0)
  if !fp32.finite tr || !(Val.fin false 0 0).lt (fp32.decode tr) || s.any fun r => r.any fun x => !fp32.finite x then
    (identity32 n, false, true)
  else
    let tau := fp32.maxOf tau 0x00800000
    let root (m l : List (List Nat)) (damped : Bool) : List (List Nat) × Bool × Bool :=
      let r := if g.flagBit 2 then newtonSchulz n m root4 g.iters else invCholFactor n l
      if r.any fun row => row.any fun x => !fp32.finite x then (diagRoot n m tau root4, damped, true) else (r, damped, false)
    match chol n s tau with
    | some l => root s l false
    | none =>
      let s2 := (List.range n).map fun i => (List.range n).map fun j =>
        if i = j then fp32.add (mAt s i i) g.lam else mAt s i j
      match chol n s2 tau with
      | some l => root s2 l true
      | none => (diagRoot n s2 tau root4, true, true)

/-- The inverse-root form of UPDATE_STEP (R382, R396, R397). -/
def rootStep (w : Work) (region : Nat) (g : UpdGrp) (t : Nat) (root stats : Option (Hdr × Grp)) : Eng Unit := do
  let who := whoOf w
  let d := w.desc
  let n2 := g.order * g.order
  let count := field (d.W 3) 16 32
  match root, stats with
  | some ro, some st =>
    ensure (decide (vaOf (d.W 2) = 0 ∧ ¬ d.ext ∧ g.log2 = 0 ∧ ro.1.elements = count * n2 ∧ st.1.elements = count * n2)) stBad 0x92
    let xs ← readBody who st.1
    let done := (runs n2 (xs.map toFp32)).map fun m => inverseRoot g (runs g.order m)
    let damped := (done.filter (·.2.1)).length
    let diag := (done.filter (·.2.2)).length
    let x ← writeHeaded who ro.1 ro.2 fp32 (done.map fun r => r.1.flatten).flatten
    noteWrite w x
    let s ← get
    let lanes := decide (Upset.update region ∈ s.upsets)
    if lanes then unitReplay w (.update region)
    let again ← commitFails w region
    replayEvent w region (if lanes || again then some 0 else none)
    let grp := field (d.W 3) 0 16
    let s ← get
    let va := updGrpVa s w.fn grp
    vwrite who (va + 96) (leBytes 4 t)
    addGroupField who va 108 2 damped
    addGroupField who va 110 2 diag
    vwrite who (va + 112) (leBytes 1 (bit (decide (0 < damped)) + 2 * bit (decide (0 < diag))))
    act fun s =>
      let s := addFld s (rid .rgnUpdCnt region) 0 32 count
      let s := if diag = 0 then s else setBit s (rid .rgnUpdStat region) 1 true
      if damped = 0 ∧ diag = 0 then s
      else emitRing s w.ring 0x0601 7 region (leBytes 2 grp ++ leBytes 4 damped ++ leBytes 4 diag)
    endOk w
  | _, _ => failWith stBad 0x92

/-! ## UPDATE_STEP -/

/-- The schedule values of a group. -/
def schedValues (w : Who) (g : UpdGrp) (t : Nat) : List Nat → Eng (List Nat)
  | [] => pure []
  | j :: js => do
    let v ← readSched w (g.sched j) t
    let rest ← schedValues w g t js
    pure (v :: rest)

/-- The element-rule form of UPDATE_STEP: its checks, and its first block read and started. -/
def ruleStart (w : Work) (region : Nat) (g : UpdGrp) (t : Nat) (o : RuleOps) : Eng Unit := do
  let d := w.desc
  let prog ← readRule (whoOf w) 32 (vaOf g.prog)
  ruleShape g o (field (d.W 3) 16 32)
  let sched ← schedValues (whoOf w) g t [0, 1, 2, 3]
  match o.g with
  | some gh =>
    let blocks := ceilDiv gh.1.elements (2 ^ g.log2)
    nextBlock w region (g.flagBit 0) g.log2 blocks
      { ring := w.ring, index := w.index, prog := prog, consts := (List.range 8).map g.k, sched := sched,
        bc1 := biasTerm (g.k 0) t, bc2 := biasTerm (g.k 1) t, t := t, blocks := blocks }
  | none => failWith stBad 0x92

/-- The work of an UPDATE_STEP: R130 first, then the header checks, then its group (R383). -/
def updateStep (w : Work) : Eng Unit := do
  let who := whoOf w
  let region := w.place.regionOf
  let raw ← rawUpdGrp who (field (w.desc.W 3) 0 16)
  raw.forM (groupFormats w.desc)
  let o ← ruleOps who w.desc
  raw.forM fun g => ensure (formatsFit g o) stBad 0x41
  let g ← readUpdGrp who (field (w.desc.W 3) 0 16)
  let t := updStepCount w.t g.stepBase
  if g.kind = 0 then ruleStart w region g t o else rootStep w region g t o.p o.m1

/-- UPDATE_STEP: the unit takes its oldest descriptor when it runs none (R393). -/
def execUpdateStep (ring index : Nat) (s : State) : Host.Outcome State Fault Refusal :=
  whenLive s fun s => match findWork s ring index with
    | none => s
    | some w =>
      let r := w.place.regionOf
      if (getRegion s r).rule.isSome ∨ (updWaiting s r).head? ≠ some w then s
      else runOp s .updateStep ring index updateStep

/-! ## Rule operations (Tables 10-3 and 10-4) -/

/-- The value of an operand (Table 10-3). -/
def RuleRun.operand (r : RuleRun) (n : Nat) : Nat :=
  if n < 16 then Tab.get 0 r.r n
  else if n < 24 then r.consts.getD (n - 16) 0
  else if n < 28 then r.sched.getD (n - 24) 0
  else if n = 28 then r.bc1
  else if n = 29 then r.bc2
  else if n = 30 then r.nb
  else fp32.round (.fin false r.t 0)

/-- The instruction next. -/
def RuleRun.current (r : RuleRun) : Nat := r.prog.getD r.pc 0x7F

/-- One operation of the rule that a region's unit runs, when it is the next one. -/
def ruleStep (s : State) (region op : Nat) (f : Work → RuleRun → Eng Unit) : State :=
  match (getRegion s region).rule with
  | none => s
  | some r =>
    match findWork s r.ring r.index with
    | none => s
    | some w => if field r.current 0 8 = op ∧ engineRuns s w = true then runPiece s w (f w r) else s

/-- An operation that leaves a value in register D: `f` takes the run and operands A, B and C. -/
def ruleValue (s : State) (region op : Nat) (f : RuleRun → Nat → Nat → Nat → Nat) : State :=
  ruleStep s region op fun _ r =>
    let i := r.current
    let v := f r (r.operand (field i 13 5)) (r.operand (field i 18 5)) (r.operand (field i 23 5))
    act fun s => updRegion s region fun k =>
      { k with rule := some { r with pc := r.pc + 1, r := Tab.ins r.r (field i 8 5) v } }

/-- R391 for an operation of one operand. -/
def rule1 (s : State) (region op : Nat) (f : Nat → Nat) : State := ruleValue s region op fun _ a _ _ => f a
/-- R391 for an operation of two operands. -/
def rule2 (s : State) (region op : Nat) (f : Nat → Nat → Nat) : State := ruleValue s region op fun _ a b _ => f a b
/-- R391 for an operation of three operands. -/
def rule3 (s : State) (region op : Nat) (f : Nat → Nat → Nat → Nat) : State := ruleValue s region op fun _ a b c => f a b c

/-- LERP: A × B + (1 − A) × C, exact, rounded once. -/
def lerp32 (a b c : Nat) : Nat :=
  let v := fp32.decode a
  fp32.round ((v.mul (fp32.decode b)).add (((Val.fin false 1 0).add v.neg).mul (fp32.decode c)))

/-- CLAMP: min(max(A, −B), B). -/
def clamp32 (a b : Nat) : Nat := fp32.minOf (fp32.maxOf a (fp32.negate b)) b

/-- CLIPB: A where NB ≤ B, else A × (B ÷ NB). -/
def clipb32 (nb a b : Nat) : Nat :=
  if (fp32.decode nb).le (fp32.decode b) then fp32.round (fp32.decode a) else fp32.mul a (fp32.div b nb)

/-- SEL: A where C is not 0, else B. -/
def select32 (a b c : Nat) : Nat := if fp32.isZero c then fp32.round (fp32.decode b) else fp32.round (fp32.decode a)

/-- CMPLT: 1.0 where A < B, else 0. -/
def cmplt32 (a b : Nat) : Nat := if (fp32.decode a).lt (fp32.decode b) then one32 else 0

/-- ADD. -/
def execRuleAdd (region : Nat) (s : State) : Host.Outcome State Fault Refusal :=
  whenLive s fun s => rule2 s region 0x01 fp32.add

/-- SUB. -/
def execRuleSub (region : Nat) (s : State) : Host.Outcome State Fault Refusal :=
  whenLive s fun s => rule2 s region 0x02 fp32.sub

/-- MUL. -/
def execRuleMul (region : Nat) (s : State) : Host.Outcome State Fault Refusal :=
  whenLive s fun s => rule2 s region 0x03 fp32.mul

/-- FMA. -/
def execRuleFma (region : Nat) (s : State) : Host.Outcome State Fault Refusal :=
  whenLive s fun s => rule3 s region 0x04 fp32.fma

/-- MIN. -/
def execRuleMin (region : Nat) (s : State) : Host.Outcome State Fault Refusal :=
  whenLive s fun s => rule2 s region 0x05 fp32.minOf

/-- MAX. -/
def execRuleMax (region : Nat) (s : State) : Host.Outcome State Fault Refusal :=
  whenLive s fun s => rule2 s region 0x06 fp32.maxOf

/-- SQRT. -/
def execRuleSqrt (region : Nat) (s : State) : Host.Outcome State Fault Refusal :=
  whenLive s fun s => rule1 s region 0x07 fp32.sqrt

/-- RCP. -/
def execRuleRcp (region : Nat) (s : State) : Host.Outcome State Fault Refusal :=
  whenLive s fun s => rule1 s region 0x08 fp32.rcp

/-- RSQRT. -/
def execRuleRsqrt (region : Nat) (s : State) : Host.Outcome State Fault Refusal :=
  whenLive s fun s => rule1 s region 0x09 fp32.rsqrt

/-- DIV. -/
def execRuleDiv (region : Nat) (s : State) : Host.Outcome State Fault Refusal :=
  whenLive s fun s => rule2 s region 0x0A fp32.div

/-- LERP. -/
def execRuleLerp (region : Nat) (s : State) : Host.Outcome State Fault Refusal :=
  whenLive s fun s => rule3 s region 0x0B lerp32

/-- CLAMP. -/
def execRuleClamp (region : Nat) (s : State) : Host.Outcome State Fault Refusal :=
  whenLive s fun s => rule2 s region 0x0C clamp32

/-- CLIPB. -/
def execRuleClipb (region : Nat) (s : State) : Host.Outcome State Fault Refusal :=
  whenLive s fun s => ruleValue s region 0x0D fun r a b _ => clipb32 r.nb a b

/-- SEL. -/
def execRuleSel (region : Nat) (s : State) : Host.Outcome State Fault Refusal :=
  whenLive s fun s => rule3 s region 0x0E select32

/-- CMPLT. -/
def execRuleCmplt (region : Nat) (s : State) : Host.Outcome State Fault Refusal :=
  whenLive s fun s => rule2 s region 0x0F cmplt32

/-- END of an element: its results taken, and the next element; behind a block's last element the block commits, and the next
block or the end of the descriptor follows (R389, R392). A block whose lanes fail their residue check runs again on the operands
held (R398). -/
def ruleEnd (region : Nat) (w : Work) (r : RuleRun) : Eng Unit := do
  let r := { r with results := r.results ++ [(r.operand 1, r.operand 2, r.operand 3)] }
  if r.elem + 1 < r.grad.length then
    act fun s => updRegion s region fun k => { k with rule := some (RuleRun.load { r with elem := r.elem + 1 }) }
  else if Upset.update region ∈ (← get).upsets then
    unitReplay w (.update region)
    let first := match r.replayed with | some b => some b | none => some r.block
    act fun s => updRegion s region fun k => { k with rule := some (RuleRun.startBlock { r with replayed := first }) }
  else
    let g ← readUpdGrp (whoOf w) (field (w.desc.W 3) 0 16)
    let c ← commitBlock w region g r
    nextBlock w region (g.flagBit 0) g.log2 (r.blocks - (r.block + 1)) c

/-- END. -/
def execRuleEnd (region : Nat) (s : State) : Host.Outcome State Fault Refusal :=
  whenLive s fun s => ruleStep s region 0x7F (ruleEnd region)

end Sys2Proof.Machine
end

