-- ==== Sys2Proof/Machine/Dispatch.lean ====
section
/-! DEFINITION. The dispatch: one arm for each command, each a direct call of its meaning. -/

namespace Sys2Proof.Machine

/-- The effect of a command on everything but the queue. -/
def exec (i : Instr) (s : State) : Host.Outcome State Fault Refusal :=
  match i with
  | .perstAssert => Sys2Proof.Machine.execPerstAssert s
  | .perstRelease straps nonce => Sys2Proof.Machine.execPerstRelease straps nonce s
  | .stage0Complete => Sys2Proof.Machine.execStage0Complete s
  | .startGo fn => Sys2Proof.Machine.execStartGo fn s
  | .stage1Complete fuseOk flashOk => Sys2Proof.Machine.execStage1Complete fuseOk flashOk s
  | .stackTrainingDone stack pass => Sys2Proof.Machine.execStackTrainingDone stack pass s
  | .stage2Complete => Sys2Proof.Machine.execStage2Complete s
  | .stage3Complete tests imageOk => Sys2Proof.Machine.execStage3Complete tests imageOk s
  | .firmwareBroadcastDone resent failed => Sys2Proof.Machine.execFirmwareBroadcastDone resent failed s
  | .stage4Complete results => Sys2Proof.Machine.execStage4Complete results s
  | .hotReset => Sys2Proof.Machine.execHotReset s
  | .pfFunctionLevelReset => Sys2Proof.Machine.execPfFunctionLevelReset s
  | .vfFunctionLevelReset v => Sys2Proof.Machine.execVfFunctionLevelReset v s
  | .vfEnableSet numVfs => Sys2Proof.Machine.execVfEnableSet numVfs s
  | .registerWrite fn reg value => Sys2Proof.Machine.execRegisterWrite fn reg value s
  | .rcRegisterRead fn reg => Sys2Proof.Machine.execRcRegisterRead fn reg s
  | .reg64LowRead fn reg => Sys2Proof.Machine.execReg64LowRead fn reg s
  | .unsupportedAccessWidth fn offset length write window => Sys2Proof.Machine.execUnsupportedAccessWidth fn offset length write window s
  | .unmappedAccess fn offset write transom => Sys2Proof.Machine.execUnmappedAccess fn offset write transom s
  | .gatedAccess fn offset write entryType entryInst => Sys2Proof.Machine.execGatedAccess fn offset write entryType entryInst s
  | .bar4Access fn addr access => Sys2Proof.Machine.execBar4Access fn addr access s
  | .clockEnableSet index => Sys2Proof.Machine.execClockEnableSet index s
  | .clockEnableClear index => Sys2Proof.Machine.execClockEnableClear index s
  | .clockStopped index => Sys2Proof.Machine.execClockStopped index s
  | .mmuRootWrite space high value => Sys2Proof.Machine.execMmuRootWrite space high value s
  | .mmuInvalidate value => Sys2Proof.Machine.execMmuInvalidate value s
  | .mmuInvalidationComplete => Sys2Proof.Machine.execMmuInvalidationComplete s
  | .atsInvalidationRequest fn addr => Sys2Proof.Machine.execAtsInvalidationRequest fn addr s
  | .vfRingRangeWrite v value => Sys2Proof.Machine.execVfRingRangeWrite v value s
  | .ringGroupConfigWrite fn group value => Sys2Proof.Machine.execRingGroupConfigWrite fn group value s
  | .ringLoad fn ring context => Sys2Proof.Machine.execRingLoad fn ring context s
  | .ringStop fn ring => Sys2Proof.Machine.execRingStop fn ring s
  | .ringAbort fn ring => Sys2Proof.Machine.execRingAbort fn ring s
  | .ringResume fn ring => Sys2Proof.Machine.execRingResume fn ring s
  | .ringQuery fn ring => Sys2Proof.Machine.execRingQuery fn ring s
  | .ringDrained ring => Sys2Proof.Machine.execRingDrained ring s
  | .doorbell fn offset length value => Sys2Proof.Machine.execDoorbell fn offset length value s
  | .shadowTailReadDone ring tail => Sys2Proof.Machine.execShadowTailReadDone ring tail s
  | .descriptorFetchDone ring slot => Sys2Proof.Machine.execDescriptorFetchDone ring slot s
  | .ringPollTimer ring => Sys2Proof.Machine.execRingPollTimer ring s
  | .consumerIndexReread ring index => Sys2Proof.Machine.execConsumerIndexReread ring index s
  | .completionRingStall ring => Sys2Proof.Machine.execCompletionRingStall ring s
  | .descriptorDispatch => Sys2Proof.Machine.execDescriptorDispatch s
  | .dependencyMet ring index => Sys2Proof.Machine.execDependencyMet ring index s
  | .fenceRelease ring => Sys2Proof.Machine.execFenceRelease ring s
  | .descriptorComplete ring index => Sys2Proof.Machine.execDescriptorComplete ring index s
  | .interruptModerationTimer ring => Sys2Proof.Machine.execInterruptModerationTimer ring s
  | .eventRateWindowEnd ring srcType srcInst => Sys2Proof.Machine.execEventRateWindowEnd ring srcType srcInst s
  | .nop ring index => Sys2Proof.Machine.execNop ring index s
  | .ctrWrite ring index => Sys2Proof.Machine.execCtrWrite ring index s
  | .eventMark ring index => Sys2Proof.Machine.execEventMark ring index s
  | .ringKick ring index => Sys2Proof.Machine.execRingKick ring index s
  | .leafProgram ring index => Sys2Proof.Machine.execLeafProgram ring index s
  | .leafReadback ring index reads => Sys2Proof.Machine.execLeafReadback ring index reads s
  | .tileEvaluate ring index => Sys2Proof.Machine.execTileEvaluate ring index s
  | .dmuProduct ring index => Sys2Proof.Machine.execDmuProduct ring index s
  | .dmuPair ring index => Sys2Proof.Machine.execDmuPair ring index s
  | .vectorProgram ring index => Sys2Proof.Machine.execVectorProgram ring index s
  | .memCopy ring index => Sys2Proof.Machine.execMemCopy ring index s
  | .memAtomic ring index => Sys2Proof.Machine.execMemAtomic ring index s
  | .collectiveStep ring index => Sys2Proof.Machine.execCollectiveStep ring index s
  | .updateStep ring index => Sys2Proof.Machine.execUpdateStep ring index s
  | .snapshot ring index => Sys2Proof.Machine.execSnapshot ring index s
  | .snapshotRestore ring index => Sys2Proof.Machine.execSnapshotRestore ring index s
  | .zeroStreakClear fn => Sys2Proof.Machine.execZeroStreakClear fn s
  | .zeroStreakLimitWrite fn limit => Sys2Proof.Machine.execZeroStreakLimitWrite fn limit s
  | .oasisConfigWrite reg value => Sys2Proof.Machine.execOasisConfigWrite reg value s
  | .arrayPeriod cell codes => Sys2Proof.Machine.execArrayPeriod cell codes s
  | .fallbackProductStart block => Sys2Proof.Machine.execFallbackProductStart block s
  | .suspectColumnCheck cell sums => Sys2Proof.Machine.execSuspectColumnCheck cell sums s
  | .cloneReady cell check => Sys2Proof.Machine.execCloneReady cell check s
  | .junctionSample block t16 => Sys2Proof.Machine.execJunctionSample block t16 s
  | .converterCalibrationSlot cell measured => Sys2Proof.Machine.execConverterCalibrationSlot cell measured s
  | .fullCalibrationStart fn cell => Sys2Proof.Machine.execFullCalibrationStart fn cell s
  | .fullCalibrationEnd cell result => Sys2Proof.Machine.execFullCalibrationEnd cell result s
  | .calibrationDue cell => Sys2Proof.Machine.execCalibrationDue cell s
  | .scoreboardParityError block => Sys2Proof.Machine.execScoreboardParityError block s
  | .scoreboardRebuildDone block => Sys2Proof.Machine.execScoreboardRebuildDone block s
  | .blockIssue block => Sys2Proof.Machine.execBlockIssue block s
  | .slewCreditStart ring index => Sys2Proof.Machine.execSlewCreditStart ring index s
  | .vecLd block => Sys2Proof.Machine.execVecLd block s
  | .vecSt block => Sys2Proof.Machine.execVecSt block s
  | .vecAdd block => Sys2Proof.Machine.execVecAdd block s
  | .vecMul block => Sys2Proof.Machine.execVecMul block s
  | .vecFma block => Sys2Proof.Machine.execVecFma block s
  | .vecMin block => Sys2Proof.Machine.execVecMin block s
  | .vecMax block => Sys2Proof.Machine.execVecMax block s
  | .vecSel block => Sys2Proof.Machine.execVecSel block s
  | .vecCmplt block => Sys2Proof.Machine.execVecCmplt block s
  | .vecSplat block => Sys2Proof.Machine.execVecSplat block s
  | .vecRcp block => Sys2Proof.Machine.execVecRcp block s
  | .vecRsqrt block => Sys2Proof.Machine.execVecRsqrt block s
  | .vecExp2 block => Sys2Proof.Machine.execVecExp2 block s
  | .vecLog2 block => Sys2Proof.Machine.execVecLog2 block s
  | .vecSum block => Sys2Proof.Machine.execVecSum block s
  | .vecMaxr block => Sys2Proof.Machine.execVecMaxr block s
  | .vecSadd block => Sys2Proof.Machine.execVecSadd block s
  | .vecBrnz block => Sys2Proof.Machine.execVecBrnz block s
  | .vecBr block => Sys2Proof.Machine.execVecBr block s
  | .cpop block => Sys2Proof.Machine.execCpop block s
  | .vecEnd block => Sys2Proof.Machine.execVecEnd block s
  | .ruleAdd region => Sys2Proof.Machine.execRuleAdd region s
  | .ruleSub region => Sys2Proof.Machine.execRuleSub region s
  | .ruleMul region => Sys2Proof.Machine.execRuleMul region s
  | .ruleFma region => Sys2Proof.Machine.execRuleFma region s
  | .ruleMin region => Sys2Proof.Machine.execRuleMin region s
  | .ruleMax region => Sys2Proof.Machine.execRuleMax region s
  | .ruleSqrt region => Sys2Proof.Machine.execRuleSqrt region s
  | .ruleRcp region => Sys2Proof.Machine.execRuleRcp region s
  | .ruleRsqrt region => Sys2Proof.Machine.execRuleRsqrt region s
  | .ruleDiv region => Sys2Proof.Machine.execRuleDiv region s
  | .ruleLerp region => Sys2Proof.Machine.execRuleLerp region s
  | .ruleClamp region => Sys2Proof.Machine.execRuleClamp region s
  | .ruleClipb region => Sys2Proof.Machine.execRuleClipb region s
  | .ruleSel region => Sys2Proof.Machine.execRuleSel region s
  | .ruleCmplt region => Sys2Proof.Machine.execRuleCmplt region s
  | .ruleEnd region => Sys2Proof.Machine.execRuleEnd region s
  | .residencyWindowWrite fn block window value => Sys2Proof.Machine.execResidencyWindowWrite fn block window value s
  | .residencyFlushDone block window => Sys2Proof.Machine.execResidencyFlushDone block window s
  | .residencyPageFill block window page => Sys2Proof.Machine.execResidencyPageFill block window page s
  | .caravan packet => Sys2Proof.Machine.execCaravan packet s
  | .caravanRefill block slot => Sys2Proof.Machine.execCaravanRefill block slot s
  | .caravanHold packet => Sys2Proof.Machine.execCaravanHold packet s
  | .caravanResume packet => Sys2Proof.Machine.execCaravanResume packet s
  | .caravanStored packet => Sys2Proof.Machine.execCaravanStored packet s
  | .caravanConfigWrite fn block slot value => Sys2Proof.Machine.execCaravanConfigWrite fn block slot value s
  | .mapLocalWrite high value => Sys2Proof.Machine.execMapLocalWrite high value s
  | .mapChangeDone => Sys2Proof.Machine.execMapChangeDone s
  | .cacheSliceError stack granule sectors tagError => Sys2Proof.Machine.execCacheSliceError stack granule sectors tagError s
  | .patrolScrub stack sector badBytes => Sys2Proof.Machine.execPatrolScrub stack sector badBytes s
  | .stackTemperatureSample stack celsius => Sys2Proof.Machine.execStackTemperatureSample stack celsius s
  | .stackLost stack => Sys2Proof.Machine.execStackLost stack s
  | .marginScanStart stack value => Sys2Proof.Machine.execMarginScanStart stack value s
  | .marginPoint stack pass => Sys2Proof.Machine.execMarginPoint stack pass s
  | .memTestStart stack value => Sys2Proof.Machine.execMemTestStart stack value s
  | .memTestDone test => Sys2Proof.Machine.execMemTestDone test s
  | .portTraining port cause => Sys2Proof.Machine.execPortTraining port cause s
  | .portUp port training => Sys2Proof.Machine.execPortUp port training s
  | .portTrainingTimeout port step goodLanes => Sys2Proof.Machine.execPortTrainingTimeout port step goodLanes s
  | .signalDetect port lanes => Sys2Proof.Machine.execSignalDetect port lanes s
  | .retrain port => Sys2Proof.Machine.execRetrain port s
  | .disable port disable => Sys2Proof.Machine.execDisable port disable s
  | .laneFail port lane => Sys2Proof.Machine.execLaneFail port lane s
  | .linkLoss port retryLimit => Sys2Proof.Machine.execLinkLoss port retryLimit s
  | .flitReceive port flit => Sys2Proof.Machine.execFlitReceive port flit s
  | .nak port seq => Sys2Proof.Machine.execNak port seq s
  | .nakRepeatTimer port => Sys2Proof.Machine.execNakRepeatTimer port s
  | .ackTimer port => Sys2Proof.Machine.execAckTimer port s
  | .resendTimeout port => Sys2Proof.Machine.execResendTimeout port s
  | .packetRoute packet arrived => Sys2Proof.Machine.execPacketRoute packet arrived s
  | .remoteDescriptor packet => Sys2Proof.Machine.execRemoteDescriptor packet s
  | .remoteCompletion packet => Sys2Proof.Machine.execRemoteCompletion packet s
  | .memoryReadRequest packet => Sys2Proof.Machine.execMemoryReadRequest packet s
  | .memoryData packet => Sys2Proof.Machine.execMemoryData packet s
  | .routeTableWrite value => Sys2Proof.Machine.execRouteTableWrite value s
  | .nodeIdWrite value => Sys2Proof.Machine.execNodeIdWrite value s
  | .adoptWrite value => Sys2Proof.Machine.execAdoptWrite value s
  | .adoptionNotice port node epoch => Sys2Proof.Machine.execAdoptionNotice port node epoch s
  | .slowPeerNotice packet => Sys2Proof.Machine.execSlowPeerNotice packet s
  | .unreachableNotice txn => Sys2Proof.Machine.execUnreachableNotice txn s
  | .fabricRecordTimeout txn => Sys2Proof.Machine.execFabricRecordTimeout txn s
  | .peerAlarm packet => Sys2Proof.Machine.execPeerAlarm packet s
  | .collectiveChunk packet => Sys2Proof.Machine.execCollectiveChunk packet s
  | .withdraw packet => Sys2Proof.Machine.execWithdraw packet s
  | .bucketWatchdog fn group bucket => Sys2Proof.Machine.execBucketWatchdog fn group bucket s
  | .collectiveConfigWrite fn reg value => Sys2Proof.Machine.execCollectiveConfigWrite fn reg value s
  | .alarmClear word value => Sys2Proof.Machine.execAlarmClear word value s
  | .alarmMaskWrite word value => Sys2Proof.Machine.execAlarmMaskWrite word value s
  | .msixVectorUnmask fn vector => Sys2Proof.Machine.execMsixVectorUnmask fn vector s
  | .regionReset region cause => Sys2Proof.Machine.execRegionReset region cause s
  | .regionResetComplete region checkOk => Sys2Proof.Machine.execRegionResetComplete region checkOk s
  | .leafRestoreDone cell leaf check => Sys2Proof.Machine.execLeafRestoreDone cell leaf check s
  | .logRedispatch fn => Sys2Proof.Machine.execLogRedispatch fn s
  | .recordWaitTimeout region => Sys2Proof.Machine.execRecordWaitTimeout region s
  | .recordStoreError region => Sys2Proof.Machine.execRecordStoreError region s
  | .failStop => Sys2Proof.Machine.execFailStop s
  | .maintAcquire activity target holder => Sys2Proof.Machine.execMaintAcquire activity target holder s
  | .maintRelease slot holder => Sys2Proof.Machine.execMaintRelease slot holder s
  | .maintLeaseExpiry slot => Sys2Proof.Machine.execMaintLeaseExpiry slot s
  | .stepRecordConfigWrite fn reg value => Sys2Proof.Machine.execStepRecordConfigWrite fn reg value s
  | .vrAlertFall => Sys2Proof.Machine.execVrAlertFall s
  | .vrAlertRise => Sys2Proof.Machine.execVrAlertRise s
  | .stretchRampStep => Sys2Proof.Machine.execStretchRampStep s
  | .avsUpdate targetA targetB ackA ackB => Sys2Proof.Machine.execAvsUpdate targetA targetB ackA ackB s
  | .avsRetry railB acked => Sys2Proof.Machine.execAvsRetry railB acked s
  | .pmbusPoll rail status => Sys2Proof.Machine.execPmbusPoll rail status s
  | .inputSag code => Sys2Proof.Machine.execInputSag code s
  | .issueHoldSettled => Sys2Proof.Machine.execIssueHoldSettled s
  | .sagRecovery code => Sys2Proof.Machine.execSagRecovery code s
  | .inputSurge code => Sys2Proof.Machine.execInputSurge code s
  | .governorEvaluate hottest mean100 mean1 => Sys2Proof.Machine.execGovernorEvaluate hottest mean100 mean1 s
  | .opticalEngineTemperature port celsius => Sys2Proof.Machine.execOpticalEngineTemperature port celsius s
  | .thermtrip => Sys2Proof.Machine.execThermtrip s
  | .pllLossOfLock pll => Sys2Proof.Machine.execPllLossOfLock pll s
  | .pllRelocked pll => Sys2Proof.Machine.execPllRelocked pll s
  | .pllRelockTimeout pll => Sys2Proof.Machine.execPllRelockTimeout pll s
  | .sscApply network => Sys2Proof.Machine.execSscApply network s
  | .railUndervoltage rail => Sys2Proof.Machine.execRailUndervoltage rail s
  | .tadcTimerTrigger conv => Sys2Proof.Machine.execTadcTimerTrigger conv s
  | .tadcSyncTrigger conv rising => Sys2Proof.Machine.execTadcSyncTrigger conv rising s
  | .tadcPassStart conv => Sys2Proof.Machine.execTadcPassStart conv s
  | .tadcConversionDone conv value => Sys2Proof.Machine.execTadcConversionDone conv value s
  | .tadcSyncLost conv => Sys2Proof.Machine.execTadcSyncLost conv s
  | .tadcUrgentRequest value => Sys2Proof.Machine.execTadcUrgentRequest value s
  | .tadcBackgroundCalibration conv offsetOk gainOk => Sys2Proof.Machine.execTadcBackgroundCalibration conv offsetOk gainOk s
  | .selfCalibrationStart => Sys2Proof.Machine.execSelfCalibrationStart s
  | .selfCalibrationEnd rext tref0 tref1 offsets gains => Sys2Proof.Machine.execSelfCalibrationEnd rext tref0 tref1 offsets gains s
  | .stage image => Sys2Proof.Machine.execStage image s
  | .stageDone flashOk => Sys2Proof.Machine.execStageDone flashOk s
  | .activate hubDigestOk => Sys2Proof.Machine.execActivate hubDigestOk s
  | .commit readsBack => Sys2Proof.Machine.execCommit readsBack s
  | .revoke readsBack => Sys2Proof.Machine.execRevoke readsBack s
  | .unlock token nonce => Sys2Proof.Machine.execUnlock token nonce s
  | .lock readsBack => Sys2Proof.Machine.execLock readsBack s
  | .retire readsBack => Sys2Proof.Machine.execRetire readsBack s
  | .getVersion path => Sys2Proof.Machine.execGetVersion path s
  | .getCapabilities path => Sys2Proof.Machine.execGetCapabilities path s
  | .negotiateAlgorithms path => Sys2Proof.Machine.execNegotiateAlgorithms path s
  | .getDigests path => Sys2Proof.Machine.execGetDigests path s
  | .getCertificate path slot offset length => Sys2Proof.Machine.execGetCertificate path slot offset length s
  | .challenge path slot nonce => Sys2Proof.Machine.execChallenge path slot nonce s
  | .getMeasurements path operation nonce => Sys2Proof.Machine.execGetMeasurements path operation nonce s
  | .spdmUnsupportedRequest path code => Sys2Proof.Machine.execSpdmUnsupportedRequest path code s
  | .tapReset => Sys2Proof.Machine.execTapReset s
  | .jtagInstruction op => Sys2Proof.Machine.execJtagInstruction op s
  | .activationComplete failed => Sys2Proof.Machine.execActivationComplete failed s
  | .lossOfPower => Sys2Proof.Machine.execLossOfPower s
  | .laserFeedLow port feed power => Sys2Proof.Machine.execLaserFeedLow port feed power s
  | .hubFault => Sys2Proof.Machine.execHubFault s
  | .vfEnableClear => Sys2Proof.Machine.execVfEnableClear s
  | .alarmPacketWindowEnd cls port => Sys2Proof.Machine.execAlarmPacketWindowEnd cls port s
  | .unreachableResendDelay txn => Sys2Proof.Machine.execUnreachableResendDelay txn s

end Sys2Proof.Machine
end

