-- ==== Sys2Proof/Machine/Step.lean ====
section
/-! DEFINITION. One step: the command at the front of the queue runs; with an empty queue one management-clock cycle
passes. -/

namespace Sys2Proof.Machine

/-- The state with its front command taken and `rest` left in the queue. -/
def State.withPending (s : State) (rest : List Instr) : State := { s with pending := rest }

/-- One step: the front command is executed with the queue's rest; an empty queue lets one management-clock cycle pass
(DESIGN CHOICE, log entry 2). -/
def step (s : State) : Host.Outcome State Fault Refusal :=
  match s.pending with
  | [] => .next (tick s)
  | c :: rest => exec c (s.withPending rest)

/-- `s` with the command that a word spells put at the front of its queue; a word that spells none leaves `s`. -/
def State.withFetchWord (s : State) (nbits w : Nat) : State :=
  match decodeTableWord nbits w with
  | some c => { s with pending := c :: s.pending }
  | none => s

end Sys2Proof.Machine
end

