-- ==== Sys2Proof/Safety.lean ====
section
/-! DEFINITION. What a safe run is for this device: the steps never stop, and the memories keep their canonical form. -/

namespace Sys2Proof

open Machine

/-- Device memory and the host's memory list their bytes in the one canonical form. -/
def Safe (s : State) : Prop :=
  Tab.wf 0#8 s.mem = true ∧ Tab.wf 0#8 s.hostMem = true

/-- A step that answers a next state. -/
def Runs (s : State) : Prop := ∃ t, step s = .next t

end Sys2Proof
end

