-- ==== Sys2Proof/WellFormed.lean ====
section
/-! DEFINITION. When a command is well formed: every index lies within what the device has. -/

namespace Sys2Proof

open Machine

/-- Whether a command names only things the device has. -/
def Instr.wf : Instr → Bool
  | .perstAssert => true
  | .perstRelease _ _ => true
  | .stage0Complete => true
  | .startGo fn => decide (fn < 17)
  | .stage1Complete _ _ => true
  | .stackTrainingDone stack _ => decide (stack < 16)
  | .stage2Complete => true
  | .stage3Complete tests _ => decide (tests.all (fun t => decide (t.stack < 16)) = true)
  | .firmwareBroadcastDone _ _ => true
  | .stage4Complete _ => true
  | .hotReset => true
  | .pfFunctionLevelReset => true
  | .vfFunctionLevelReset v => decide (v < 17 ∧ 1 ≤ v)
  | .vfEnableSet numVfs => decide (numVfs < 17)
  | .registerWrite fn reg _ => decide (fn < 17 ∧ regExists reg = true)
  | .rcRegisterRead fn reg => decide (fn < 17 ∧ regExists reg = true)
  | .reg64LowRead fn reg => decide (fn < 17 ∧ regExists reg = true ∧ (highHalf reg).isSome = true)
  | .unsupportedAccessWidth fn offset _ _ _ => decide (fn < 17 ∧ offset < 2 ^ 40)
  | .unmappedAccess fn offset _ _ => decide (fn < 17 ∧ offset < 2 ^ 40)
  | .gatedAccess fn offset _ entryType _ => decide (fn < 17 ∧ offset < 2 ^ 40 ∧ entryType ≤ 14)
  | .bar4Access fn addr _ => decide (fn < 17 ∧ addr < 2 ^ 64)
  | .clockEnableSet index => decide (index < 256)
  | .clockEnableClear index => decide (index < 256)
  | .clockStopped index => decide (index < 256)
  | .mmuRootWrite space _ _ => decide (space < 17)
  | .mmuInvalidate _ => true
  | .mmuInvalidationComplete => true
  | .atsInvalidationRequest fn addr => decide (fn < 17 ∧ addr < 2 ^ 64)
  | .vfRingRangeWrite v _ => decide (v < 17 ∧ 1 ≤ v)
  | .ringGroupConfigWrite fn group _ => decide (fn < 17 ∧ group < 64)
  | .ringLoad fn ring context => decide (fn < 17 ∧ ring < 65536 ∧ context.length = 64)
  | .ringStop fn ring => decide (fn < 17 ∧ ring < 65536)
  | .ringAbort fn ring => decide (fn < 17 ∧ ring < 65536)
  | .ringResume fn ring => decide (fn < 17 ∧ ring < 65536)
  | .ringQuery fn ring => decide (fn < 17 ∧ ring < 65536)
  | .ringDrained ring => decide (ring < 65536)
  | .doorbell fn offset _ _ => decide (fn < 17 ∧ offset < 2 ^ 40)
  | .shadowTailReadDone ring _ => decide (ring < 65536)
  | .descriptorFetchDone ring slot => decide (ring < 65536 ∧ (slot.map (fun b => b.length)).getD 64 = 64)
  | .ringPollTimer ring => decide (ring < 65536)
  | .consumerIndexReread ring _ => decide (ring < 65536)
  | .completionRingStall ring => decide (ring < 65536)
  | .descriptorDispatch => true
  | .dependencyMet ring index => decide (ring < 65536 ∧ index < 4294967296)
  | .fenceRelease ring => decide (ring < 65536)
  | .descriptorComplete ring index => decide (ring < 65536 ∧ index < 4294967296)
  | .interruptModerationTimer ring => decide (ring < 65536)
  | .eventRateWindowEnd ring _ _ => decide (ring < 65536)
  | .nop ring index => decide (ring < 65536 ∧ index < 4294967296)
  | .ctrWrite ring index => decide (ring < 65536 ∧ index < 4294967296)
  | .eventMark ring index => decide (ring < 65536 ∧ index < 4294967296)
  | .ringKick ring index => decide (ring < 65536 ∧ index < 4294967296)
  | .leafProgram ring index => decide (ring < 65536 ∧ index < 4294967296)
  | .leafReadback ring index _ => decide (ring < 65536 ∧ index < 4294967296)
  | .tileEvaluate ring index => decide (ring < 65536 ∧ index < 4294967296)
  | .dmuProduct ring index => decide (ring < 65536 ∧ index < 4294967296)
  | .dmuPair ring index => decide (ring < 65536 ∧ index < 4294967296)
  | .vectorProgram ring index => decide (ring < 65536 ∧ index < 4294967296)
  | .memCopy ring index => decide (ring < 65536 ∧ index < 4294967296)
  | .memAtomic ring index => decide (ring < 65536 ∧ index < 4294967296)
  | .collectiveStep ring index => decide (ring < 65536 ∧ index < 4294967296)
  | .updateStep ring index => decide (ring < 65536 ∧ index < 4294967296)
  | .snapshot ring index => decide (ring < 65536 ∧ index < 4294967296)
  | .snapshotRestore ring index => decide (ring < 65536 ∧ index < 4294967296)
  | .zeroStreakClear fn => decide (fn < 17)
  | .zeroStreakLimitWrite fn limit => decide (fn < 17 ∧ limit < 8192)
  | .oasisConfigWrite _ _ => true
  | .arrayPeriod cell _ => decide (cell < 1024)
  | .fallbackProductStart block => decide (block < 128)
  | .suspectColumnCheck cell _ => decide (cell < 1024)
  | .cloneReady cell _ => decide (cell < 1024)
  | .junctionSample block _ => decide (block < 128)
  | .converterCalibrationSlot cell _ => decide (cell < 1024)
  | .fullCalibrationStart fn cell => decide (fn < 17 ∧ cell < 1024)
  | .fullCalibrationEnd cell _ => decide (cell < 1024)
  | .calibrationDue cell => decide (cell < 1024)
  | .scoreboardParityError block => decide (block < 128)
  | .scoreboardRebuildDone block => decide (block < 128)
  | .blockIssue block => decide (block < 128)
  | .slewCreditStart ring index => decide (ring < 65536 ∧ index < 4294967296)
  | .vecLd block => decide (block < 128)
  | .vecSt block => decide (block < 128)
  | .vecAdd block => decide (block < 128)
  | .vecMul block => decide (block < 128)
  | .vecFma block => decide (block < 128)
  | .vecMin block => decide (block < 128)
  | .vecMax block => decide (block < 128)
  | .vecSel block => decide (block < 128)
  | .vecCmplt block => decide (block < 128)
  | .vecSplat block => decide (block < 128)
  | .vecRcp block => decide (block < 128)
  | .vecRsqrt block => decide (block < 128)
  | .vecExp2 block => decide (block < 128)
  | .vecLog2 block => decide (block < 128)
  | .vecSum block => decide (block < 128)
  | .vecMaxr block => decide (block < 128)
  | .vecSadd block => decide (block < 128)
  | .vecBrnz block => decide (block < 128)
  | .vecBr block => decide (block < 128)
  | .cpop block => decide (block < 128)
  | .vecEnd block => decide (block < 128)
  | .ruleAdd region => decide (region < 16)
  | .ruleSub region => decide (region < 16)
  | .ruleMul region => decide (region < 16)
  | .ruleFma region => decide (region < 16)
  | .ruleMin region => decide (region < 16)
  | .ruleMax region => decide (region < 16)
  | .ruleSqrt region => decide (region < 16)
  | .ruleRcp region => decide (region < 16)
  | .ruleRsqrt region => decide (region < 16)
  | .ruleDiv region => decide (region < 16)
  | .ruleLerp region => decide (region < 16)
  | .ruleClamp region => decide (region < 16)
  | .ruleClipb region => decide (region < 16)
  | .ruleSel region => decide (region < 16)
  | .ruleCmplt region => decide (region < 16)
  | .ruleEnd region => decide (region < 16)
  | .residencyWindowWrite fn block window _ => decide (fn < 17 ∧ block < 128 ∧ window < 8)
  | .residencyFlushDone block window => decide (block < 128 ∧ window < 8)
  | .residencyPageFill block window page => decide (block < 128 ∧ window < 8 ∧ page < 2048)
  | .caravan _ => true
  | .caravanRefill block slot => decide (block < 128 ∧ slot < 4)
  | .caravanHold _ => true
  | .caravanResume _ => true
  | .caravanStored _ => true
  | .caravanConfigWrite fn block slot _ => decide (fn < 17 ∧ block < 128 ∧ slot < 4)
  | .mapLocalWrite _ _ => true
  | .mapChangeDone => true
  | .cacheSliceError stack granule sectors _ => decide (stack < 16 ∧ sectors.all (fun k => decide (k < 8)) = true ∧ granule < 2 ^ 28)
  | .patrolScrub stack sector badBytes => decide (stack < 16 ∧ sector < 2 ^ 31 ∧ badBytes ≤ 36)
  | .stackTemperatureSample stack celsius => decide (stack < 16 ∧ celsius < 256)
  | .stackLost stack => decide (stack < 16)
  | .marginScanStart stack _ => decide (stack < 16)
  | .marginPoint stack _ => decide (stack < 16)
  | .memTestStart stack _ => decide (stack < 16)
  | .memTestDone test => decide (test.stack < 16)
  | .portTraining port _ => decide (port < 8)
  | .portUp port _ => decide (port < 8)
  | .portTrainingTimeout port _ _ => decide (port < 8)
  | .signalDetect port _ => decide (port < 8)
  | .retrain port => decide (port < 8)
  | .disable port _ => decide (port < 8)
  | .laneFail port lane => decide (port < 8 ∧ lane < 18)
  | .linkLoss port _ => decide (port < 8)
  | .flitReceive port flit => decide (port < 8 ∧ flit.length = 256)
  | .nak port seq => decide (port < 8 ∧ seq < 4096)
  | .nakRepeatTimer port => decide (port < 8)
  | .ackTimer port => decide (port < 8)
  | .resendTimeout port => decide (port < 8)
  | .packetRoute _ _ => true
  | .remoteDescriptor _ => true
  | .remoteCompletion _ => true
  | .memoryReadRequest _ => true
  | .memoryData _ => true
  | .routeTableWrite _ => true
  | .nodeIdWrite _ => true
  | .adoptWrite _ => true
  | .adoptionNotice port node epoch => decide (port < 8 ∧ node < 65536 ∧ epoch < 65536)
  | .slowPeerNotice _ => true
  | .unreachableNotice txn => decide (txn < 1048576)
  | .fabricRecordTimeout txn => decide (txn < 1048576)
  | .peerAlarm _ => true
  | .collectiveChunk _ => true
  | .withdraw _ => true
  | .bucketWatchdog fn group _ => decide (fn < 17 ∧ group < 4096)
  | .collectiveConfigWrite fn _ _ => decide (fn < 17)
  | .alarmClear word _ => decide (word < 2)
  | .alarmMaskWrite word _ => decide (word < 2)
  | .msixVectorUnmask fn vector => decide (fn < 17 ∧ vector < 2048)
  | .regionReset region _ => decide (region < 16)
  | .regionResetComplete region _ => decide (region < 16)
  | .leafRestoreDone cell _ _ => decide (cell < 1024)
  | .logRedispatch fn => decide (fn < 17)
  | .recordWaitTimeout region => decide (region < 16)
  | .recordStoreError region => decide (region < 16)
  | .failStop => true
  | .maintAcquire activity target _ => decide (activity < 8 ∧ target < 65536)
  | .maintRelease slot _ => decide (slot < 8)
  | .maintLeaseExpiry slot => decide (slot < 8)
  | .stepRecordConfigWrite fn _ _ => decide (fn < 17)
  | .vrAlertFall => true
  | .vrAlertRise => true
  | .stretchRampStep => true
  | .avsUpdate _ _ _ _ => true
  | .avsRetry _ _ => true
  | .pmbusPoll rail _ => decide (rail < 12)
  | .inputSag _ => true
  | .issueHoldSettled => true
  | .sagRecovery _ => true
  | .inputSurge _ => true
  | .governorEvaluate _ _ _ => true
  | .opticalEngineTemperature port celsius => decide (port < 8 ∧ celsius < 256)
  | .thermtrip => true
  | .pllLossOfLock _ => true
  | .pllRelocked _ => true
  | .pllRelockTimeout _ => true
  | .sscApply _ => true
  | .railUndervoltage rail => decide (rail < 12)
  | .tadcTimerTrigger conv => decide (conv < 5)
  | .tadcSyncTrigger conv _ => decide (conv < 5)
  | .tadcPassStart conv => decide (conv < 5)
  | .tadcConversionDone conv _ => decide (conv < 5)
  | .tadcSyncLost conv => decide (conv < 5)
  | .tadcUrgentRequest _ => true
  | .tadcBackgroundCalibration conv _ _ => decide (conv < 5)
  | .selfCalibrationStart => true
  | .selfCalibrationEnd _ _ _ _ _ => true
  | .stage _ => true
  | .stageDone _ => true
  | .activate _ => true
  | .commit _ => true
  | .revoke _ => true
  | .unlock _ _ => true
  | .lock _ => true
  | .retire _ => true
  | .getVersion _ => true
  | .getCapabilities _ => true
  | .negotiateAlgorithms _ => true
  | .getDigests _ => true
  | .getCertificate _ slot offset _ => decide (slot < 256 ∧ offset < 2 ^ 40)
  | .challenge _ slot _ => decide (slot < 256)
  | .getMeasurements _ _ _ => true
  | .spdmUnsupportedRequest _ _ => true
  | .tapReset => true
  | .jtagInstruction _ => true
  | .activationComplete _ => true
  | .lossOfPower => true
  | .laserFeedLow port feed _ => decide (port < 8 ∧ feed < 2)
  | .hubFault => true
  | .vfEnableClear => true
  | .alarmPacketWindowEnd cls port => decide (cls < 48 ∧ port < 8)
  | .unreachableResendDelay txn => decide (txn < 1048576)

end Sys2Proof
end

