-- ==== Sys2Proof/Certificates/Slice0/Obligations.lean ====
section
/-! DEFINITION. The statements for the provers, chapter by chapter. A statement about a command says that `exec` answers a
next state and what that state is; where it is written as one equation, everything the equation does not change is the
frame. -/

open Sys2Proof Sys2Proof.Machine

/-- Command `c` in state `s` answers the next state `t`, with the queue as it stood in `s`: a whole next state, so that what
`t` does not change is the command's frame. -/
def Sys2Proof.Answers (c : Instr) (s t : State) : Prop := exec c s = .next { t with pending := s.pending }

/-- Command `c` in state `s` answers a next state of which `p` holds. -/
def Sys2Proof.Reaches (c : Instr) (s : State) (p : State → Prop) : Prop := ∃ t, exec c s = .next t ∧ p t

/-- The host reaches the device, and an access of function `fn` reaches register `r`: it is in a window of the function that is
there, with its clock enabled. -/
def Sys2Proof.RegReady (s : State) (fn : Nat) (r : RegId) : Prop := hostLive s = true ∧ reaches s fn r = true

/-! ## The machine as a whole -/

/-- A step with a command at the front of the queue runs exactly that command on the state with the queue's rest. -/
def Obligations.StepRunsFrontCommand : Prop :=
  ∀ (s : State) (c : Instr) (rest : List Instr), s.pending = c :: rest → step s = exec c { s with pending := rest }

/-- With no command waiting, one management-clock cycle of device time passes while the device works, and nothing else
changes (the model's choice: log entry 2). -/
def Sys2Proof.EmptyQueueTicks : Prop :=
  ∀ s : State, s.pending = [] →
    (live s = true → step s = .next { s with time := (s.time + 1) % 2 ^ 64 }) ∧ (live s = false → step s = .next s)

/-- No command puts a command into the queue or takes one out, and none stops: every command answers a next state with the
queue as it stood. So the queue is first in, first out. -/
def Sys2Proof.CommandsKeepTheQueue : Prop :=
  ∀ (c : Instr) (s : State), ∃ t, exec c s = .next t ∧ t.pending = s.pending

/-- The queue: first in, first out, and what an empty one lets the device do (log entry 2). -/
def Obligations.QueueIsFirstInFirstOut : Prop := EmptyQueueTicks ∧ CommandsKeepTheQueue

/-- The commands that act on a device that does not work: PERST#, the power supply, a thermal trip and the test port. -/
def Sys2Proof.actsOnStoppedDevice : Instr → Bool
  | .perstAssert | .perstRelease _ _ | .lossOfPower | .thermtrip | .tapReset | .jtagInstruction _ => true
  | _ => false

/-- A device that does not work (PERST# asserted, THERMTRIP# asserted, a rail lost, or PLL_MGT out of lock) does nothing: no
command but PERST#, a loss of power, a thermal trip and the test port's changes any of its state. The one exception is R621's, where the
hub's windows still answer the host. What the model chose in it
stands in log entries 5 and 48. -/
def Obligations.StoppedDeviceDoesNothing : Prop :=
  ∀ (c : Instr) (s : State), live s = false → railMode s = false → actsOnStoppedDevice c = false → exec c s = .next s

/-- R621: while the device is stopped for a lost rail, no command changes anything but registers, the answers to the host
and the model's count of free values: memory, rings, descriptors and every engine stay as they are. What the model chose in it
stands in log entry 48. -/
def Obligations.RailStopTouchesRegistersOnly : Prop :=
  ∀ (c : Instr) (s t : State), live s = false → railMode s = true → actsOnStoppedDevice c = false → exec c s = .next t →
    t = { s with regs := t.regs, heldLow := t.heldLow, shadow := t.shadow, free := t.free, out := t.out }

/-- Device memory and the host's memory list their bytes in the one canonical form: addresses strictly rising, and no byte
that an unlisted address reads as. -/
def Sys2Proof.MemoryForm (s : State) : Prop := Safe s

/-- The canonical form of device memory and of the host's memory is an invariant of every step. -/
def Obligations.MemoryFormIsInvariant : Prop := ∀ s t : State, MemoryForm s → step s = .next t → MemoryForm t

/-- The canonical form holds at reset. -/
def Obligations.MemoryFormAtReset : Prop := MemoryForm State.reset ∧ State.reset.pending = []

/-! ## PERST#, the start and its stages (chapter 15) -/

/-- R556 and R515: the assertion of PERST# and a loss of power leave the device at its reset state, in which every register
holds its reset value. The non-volatile stores stay. PERST# also leaves the thermal trip (R533), the test port and the vendor
debug state, which its release ends (Table 16-7). -/
def Sys2Proof.PerstAndPowerLoss : Prop :=
  ∀ s : State,
    Answers .perstAssert s { State.atReset s.nv with
      free := s.free, out := s.out, hostMem := s.hostMem, hostErr := s.hostErr, tap := s.tap
      sec := { vendor := s.sec.vendor }, power := { thermtrip := s.power.thermtrip } } ∧
    Answers .lossOfPower s { State.atReset s.nv with
      free := s.free, out := s.out, hostMem := s.hostMem, hostErr := s.hostErr } ∧
    ∀ r : RegId, getReg (State.atReset s.nv) r = (regReset r).toNat

/-- R558, R590, R591, R533: the release of PERST# begins Stage 0 with device time 0. With a valid image slot the device boots it
and starts the self-calibration; with none it is in recovery, and the start halts with cause 1. After a thermal trip nothing
begins. Memory and the non-volatile stores are unchanged. -/
def Sys2Proof.PerstReleaseBegins : Prop :=
  ∀ (s : State) (straps : Straps) (nonce : List Byte),
    (s.start.perst = false → Answers (.perstRelease straps nonce) s s) ∧
    (s.start.perst = true → s.power.thermtrip = true →
      Answers (.perstRelease straps nonce) s { s with start := { s.start with perst := false } }) ∧
    (s.start.perst = true → s.power.thermtrip = false → Reaches (.perstRelease straps nonce) s fun t =>
      t.start.perst = false ∧ t.time = 0 ∧ t.transom.appended = 1 ∧ t.nv = s.nv ∧ t.mem = s.mem ∧
      t.sec.nonce = padTo 8 nonce ∧ t.sec.vendor = false ∧
      (∀ k second, bootSlot s.nv = some (k, second) →
        t.start.phase = .stage0 ∧ t.start.booted = some k ∧ t.start.fallback = second ∧ t.power.scalRunning = true) ∧
      (bootSlot s.nv = none → t.start.phase = .halted ∧ t.start.cause = 1 ∧ t.start.recovery = true))

/-- PERST#, a loss of power, and how the start begins. What the model chose in it
stands in log entries 1, 41 and 54. -/
def Obligations.ResetsAndTheStart : Prop := PerstAndPowerLoss ∧ PerstReleaseBegins

/-- R560, R564, R566, R602: Stage 0 ends with the configuration space ready; Stage 1 begins with the token for activation held
by firmware in slot 7, or the start is held, for HOLD0, a factory test hold, or a retired device. START_GO releases a held
start, but on a retired device it does nothing. -/
def Sys2Proof.StageZeroEnds : Prop :=
  ∀ s : State,
    (live s = true → s.start.phase = .stage0 →
      let hold := s.start.hold0 || testHold s || s.nv.dbgRetired
      Reaches .stage0Complete s fun t =>
        t.start.configReady = true ∧ t.transom.stageReached = 0 ∧
        (hold = true → t.start.phase = .heldAt0 ∧ getBit t (rid .hubStartStat) 3 = true) ∧
        (hold = false → t.start.phase = .stage1 ∧ t.transom.appended = 2 ∧ getReg t (rid .fltMaintSlot 7) = 17)) ∧
    (RegReady s 0 (rid .hubStartCtl) → s.start.phase = .heldAt0 → s.nv.dbgRetired = false →
      Reaches (.startGo 0) s fun t =>
        t.start.phase = .stage1 ∧ t.transom.appended = 2 ∧ getReg t (rid .fltMaintSlot 7) = 17 ∧
        getBit t (rid .hubStartCtl) 0 = true) ∧
    (∀ fn, hostLive s = true → (fn ≠ 0 ∨ s.start.phase ≠ .heldAt0 ∨ s.nv.dbgRetired = true) → Answers (.startGo fn) s s)

/-- R567 to R571: Stage 1 ends into Stage 2, or the start halts with cause 2 where a fuse word cannot be corrected; a repair record that is due waits for an image that is being
written to flash (R593). In Stage 2 a
stack whose training fails once trains again, and a stack that fails twice is lost. Stage 2 ends when every stack and every port has settled. -/
def Sys2Proof.StagesOneAndTwo : Prop :=
  ∀ s : State, live s = true → issueHold s = false →
    (s.start.phase = .stage1 → (recordDue s && s.sec.staging.isSome) = false → ∀ flashOk,
      (Reaches (.stage1Complete true flashOk) s fun t =>
        t.start.phase = .stage2 ∧ t.transom.stageReached = 1 ∧ t.transom.appended = 3 ∧
        ∀ p, p < 8 → (getPort t p).state = .training) ∧
      (Reaches (.stage1Complete false flashOk) s fun t => t.start.phase = .halted ∧ t.start.cause = 2)) ∧
    (s.start.phase = .stage2 → ∀ k, k < 16 → stackSettled s k = false →
      Answers (.stackTrainingDone k true) s (updStack s k fun x => { x with trained := true }) ∧
      ((getStack s k).failures = 0 → Answers (.stackTrainingDone k false) s
        (emitFn (updStack s k fun x => { x with failures := 1 }) 0 0x0B05 13 k (leBytes 1 k ++ leBytes 1 0))) ∧
      ((getStack s k).failures ≠ 0 → Reaches (.stackTrainingDone k false) s fun t =>
        (getStack t k).failures = 2 ∧ (getStack t k).thermal = .lost ∧ (getEntry t 13 k).retired = true)) ∧
    (s.start.phase = .stage2 → (∀ k, k < 16 → stackSettled s k = true) → (∀ p, p < 8 → (getPort s p).everSettled = true) →
      Reaches .stage2Complete s fun t =>
        t.start.phase = .stage3 ∧ t.transom.stageReached = 2 ∧ t.start.mtestUsed = getBit s (rid .hubStartCtl) 2)

/-- R572 to R580, R592: the later stages, each from its own phase. Stage 3 halts with cause 6 when every stack is lost and with cause 3
when a runtime section cannot be read or fails its digest; the broadcast halts with cause 4 when a hub core fails; Stage 4 ends
the start once every calibration has run its steps, with HUB_START_STAT.DONE set and slot 7 free. -/
def Sys2Proof.LaterStages : Prop :=
  ∀ s : State, live s = true → issueHold s = false →
    (s.start.phase = .stage3 → (∀ k, k < 16 → (getStack s k).thermal ≠ .critical) → ∀ tests,
      let found := (List.range 16).foldl (endStackTest tests) s
      (allLost found = true → ∀ ok, Reaches (.stage3Complete tests ok) s fun t => t.start.phase = .halted ∧ t.start.cause = 6) ∧
      (allLost found = false → runtimeGood s = true → Reaches (.stage3Complete tests true) s fun t =>
        t.start.phase = .broadcast ∧ t.transom.stageReached = 3) ∧
      (allLost found = false → ∀ ok, (ok && runtimeGood s) = false → Reaches (.stage3Complete tests ok) s fun t =>
        t.start.phase = .halted ∧ t.start.cause = 3)) ∧
    (s.start.phase = .broadcast → (s.power.scalRunning && s.power.scalFirst) = false → ∀ resent failed,
      ((∀ c, c ∈ failed → c < 1608 ∨ 1612 ≤ c) → Reaches (.firmwareBroadcastDone resent failed) s fun t =>
        t.start.phase = .stage4 ∧ t.sec.running = runtimeDigests (bootedImage s)) ∧
      (∀ c, c ∈ failed → 1608 ≤ c → c < 1612 → Reaches (.firmwareBroadcastDone resent failed) s fun t =>
        t.start.phase = .halted ∧ t.start.cause = 4)) ∧
    (s.start.phase = .stage4 → (∀ c, c < 1024 → (getCell s c).cal = none ∨ calOver s c = true) → ∀ results, Reaches (.stage4Complete results) s fun t =>
      t.start.phase = .done ∧ t.transom.stageReached = 4 ∧ getBit t (rid .hubStartStat) 5 = true ∧
      getReg t (rid .fltMaintSlot 7) = 0)

/-- What the stages of the start do and how each ends. What the model chose in it
stands in log entries 41 and 54. -/
def Obligations.StartStages : Prop := StageZeroEnds ∧ StagesOneAndTwo ∧ LaterStages

/-! ## Resets of functions, and VF Enable (R557, R604, R631) -/

/-- Nothing of function `fn` is left: no descriptor of it is in flight, its rings are DISABLED, it has no wide copy, no cached
translation and no open MSI-X vector, and the registers of its windows hold their reset values. -/
def Sys2Proof.FunctionCleared (t : State) (fn : Nat) : Prop :=
  (∀ w, w ∈ t.work → w.fn ≠ fn) ∧
  (∀ n, (getRing t n).fn = fn → (getRing t n).state = .disabled) ∧
  (∀ c, c ∈ t.oasis → c.fn ≠ fn) ∧ (∀ x, x ∈ t.tlbs → x.space ≠ fn) ∧
  (∀ x, x ∈ t.msixOpen → x.1 ≠ fn) ∧
  ∀ r, r ∈ ownRegs fn → getReg t r = (regReset r).toNat

/-- R604: the Function Level Reset of an enabled VF leaves nothing of that VF, and the number of VFs as it stood; R557: Hot Reset
and the PF's Function Level Reset leave no VF enabled, no descriptor of any function in flight, and no maintenance token of the
host. -/
def Sys2Proof.FunctionResets : Prop :=
  ∀ s : State, hostLive s = true →
    (∀ v, 1 ≤ v → v ≤ s.numVfs → Reaches (.vfFunctionLevelReset v) s fun t =>
      FunctionCleared t v ∧ t.numVfs = s.numVfs ∧ t.nv = s.nv) ∧
    (∀ c, c = .hotReset ∨ c = .pfFunctionLevelReset → Reaches c s fun t =>
      t.numVfs = 0 ∧ (∀ w, w ∈ t.work → 17 ≤ w.fn) ∧ t.nv = s.nv ∧
      (∀ n, n < 8 → getBit t (rid .fltMaintSlot n) 0 = true → getBit t (rid .fltMaintSlot n) 4 = true))

/-- R631, R161: VF Enable set gives NumVFs VFs, each with the first ring of its range in NUM_STEP_CFG, and the counters of those
ranges hold 0; cleared, it gives every ring back to the PF and changes nothing else. -/
def Sys2Proof.VfEnable : Prop :=
  ∀ s : State, hostLive s = true →
    (∀ n, s.numVfs = 0 → 1 ≤ n → n ≤ 16 → Reaches (.vfEnableSet n) s fun t =>
      t.numVfs = n ∧ (∀ v, 1 ≤ v → v ≤ n → getFld t (rid .numStepCfg v) 0 16 = vfBase t v % 2 ^ 16) ∧
      (∀ ring, inVfRanges t n ring = true → getCtr t ring = {})) ∧
    Answers .vfEnableClear s { s with numVfs := 0 }

/-- The resets of functions and the enabling of virtual functions. What the model chose in it
stands in log entry 55. -/
def Obligations.FunctionResetsAndVfs : Prop := FunctionResets ∧ VfEnable

/-! ## Host accesses (chapters 0 to 2) -/

/-- What a write of `x` to a field that held `o` leaves, by its access code (Table 0-2). -/
def Sys2Proof.writtenField (f : Fld) (x o : Nat) : Nat :=
  match f.acc with
  | .rw => f.fix.apply x
  | .w1c => o - (o &&& x)
  | .w1s => o ||| x
  | .ro | .rc => o

/-- A register that has no behaviour of its own on a write: no command of its own, no half, no hold. -/
def Sys2Proof.plainWrite (s : State) (r : RegId) (v : Nat) : Bool :=
  !regOwned r.name && v &&& regAction r.name == 0 && !writeIgnored s r && !windowFixed s r
    && decide (r.name ≠ .hubSlewCfg ∧ r.name ≠ .tadcCtl) && (highHalf r).isNone && (lowHalf r).isNone

/-- R2 and R3: a write of a register without behaviour of its own changes each field by its access code, and no other register
and nothing else of the device. -/
def Obligations.RegisterWriteByAccessCodes : Prop :=
  ∀ (s : State) (fn : Nat) (r : RegId) (v : W32),
    hostLive s = true → reaches s fn r = true → plainWrite s r v.toNat = true →
      Reaches (.registerWrite fn r v) s fun t =>
        t = { s with regs := t.regs } ∧
        (∀ q, regKey q ≠ regKey r → getReg t q = getReg s q) ∧
        getReg t r = (writeFields (regFields r) v.toNat (getReg s r)) % 2 ^ 32 ∧
        (∀ f, f ∈ regFields r → getFld t r f.lo f.w = writtenField f (field v.toNat f.lo f.w) (getFld s r f.lo f.w) % 2 ^ f.w)

/-- R46: a write to the low half of a pair is held and changes no register; the write of the high half brings both into effect. -/
def Sys2Proof.RegisterPairs : Prop :=
  ∀ (s : State) (fn : Nat) (l h : RegId) (v : W32),
    highHalf l = some h → regOwned l.name = false → writeIgnored s l = false → writeIgnored s h = false →
    windowFixed s l = false → windowFixed s h = false → l.i < 4096 → l.j < 64 → lowHalf h = some l → hostLive s = true →
    (reaches s fn l = true → Answers (.registerWrite fn l v) s
      { s with heldLow := Tab.set 0 s.heldLow (regKey l) (v.toNat + 1) }) ∧
    (reaches s fn h = true → Reaches (.registerWrite fn h v) s fun t =>
      t = { s with regs := t.regs, heldLow := Tab.set 0 s.heldLow (regKey l) 0 } ∧
      getReg t h = writeFields (regFields h) v.toNat (getReg s h) % 2 ^ 32 ∧
      getReg t l = writeFields (regFields l) (lowOf s l) (getReg s l) % 2 ^ 32)

/-- R3, R46: a read returns the register's value and clears its RC fields; a read of a low half also takes its high half into the
shadow, with the high half's RC fields cleared too. FAB_RT_DATA and DMU_STAT, whose reads do more, have rules of their own. -/
def Sys2Proof.RegisterReads : Prop :=
  ∀ (s : State) (fn : Nat) (r : RegId), hostLive s = true → reaches s fn r = true →
    r.name ≠ .fabRtData → r.name ≠ .dmuStat →
    (highHalf r = none → (pairLow r = none ∨ Tab.get 0 s.shadow (regKey r) = 0) →
      Answers (.rcRegisterRead fn r) s
        (send (setReg s r (clearRc (regFields r) (getReg s r))) (.completion fn .success (leBytes 4 (regView s r))))) ∧
    (∀ v, highHalf r = none → (pairLow r).isSome = true → Tab.get 0 s.shadow (regKey r) = v + 1 →
      Answers (.rcRegisterRead fn r) s
        (send { s with shadow := Tab.set 0 s.shadow (regKey r) 0 } (.completion fn .success (leBytes 4 v)))) ∧
    (∀ h, highHalf r = some h → h.name ≠ .fabRtData → h.name ≠ .dmuStat →
      let a := setReg s r (clearRc (regFields r) (getReg s r))
      let b := setReg a h (clearRc (regFields h) (getReg a h))
      Answers (.reg64LowRead fn r) s
        (send { b with shadow := Tab.set 0 b.shadow (regKey h) (regView a h + 1) }
          (.completion fn .success (leBytes 4 (regView s r)))))

/-- The halves of register pairs, and reads. What the model chose in it
stands in log entry 47. -/
def Obligations.RegisterPairsAndReads : Prop := RegisterPairs ∧ RegisterReads

/-- R47, R48, R65: an access of a width that is not allowed completes with Unsupported Request; a write that reaches no register is
discarded and a read of it returns 0, each with an event; an access to a window whose clock is off completes with Completer
Abort. A read of the Transom returns its bytes and writes no event. -/
def Sys2Proof.AccessesWithoutRegister : Prop :=
  ∀ (s : State) (fn offset : Nat), hostLive s = true → fn ≤ s.numVfs →
    (∀ length write window, widthOk offset length = false →
      let src : Nat × Nat := window.getD (1, 0)
      Answers (.unsupportedAccessWidth fn offset length write window) s
        (send (emitFn s fn 0x0003 src.1 src.2 (leBytes 4 offset ++ leBytes 1 (bit write) ++ leBytes 1 length))
          (.completion fn .unsupportedRequest []))) ∧
    (∀ transom, Answers (.unmappedAccess fn offset true transom) s
      (emitFn s fn 0x0002 1 0 (leBytes 4 offset ++ leBytes 1 1 ++ leBytes 1 (bit transom)))) ∧
    (Answers (.unmappedAccess fn offset false false) s
      (send (emitFn s fn 0x0002 1 0 (leBytes 4 offset ++ leBytes 1 0 ++ leBytes 1 0)) (.completion fn .success (leBytes 4 0)))) ∧
    (Answers (.unmappedAccess fn offset false true) s
      (send s (.completion fn .success (padTo 4 ((transomBytes s (fn ≠ 0)).drop offset))))) ∧
    (∀ write type inst i, fn = 0 → clkIndex type inst = some i → windowThere s (type, inst) = true → clkEnabled s i = false →
      Answers (.gatedAccess fn offset write type inst) s
        (send (emitFn s fn 0x0001 type inst
            (leBytes 1 0 ++ leBytes 1 0 ++ leBytes 2 i ++ leBytes 1 (bit write) ++ leBytes 3 0 ++ leBytes 8 offset))
          (.completion fn .completerAbort [])))

/-- An access of the PF of `n` bytes at offset `x` of BAR4 can be made now: it lies in the BAR and in one granule, its stack is
PRESENT and below 1 TiB, and nothing that it touches waits or is beyond correction. -/
def Sys2Proof.Bar4Ready (s : State) (x n : Nat) (write : Bool) : Prop :=
  hostLive s = true ∧ s.start.recovery = false ∧ 0 < n ∧ x % 256 + n ≤ 256 ∧ x + n ≤ 2 ^ barLog s 0 ∧
    stand4 s 0 x write ⟨false, bar4Base s + x, n, false⟩ = .ok

/-- R41, R42, R366: such a read completes with the bytes of memory at HUB_BAR4_BASE plus its offset, and changes none; such a write
puts its bytes there, changes no other byte, and completes. -/
def Sys2Proof.BarFourOfThePf : Prop :=
  ∀ (s : State) (x : Nat),
    let m := mapPa s (bar4Base s + x)
    let at_ := m.1 * 2 ^ 36 + m.2
    (∀ n, Bar4Ready s x n false → Reaches (.bar4Access 0 x (.read n)) s fun t =>
      t.out.head? = some (.completion 0 .success (Tab.getN 0#8 s.mem at_ n)) ∧ t.mem = s.mem ∧ t.work = s.work) ∧
    (∀ bs, Bar4Ready s x bs.length true → dirtyOn s = false → Reaches (.bar4Access 0 x (.write bs)) s fun t =>
      t.out.head? = some (.completion 0 .success []) ∧ t.work = s.work ∧
      ∀ a, Tab.get 0#8 t.mem a = if at_ ≤ a ∧ a < at_ + bs.length then bs.getD (a - at_) 0#8 else Tab.get 0#8 s.mem a)

/-- R41, R43, R344, R372: an access of any function whose parts may all go ahead reads or writes every one of them, in order, and completes
with success; one of which a part is aborted completes with Completer Abort and reads or writes none of its bytes; one that must wait
is kept. -/
def Sys2Proof.BarFourAccesses : Prop :=
  ∀ (s : State) (fn addr : Nat), hostLive s = true → s.start.recovery = false → fn ≤ s.numVfs →
    (∀ n, addr + n ≤ 2 ^ barLog s fn →
      (∀ ps, parts4 fn false (n / 256 + 2) s addr n = .inl ps →
        let r := readAll4 fn ps (walks4 fn addr n s)
        Answers (.bar4Access fn addr (.read n)) s (send r.2 (.completion fn .success r.1))) ∧
      (parts4 fn false (n / 256 + 2) s addr n = .inr .wait → Answers (.bar4Access fn addr (.read n)) s
        { s with heldAccess := s.heldAccess ++ [{ fn := fn, addr := addr, access := .read n }] }) ∧
      (∀ u, parts4 fn false (n / 256 + 2) s addr n = .inr (.abort u) → u.mem = s.mem ∧
        Answers (.bar4Access fn addr (.read n)) s (send u (.completion fn .completerAbort [])))) ∧
    (∀ bs : List Byte, addr + bs.length ≤ 2 ^ barLog s fn →
      (∀ ps, parts4 fn true (bs.length / 256 + 2) s addr bs.length = .inl ps →
        Answers (.bar4Access fn addr (.write bs)) s
          (send (writeAll4 fn ps bs (walks4 fn addr bs.length s)) (.completion fn .success []))) ∧
      (parts4 fn true (bs.length / 256 + 2) s addr bs.length = .inr .wait → Answers (.bar4Access fn addr (.write bs)) s
        { s with heldAccess := s.heldAccess ++ [{ fn := fn, addr := addr, access := .write bs }] }) ∧
      (∀ u, parts4 fn true (bs.length / 256 + 2) s addr bs.length = .inr (.abort u) → u.mem = s.mem ∧
        Answers (.bar4Access fn addr (.write bs)) s (send u (.completion fn .completerAbort []))))

/-- Accesses that reach no register, and those of device memory. What the model chose in it
stands in log entries 17, 49, 53 and 99. -/
def Obligations.OtherAccesses : Prop := AccessesWithoutRegister ∧ BarFourOfThePf ∧ BarFourAccesses

/-- R63, R64: CLOCK_ENABLE_SET makes an index's enable and its RUN bit read 1; CLOCK_ENABLE_CLEAR makes the enable read 0 and leaves the
RUN bit; CLOCK_STOPPED makes RUN read 0 once the accepted work has ended. No other enable or RUN bit, no memory, and no engine changes. -/
def Sys2Proof.ClockEnables : Prop :=
  ∀ (s : State) (i : Nat), clkWritable i = true →
    let same (t : State) : Prop :=
      t.mem = s.mem ∧ t.work = s.work ∧ t.cells = s.cells ∧ t.blocks = s.blocks ∧
      ∀ k, k < 256 → k ≠ i → clkEnabled t k = clkEnabled s k ∧ clkRuns t k = clkRuns s k
    (hostLive s = true → Reaches (.clockEnableSet i) s fun t => clkEnabled t i = true ∧ clkRuns t i = true ∧ same t) ∧
    (hostLive s = true → Reaches (.clockEnableClear i) s fun t =>
      clkEnabled t i = false ∧ clkRuns t i = clkRuns s i ∧ same t) ∧
    (live s = true → clkEnabled s i = false → clkRuns s i = true → clkBusy s i = false →
      Reaches (.clockStopped i) s fun t => clkEnabled t i = false ∧ clkRuns t i = false ∧ same t)

/-- R74 to R78: a root write drops every cached translation of its space; an invalidation drops those it covers when it completes, and START
then reads 0; an ATS invalidation drops the host's translation of the page and is answered. -/
def Sys2Proof.TranslationsDropped : Prop :=
  ∀ s : State, hostLive s = true →
    (∀ space high v, space ≤ 16 → Reaches (.mmuRootWrite space high v) s fun t =>
      (∀ x, x ∈ t.tlbs ↔ x ∈ s.tlbs ∧ x.space ≠ space) ∧ t.mem = s.mem ∧ t.work = s.work) ∧
    (∀ v : W32, getBit s (rid .hubMmuInvCtl) 0 = false → flag v.toNat 0 = true →
      Reaches (.mmuInvalidate v) s fun t =>
        getBit t (rid .hubMmuInvCtl) 0 = true ∧ t.tlbs = s.tlbs ∧
        t.inval = some { all := flag v.toNat 1, space := field v.toNat 8 5
                         va := getPair s .hubMmuInvAddrLo .hubMmuInvAddrHi
                         pages := if field v.toNat 16 16 = 0 then 65536 else field v.toNat 16 16 }) ∧
    (∀ i, s.inval = some i → Reaches .mmuInvalidationComplete s fun t =>
      getBit t (rid .hubMmuInvCtl) 0 = false ∧ t.inval = none ∧ (∀ x, x ∈ t.tlbs ↔ x ∈ s.tlbs ∧ i.covers x = false)) ∧
    (∀ fn addr, Reaches (.atsInvalidationRequest fn addr) s fun t =>
      t.out = .atsDone fn addr :: s.out ∧ (∀ x, x ∈ t.ats ↔ x ∈ s.ats ∧ ¬ (x.1 = fn ∧ x.2.1 = addr / 4096)) ∧
      t.tlbs = s.tlbs ∧ t.regs = s.regs)

/-- Clock enables, and translations dropped from the MMUs. What the model chose in it
stands in log entries 42, 50 and 51. -/
def Obligations.ClocksAndTranslations : Prop := ClockEnables ∧ TranslationsDropped

/-! ## Rings (chapter 3) -/

/-- R31: a round-robin arbiter grants the first requester at or after its pointer, wrapping once: it requests, and none between the
pointer and it does; it grants none exactly when none requests. -/
def Obligations.RoundRobinArbiter : Prop :=
  ∀ (req : Nat → Bool) (n p : Nat), p < n →
    (∀ g, grantFrom req n p = some g → g < n ∧ req g = true ∧
      ∀ j, j < n → (g + n - p) % n > (j + n - p) % n → req j = false) ∧
    (grantFrom req n p = none ↔ ∀ j, j < n → req j = false)

/-- R81, R85 and R86: the range and group registers take a value the rules allow, and refuse any other with the ring-configuration
event, leaving the register as it was. A group register that changes lets the round of the ring-group arbiter settle. -/
def Sys2Proof.RangeAndGroupRegisters : Prop :=
  ∀ (s : State) (v : Nat) (value : W32),
    let x := value.toNat
    let r := vfRange x
    let range := RegReady s 0 (rid .hubVfRing v)
    let group := RegReady s 0 (rid .hubRgrpCfg v)
    let free := ∀ u, 1 ≤ u → u ≤ 16 → u ≠ v → rangesMeet r (vfRange (getReg s (rid .hubVfRing u))) = false
    let busy := s.rings.any fun r => r.2.ctx.group == v && r.2.ctx.type == .submission
      && (r.2.state == .active || r.2.state == .draining)
    (range → 1 ≤ v → v ≤ 16 → s.numVfs = 0 → field x 8 5 ≤ 16 → r.1 + r.2 ≤ 65536 → free →
      Answers (.vfRingRangeWrite v value) s (setReg s (rid .hubVfRing v) (x % 2 ^ 13))) ∧
    (range → 1 ≤ v → v ≤ 16 → (0 < s.numVfs ∨ 16 < field x 8 5 ∨ 65536 < r.1 + r.2 ∨ ¬ free) →
      Answers (.vfRingRangeWrite v value) s (refusedWrite s 0 1 v x)) ∧
    (group → (busy = false ∨ field x 8 5 = getFld s (rid .hubRgrpCfg v) 8 5) →
      Answers (.ringGroupConfigWrite 0 v value) s (settleRound (setReg s (rid .hubRgrpCfg v) (x % 2 ^ 13)))) ∧
    (∀ fn, group → (fn ≠ 0 ∨ (busy = true ∧ field x 8 5 ≠ getFld s (rid .hubRgrpCfg v) 8 5)) →
      Answers (.ringGroupConfigWrite fn v value) s (refusedWrite s fn 2 v x))

/-- R82 to R84, R99: LOAD of a DISABLED ring of the function makes it ACTIVE with the context read and its indices at its initial index
(the producer index of a completion ring may stand behind records that it owed: R633); a context with a refused field leaves every ring as it was, with FAIL and an event that names the field's offset; a command on
another function's ring or on a ring that is not DISABLED sets FAIL alone. -/
def Sys2Proof.RingLoads : Prop :=
  ∀ (s : State) (fn ring : Nat) (context : List Byte), RegReady s fn (rid .hubRingCmd fn) →
    let read := send s (.hostRead fn (getPair s .hubRctBaseLo .hubRctBaseHi fn + 64 * (ring - vfBase s fn)) 64)
    (ring < 65536 → ownerOf s ring = fn → (getRing s ring).state = .disabled → ctxRefused read fn ring context = none →
      Reaches (.ringLoad fn ring context) s fun t =>
        (getRing t ring).state = .active ∧ (getRing t ring).ctx = ctxOf context ∧ (getRing t ring).fn = fn ∧
        (getRing t ring).head = (ctxOf context).initIdx ∧ (getRing t ring).tail = (ctxOf context).initIdx ∧
        (getRing t ring).cons = (getRing t ring).init ∧ (getRing t ring).fetched = [] ∧
        (getRing t ring).readInFlight = false ∧ (getRing t ring).slotInFlight = false ∧
        (∀ n, n ≠ ring → (getRing t n).state = (getRing s n).state ∧ (getRing t n).ctx = (getRing s n).ctx) ∧
        getBit t (rid .hubRingCmd fn) 30 = false ∧ t.work = s.work ∧ t.mem = s.mem) ∧
    (∀ off, ring < 65536 → ownerOf s ring = fn → (getRing s ring).state = .disabled →
      ctxRefused read fn ring context = some off →
      Answers (.ringLoad fn ring context) s
        (emitFn (ringCmdDone read fn ring 1 true) fn 0x0012 4 ring (leBytes 1 0 ++ leBytes 1 off))) ∧
    ((65536 ≤ ring ∨ ownerOf s ring ≠ fn ∨ (getRing s ring).state ≠ .disabled) →
      Answers (.ringLoad fn ring context) s (ringCmdDone s fn ring 1 true))

/-- The range and group registers, and LOAD. What the model chose in it
stands in log entries 3 and 76. -/
def Obligations.RingSetUp : Prop := RangeAndGroupRegisters ∧ RingLoads

/-- Table 3-8, R99, R497: STOP drains, ABORT drains and completes what was not dispatched with ABORTED, RESUME makes a HALTED ring ACTIVE
and reads its tail, or lets a log that waits be dispatched first, and QUERY fills HUB_RING_STAT and HUB_RING_HEAD. A command that
is not allowed sets FAIL and changes no ring. -/
def Sys2Proof.RingCommands : Prop :=
  ∀ (s : State) (fn ring : Nat), RegReady s fn (rid .hubRingCmd fn) →
    let r := getRing s ring
    let mine := ring < 65536 ∧ ownerOf s ring = fn
    let drained := updRing s ring fun r => if r.ctx.type = .event then { r with state := .disabled }
      else { r with state := .draining, readAgain := false }
    let resumed := ringChanged (ringCmdDone (updRing (settleRound s) ring fun r => { r with state := .active }) fn ring 4 false) ring
    (mine → (r.state = .active ∨ r.state = .halted) →
      Answers (.ringStop fn ring) s (ringChanged (ringCmdDone drained fn ring 2 false) ring)) ∧
    (¬ (mine ∧ (r.state = .active ∨ r.state = .halted)) → Answers (.ringStop fn ring) s (ringCmdDone s fn ring 2 true)) ∧
    (mine → r.state ≠ .disabled → Answers (.ringAbort fn ring) s
      (ringChanged (ringCmdDone
        ((undispatched r.fetched).foldl (abortDesc ring) (updRing drained ring fun r => { r with fetched := [] }))
        fn ring 3 false) ring)) ∧
    (¬ (mine ∧ r.state ≠ .disabled) → Answers (.ringAbort fn ring) s (ringCmdDone s fn ring 3 true)) ∧
    (mine → r.state = .halted → getBit s (rid .fltStepCtl fn) 2 = false → Answers (.ringResume fn ring) s (askTail resumed ring)) ∧
    (mine → r.state = .halted → getBit s (rid .fltStepCtl fn) 2 = true → Reaches (.ringResume fn ring) s fun t =>
      (getRing t ring).state = .active ∧ (getRing t ring).readAgain = true ∧ (getFn t fn).replayActive = true ∧
      getBit t (rid .fltStepCtl fn) 2 = false ∧ getBit t (rid .fltStepCtl fn) 1 = true) ∧
    (¬ (mine ∧ r.state = .halted) → Answers (.ringResume fn ring) s (ringCmdDone s fn ring 4 true)) ∧
    (mine → Answers (.ringQuery fn ring) s
      (ringCmdDone (setReg (setReg s (rid .hubRingStat fn) (ringStateCode r.state + inFlight s ring * 2 ^ 8))
        (rid .hubRingHead fn) (if r.ctx.type = .submission then r.head else r.prod)) fn ring 5 false)) ∧
    (¬ mine → Answers (.ringQuery fn ring) s (ringCmdDone s fn ring 5 true))

/-- Table 3-8, R632, R633: a DRAINING ring becomes DISABLED once nothing of it is left: for a submission ring its consumer index is written first
(a write that cannot be made halts the ring); until then RING_DRAINED changes nothing. -/
def Sys2Proof.RingsDrain : Prop :=
  ∀ (s : State) (ring : Nat), live s = true →
    let r := getRing s ring
    let off (t : State) : State := updRing t ring fun r => if r.state = .draining then { r with state := .disabled } else r
    let owes := (getRing s r.ctx.cmplRing).owed.any fun o => o.ring == ring
    (r.state ≠ .draining → Answers (.ringDrained ring) s s) ∧
    (r.state = .draining → r.ctx.type = .submission → r.fetched = [] → inFlight s ring = 0 →
      owes = false → Answers (.ringDrained ring) s (off (writeDevIdx s ring))) ∧
    (r.state = .draining → r.ctx.type = .submission → r.fetched = [] → inFlight s ring = 0 → owes = false →
      (r.ctx.devmem = false ∨ r.ctx.devIdxAddr = 0) → Reaches (.ringDrained ring) s fun t => (getRing t ring).state = .disabled) ∧
    (r.state = .draining → r.ctx.type = .submission → (r.fetched ≠ [] ∨ inFlight s ring ≠ 0 ∨ owes = true) →
      Answers (.ringDrained ring) s s) ∧
    (r.state = .draining → r.ctx.type ≠ .submission → owedTo s ring = 0 → Answers (.ringDrained ring) s
      (updRing s ring fun r => { r with state := .disabled })) ∧
    (r.state = .draining → r.ctx.type ≠ .submission → owedTo s ring ≠ 0 → Answers (.ringDrained ring) s s)

/-- The other ring commands, and how a ring drains. -/
def Obligations.RingCommandsAndDrains : Prop := RingCommands ∧ RingsDrain

/-- R93 to R97: a doorbell of the right width, offset, value and owner on an ACTIVE submission ring reads its shadow tail, or remembers to
while a read is in flight; on another ACTIVE ring it reads the host's index; on a ring in another state it does nothing; any other doorbell is
discarded with its cause, the first of R94's list that applies (log entry 77). A poll timer acts as a doorbell once POLL_US has passed. -/
def Sys2Proof.Doorbells : Prop :=
  ∀ (s : State) (fn offset length : Nat) (value : W32), hostLive s = true → s.start.recovery = false →
    let ring := vfBase s fn + offset / 16
    let r := getRing s ring
    let v := value.toNat
    let drop (cause : Nat) : Prop := Answers (.doorbell fn offset length value) s (doorbellEvent s fn ring offset v cause)
    let good := length = 4 ∧ offset % 16 = 0 ∧ v = ring ∧ ring < 65536 ∧ ownerOf s ring = fn
    ((length ≠ 4 ∨ offset % 4 ≠ 0) → drop 0) ∧
    (length = 4 → offset % 4 = 0 → (offset % 16 ≠ 0 ∨ v ≠ ring) → drop 1) ∧
    (length = 4 → offset % 16 = 0 → v = ring → (65536 ≤ ring ∨ ownerOf s ring ≠ fn) → drop 2) ∧
    (good → r.state = .disabled → drop 3) ∧
    (good → r.state = .active → r.ctx.type = .submission →
      Answers (.doorbell fn offset length value) s
        (if r.readInFlight then updRing s ring fun r => { r with readAgain := true } else startTailRead s ring)) ∧
    (good → r.state = .active → r.ctx.type ≠ .submission →
      Answers (.doorbell fn offset length value) s (send s (.hostRead r.fn r.ctx.hostIdxAddr 4))) ∧
    (good → (r.state = .halted ∨ r.state = .draining) → Answers (.doorbell fn offset length value) s s) ∧
    (∀ n, (getRing s n).state = .active → (getRing s n).ctx.type = .submission → (getRing s n).ctx.polled = true →
      ((getRing s n).polledAt + 400 * (getRing s n).ctx.pollUs ≤ s.time →
        let timed := updRing s n fun r => { r with polledAt := s.time }
        Answers (.ringPollTimer n) s
          (if (getRing s n).readInFlight then updRing timed n fun r => { r with readAgain := true } else startTailRead timed n)) ∧
      (s.time < (getRing s n).polledAt + 400 * (getRing s n).ctx.pollUs → Answers (.ringPollTimer n) s s))

/-- R89, R90, R95, R632: a shadow tail that comes back, from the host or for a DEVMEM ring from device memory, is kept, and the slots it adds are fetched; one that would hold more entries than the
ring halts it; a read that fails is tried once more and then halts the ring. -/
def Sys2Proof.ShadowTails : Prop :=
  ∀ (s : State) (ring : Nat) (word : Option W32), live s = true →
    let r := getRing s ring
    let got := if r.ctx.devmem then (ringBytes s ring r.ctx.hostIdxAddr 4).map leNat else word.map (·.toNat)
    r.readInFlight = true → r.state = .active →
    (∀ tail, got = some tail →
      let n := (tail + 2 ^ 32 - r.head) % 2 ^ 32
      let kept := updRing s ring fun r => { r with readInFlight := false, retried := false, readAgain := false, tail := tail }
      (r.size < n → Answers (.shadowTailReadDone ring word) s (haltRing kept ring 0 0)) ∧
      (n ≤ r.size →
        let fetch := if 0 < n ∧ ¬ r.slotInFlight then startSlotRead kept ring else kept
        Answers (.shadowTailReadDone ring word) s (if r.readAgain then startTailRead fetch ring else fetch))) ∧
    (got = none → r.retried = false → Answers (.shadowTailReadDone ring word) s
      (startTailRead (updRing s ring fun r => { r with retried := true }) ring)) ∧
    (got = none → r.retried = true → Answers (.shadowTailReadDone ring word) s
      (haltRing (updRing s ring fun r => { r with readInFlight := false, retried := false, readAgain := false }) ring 2 0))

/-- R86, R91, R126, R632: a slot read from the host, or for a DEVMEM ring from device memory, is kept for dispatch under the consumer index,
which advances by one modulo 2^32 and is written to DEVIDX_ADDR; a read that fails is tried once more and then halts the ring. -/
def Sys2Proof.DescriptorFetches : Prop :=
  ∀ (s : State) (ring : Nat) (slot : Option (List Byte)), live s = true →
    let r := getRing s ring
    let u := settleRound s
    let got := if r.ctx.devmem then ringBytes u ring (r.ctx.base + 64 * (r.head % r.size)) 64 else slot
    r.slotInFlight = true → r.state = .active →
    (∀ bytes, got = some bytes → Answers (.descriptorFetchDone ring slot) s (takeSlot u ring bytes)) ∧
    (∀ bytes, got = some bytes → (r.ctx.devmem = false ∨ r.ctx.devIdxAddr = 0) →
      Reaches (.descriptorFetchDone ring slot) s fun t =>
        (getRing t ring).fetched = r.fetched ++ [{ index := r.head, bytes := padTo 64 bytes }] ∧
        (getRing t ring).head = (r.head + 1) % 2 ^ 32 ∧ (getRing t ring).state = .active ∧
        t.work = s.work ∧ t.mem = s.mem) ∧
    (got = none → r.slotRetried = false → Answers (.descriptorFetchDone ring slot) s
      (startSlotRead (updRing u ring fun r => { r with slotRetried := true }) ring)) ∧
    (got = none → r.slotRetried = true → Answers (.descriptorFetchDone ring slot) s
      (haltRing (updRing u ring fun r => { r with slotInFlight := false, slotRetried := false }) ring 2 0))

/-- How a submission ring learns of its descriptors and fetches them. What the model chose in it
stands in log entries 17, 62 and 77. -/
def Obligations.SubmissionRings : Prop := Doorbells ∧ ShadowTails ∧ DescriptorFetches

/-- R97, R98, R123, R125, R627, R633: the timers and index reads of completion and event rings. What the model chose in it
stands in log entries 60 and 62. -/
def Obligations.RecordRingTimers : Prop :=
  ∀ (s : State) (ring : Nat), live s = true →
    let r := getRing s ring
    (∀ v : W32, r.state ≠ .disabled → r.ctx.type = .completion → Answers (.consumerIndexReread ring (some v)) s
      (noteStall (payOwed ring r.owed.length (updRing (settleRound s) ring fun r => { r with cons := v.toNat })) ring)) ∧
    (∀ v : W32, r.state ≠ .disabled → r.ctx.type = .event → Answers (.consumerIndexReread ring (some v)) s
      (flushLost (updRing (settleRound s) ring fun r => { r with cons := v.toNat }) ring)) ∧
    (Answers (.consumerIndexReread ring none) s s) ∧
    (r.state ≠ .disabled → 0 < r.unsignalled → 0 < r.ctx.modUs →
      (r.firstAt + 400 * r.ctx.modUs ≤ s.time → Answers (.interruptModerationTimer ring) s
        (msix (updRing s ring fun r => { r with unsignalled := 0 }) r.fn r.ctx.vector)) ∧
      (s.time < r.firstAt + 400 * r.ctx.modUs → Answers (.interruptModerationTimer ring) s s)) ∧
    (∀ type inst w, r.windows.find? (fun x => x.isFor type inst) = some w →
      let others := r.windows.filter fun x => !x.isFor type inst
      (s.time < w.since + 400000 → Answers (.eventRateWindowEnd ring type inst) s s) ∧
      (w.since + 400000 ≤ s.time → w.dropped = 0 → Answers (.eventRateWindowEnd ring type inst) s
        (flushLost (updRing s ring fun r => { r with windows := others, lostRate := satAdd 32 r.lostRate 0 }) ring)) ∧
      (w.since + 400000 ≤ s.time → 0 < w.dropped → Answers (.eventRateWindowEnd ring type inst) s
        (flushLost (updRing s ring fun r => { r with
          windows := others, lostRate := satAdd 32 r.lostRate w.dropped
          lostFirst := if r.lostFull + r.lostRate = 0 then w.first else min r.lostFirst w.first
          lostLast := max r.lostLast w.last }) ring))) ∧
    (∀ k, (getRing (noteStall s ring) ring).stall = some k → k.reported = false → k.since + 400000 ≤ s.time →
      Answers (.completionRingStall ring) s
        (stallEvent (updRing (noteStall s ring) ring fun r => { r with stall := some { k with reported := true } }) ring k false))

/-! ## Dispatch, completion and the opcodes of the hub (chapter 3) -/

/-- The command of opcode `op` can run descriptor `w` now: the device works, the descriptor has reached its engine, and nothing holds
the engine. -/
def Sys2Proof.OpReady (s : State) (op : Op) (w : Work) : Prop :=
  live s = true ∧ findWork s w.ring w.index = some w ∧ w.op = some op ∧ w.phase = .running ∧ engineRuns s w = true

/-- R86 to R88, R104, R108, R177: a dispatch first acts on every oasis failure whose boundary has come; then the arbiter's choice, or a fence's
release where it is the arbiter's choice, takes the granted ring's next descriptor, deducts one from its group's credit and
moves both pointers past the grant. Where no ring of any group with a weight can dispatch, nothing is dispatched. -/
def Sys2Proof.DispatchGrants : Prop :=
  ∀ (s : State) (ring : Nat), live s = true →
    let u := (List.range 17).foldl settleOasis s
    let granted (v : State) (g : Nat) (fresh : Bool) : State :=
      settleRound (noteStall (grantRing v g ring fresh) (getRing v ring).ctx.cmplRing)
    ((∀ fn, fn < 17 → (getFn s fn).oasisFail = none) → u = s) ∧
    (∀ g fresh, grantGroup u = some (g, fresh) → groupRing u g = some ring → Answers .descriptorDispatch s (granted u g fresh)) ∧
    (grantGroup u = none → Answers .descriptorDispatch s u) ∧
    (∀ f e rest g fresh, nextDesc (getRing s ring) = some (f, e, rest) → slotFence f = true → grantGroup s = some (g, fresh) →
      (groupRing s g = some ring → Answers (.fenceRelease ring) s (granted s g fresh)) ∧
      (groupRing s g ≠ some ring → Answers (.fenceRelease ring) s s)) ∧
    (∀ f e rest, nextDesc (getRing s ring) = some (f, e, rest) → slotFence f = false → Answers (.fenceRelease ring) s s) ∧
    (∀ g, nextDesc (getRing s ring) = none → grantRing s g ring false =
      { s with credits := Tab.upd 0 s.credits g (· - 1), groupPtr := (g + 1) % 64
               ringPtrs := Tab.set 0 s.ringPtrs g ((ring + 1) % 65536) })

/-- R8, R112, R113, R115: a descriptor held for its tokens is aborted with detail code 0x0E when a counter it names has FAILED, or with the
higher code of its gated place (log entry 65), stays held while
a token is not met, and goes to its place when all are met; a NOP that finds a free record and no step log to write then runs in the hub. -/
def Sys2Proof.TokensHoldAndRelease : Prop :=
  ∀ (s : State) (w : Work), live s = true → allHeld s = false → findWork s w.ring w.index = some w → w.phase = .held →
    (w.desc.tokens.any (tokenFailed s) = true → Answers (.dependencyMet w.ring w.index) s
      (putWork s (failGated s w stAborted 0x0E))) ∧
    (w.desc.tokens.any (tokenFailed s) = true → refusedGate s w.fn w.desc = 0 → Answers (.dependencyMet w.ring w.index) s
      (putWork s ((w.fail stAborted 0x0E).fail 0 0))) ∧
    (w.desc.tokens.any (tokenFailed s) = false → tokensMet s w.desc = false → Answers (.dependencyMet w.ring w.index) s s) ∧
    (w.desc.tokens.any (tokenFailed s) = false → tokensMet s w.desc = true → w.op = some .nop → w.desc.node = nodeId s →
      recsIn s 4 < 65536 → (getFn s w.fn).recOpen = false →
      Reaches (.dependencyMet w.ring w.index) s fun t => ∃ v, findWork t w.ring w.index = some v ∧
        v.phase = .running ∧ v.place = .hub ∧ v.order = s.nextOrder ∧ v.desc = w.desc ∧ v.record ∈ t.recs ∧
        t.nextOrder = s.nextOrder + 1)

/-- Dispatch, and the tokens that hold a descriptor. What the model chose in it
stands in log entries 16, 64, 65 and 75. -/
def Obligations.DispatchAndTokens : Prop := DispatchGrants ∧ TokensHoldAndRelease

/-- R114 to R120, R157, R474 to R478: what completing a descriptor whose work has ended does. Of a NOP whose counter is no function's
step counter it is said out: the NOP alone leaves the list, its counter goes up by 1 modulo 2^32 or is marked FAILED, its record is
posted where the NOP asks for one or did not end well, and its transaction record is free. What the model chose in it
stands in log entry 16. -/
def Obligations.DescriptorsComplete : Prop :=
  ∀ (s : State) (w : Work), live s = true → findWork s w.ring w.index = some w → w.phase = .done →
    let c := w.desc.counter
    let ring := (getRing s w.ring).ctx.cmplRing
    Answers (.descriptorComplete w.ring w.index) s (noteStall (completeWork (settleRound s) w) ring) ∧
    (w.op = some .nop → w.writes = [] → w.place = .hub → (getFn s w.fn).log = [] →
      (getFn s w.fn).rollWait = none → (getFn s w.fn).oasisFail = none → s.buckets = [] → w.status ≠ stPool →
      getFld s (rid .numStepCfg (ownerOf s c)) 0 16 ≠ c →
      Reaches (.descriptorComplete w.ring w.index) s fun t =>
        (∀ v, v ∈ t.work ↔ v ∈ s.work ∧ v.isAt w.ring w.index = false) ∧ w.record ∉ t.recs ∧
        t.mem = s.mem ∧ t.cells = s.cells ∧ t.blocks = s.blocks ∧
        (∀ n, n ≠ c ∨ w.desc.ctr = false → getCtr t n = getCtr s n) ∧
        (w.desc.ctr = true → succeeded w.status = true →
          getCtr t c = { getCtr s c with value := ((getCtr s c).value + 1) % 2 ^ 32 }) ∧
        (w.desc.ctr = true → succeeded w.status = false → getCtr t c = { getCtr s c with failed := true }) ∧
        (w.desc.cmpl = false → w.status = 0 → (getRing s ring).stall = none → (getRing t ring).prod = (getRing s ring).prod) ∧
        ((w.desc.cmpl = true ∨ w.status ≠ 0) → (getRing s ring).state ≠ .disabled → (getRing s ring).owed = [] →
          0 < (getRing s ring).room → (getRing s ring).stall = none → (getRing t ring).prod = ((getRing s ring).prod + 1) % 2 ^ 32))

/-- R110, R112, R114, R121: NOP ends well. CTR_WRITE sets or adds to its counter, modulo 2^32, and may clear FAILED; on a counter that is no
function's step counter it changes nothing else. EVENT_MARK writes its event of a user code, and a code below 0x8000 is
BAD_DESCRIPTOR (the model's choice, log entry 22). -/
def Sys2Proof.HubOpcodes : Prop :=
  ∀ (s : State) (w : Work),
    (OpReady s .nop w → Answers (.nop w.ring w.index) s (endWork s w)) ∧
    (OpReady s .ctrWrite w →
      let n := field (w.desc.W 0) 0 16
      let v := field (w.desc.W 1) 0 32
      let c := getCtr s n
      getFld s (rid .numStepCfg (ownerOf s n)) 0 16 ≠ n →
      Answers (.ctrWrite w.ring w.index) s
        (endWork (setCtr s n { value := if flag (w.desc.W 0) 16 then (c.value + v) % 2 ^ 32 else v
                               failed := c.failed && !flag (w.desc.W 0) 17 }) w)) ∧
    (OpReady s .ctrWrite w → ∀ v, findWork (ctrWritten s w.desc) w.ring w.index = some v →
      Answers (.ctrWrite w.ring w.index) s (endWork (ctrWritten s w.desc) v)) ∧
    (OpReady s .eventMark w → 0x8000 ≤ field (w.desc.W 0) 0 16 → Answers (.eventMark w.ring w.index) s
      (endWork (emitRing s w.ring (field (w.desc.W 0) 0 16) 0 w.ring (leBytes 8 (w.desc.W 1) ++ leBytes 8 (w.desc.W 2))) w)) ∧
    (OpReady s .eventMark w → field (w.desc.W 0) 0 16 < 0x8000 → Answers (.eventMark w.ring w.index) s
      (endWork s (w.fail stBad 0)))

/-- R111: RING_KICK of another function's ring is denied, of a ring not in device memory refused, and else writes the new tail at the
ring's host index address in device memory and acts as a doorbell. -/
def Sys2Proof.RingKicks : Prop :=
  ∀ (s : State) (w : Work), OpReady s .ringKick w →
    let ring := field (w.desc.W 0) 0 16
    let r := getRing s ring
    (ownerOf s ring ≠ w.fn → Answers (.ringKick w.ring w.index) s (endWork s (w.fail stDenied 0x0C))) ∧
    (ownerOf s ring = w.fn → (r.ctx.devmem = false ∨ r.state = .disabled) →
      Answers (.ringKick w.ring w.index) s (endWork s (w.fail stBad 0x0A))) ∧
    (ownerOf s ring = w.fn → r.ctx.devmem = true → r.state ≠ .disabled →
      ∀ t v, (vwrite { whoOf w with fn := r.fn, space := r.fn } r.ctx.hostIdxAddr (leBytes 4 (field (w.desc.W 1) 0 32))).on s = (.ok (), t) →
        findWork (ringDoorbell t ring) w.ring w.index = some v →
        Answers (.ringKick w.ring w.index) s (endWork (ringDoorbell t ring) v))

/-- The opcodes that the hub carries out: NOP, CTR_WRITE, EVENT_MARK and RING_KICK. What the model chose in it
stands in log entries 22 and 78. -/
def Obligations.HubCommands : Prop := HubOpcodes ∧ RingKicks

/-- A piece of engine work (R8, R9, R29, R344, R368, R372, R479): where it ends well the command's next state is what it made; an error ends its
descriptor with the status and detail code; an access held by a critical stack has no effect but the hold, one that waits has none,
and one that finds no free record only begins to wait for one; a granule whose CRC check fails is recovered; an error that escalates
begins the reset of its region. -/
def Obligations.EngineOutcomes : Prop :=
  ∀ (s : State) (w : Work) (m : Eng Unit),
    (∀ t, m.on s = (.ok (), t) → runPiece s w m = t) ∧
    (∀ t st dc, m.on s = (.error (.fail st dc), t) →
      runPiece s w m = endWork t (((findWork t w.ring w.index).getD w).fail st dc)) ∧
    (∀ t k, m.on s = (.error (.hold k), t) → runPiece s w m = holdAt s k w.ring w.index) ∧
    (∀ t, m.on s = (.error .wait, t) → runPiece s w m = s) ∧
    (∀ t r, m.on s = (.error (.noRecord r), t) → runPiece s w m = recordWait s r) ∧
    (∀ t k la, m.on s = (.error (.crc k la), t) → runPiece s w m = recoverCrc s t w k la) ∧
    (∀ t r cause, m.on s = (.error (.escalate r cause), t) → runPiece s w m = beginReset t r cause)

/-! ## Cells (chapters 5 and 6) -/

/-- LEAF_PROGRAM (R190, R219 to R222, R230, R232, R248): refused on a cell under full calibration and for fields that R190 does not
allow; else the leaf is PROGRAMMING and out of fault fallback while the master tile is read, and, once the writes have started (R337), takes
the levels that R191 to R193 give the tile, is PROGRAMMED, and one programming is counted. A master tile with a non-finite element ends it
with detail code 0x54, and one that ends before its row writes leaves the leaf EMPTY. -/
def Sys2Proof.LeafPrograms : Prop :=
  ∀ (s : State) (w : Work), OpReady s .leafProgram w →
    let d := w.desc
    let cell := d.target
    let l := leafOf (field (d.W 1) 44 1)
    let f := { programFields d with masterSpace := w.fn }
    let own := some (w.ring, w.index)
    let begun := setBit (updLeaf (leaveValid s cell l .programming) cell l fun x => { x with owner := own, restored := false })
      (rid .cellCheckStat cell) (leafBit l) false
    let bad (rows : List (List Nat)) := (List.range (f.rows * f.cols)).find? fun i =>
      !fp32.finite ((rows.getD (i / f.cols) []).getD (i % f.cols) 0)
    ((getLeaf s cell l).owner ≠ own → (getCell s cell).cal.isSome = true →
      Answers (.leafProgram w.ring w.index) s (endWork s (w.fail stBusy 0x5B))) ∧
    ((getLeaf s cell l).owner ≠ own → (getCell s cell).cal = none → programRefused d = true →
      Answers (.leafProgram w.ring w.index) s (endWork s (w.fail stBad 0x50))) ∧
    (∀ u, ((getLeaf s cell l).owner ≠ own ∧ (getCell s cell).cal = none ∧ programRefused d = false ∧ u = begun ∨
        (getLeaf s cell l).owner = own ∧ u = s) →
      ∀ rows t, (readMaster (whoOf w) f f.rows 0).on u = (.ok rows, t) →
      (bad rows = none →
        let h := field (d.W 1) 42 2
        let q := if f.eight then quantise8 h f.cols rows else quantise4 f.fmt h f.cols rows
        (∀ t1, (engineStart w 1).on t = (.ok true, t1) →
          let done := updLeaf (countWear t1 cell l) cell l fun x =>
            { f with state := .programmed, tw := q.tw, codes := q.codes, rowAt := x.rowAt, colAt := x.colAt }.writeRows q.levels
          ∀ v, findWork done w.ring w.index = some v → Answers (.leafProgram w.ring w.index) s (endWork done v)) ∧
        (∀ t1, (engineStart w 1).on t = (.ok false, t1) → Answers (.leafProgram w.ring w.index) s t1)) ∧
      (∀ i, bad rows = some i →
        let v := emitRing t w.ring 0x0203 9 cell (leBytes 2 cell ++ leBytes 4 i)
        Answers (.leafProgram w.ring w.index) s (endWork v (((findWork v w.ring w.index).getD w).fail stBad 0x54)))) ∧
    (∀ u b v, v.op = some .leafProgram → v.desc = d → v.ring = w.ring → v.index = w.index → v.place = .block b →
      (getLeaf u cell l).owner = own → (getLeaf u cell l).state = .programming →
      (getLeaf (endWork u v) cell l).state = .empty ∧ (getLeaf (endWork u v) cell l).owner = none)

/-- LEAF_READBACK (R222 to R227, R260, R262 to R264, R273, R479): refused on an EMPTY leaf; else the leaf is READING for 528 array periods.
At their end, where the reading shows no fault, the image is written as a tensor and the leaf is VALID and holds the rounded and
clamped levels of the reading. A leaf that had an image has the fault confirmed instead; on another a round of repairs is made and the
leaf read again, at most four times, before the cell is retired. -/
def Sys2Proof.LeafReadbacks : Prop :=
  ∀ (s : State) (w : Work) (r : Readback), OpReady s .leafReadback w →
    let cell := w.desc.target
    let l := leafOf (field (w.desc.W 1) 44 1)
    let va := vaOf (w.desc.W 0)
    let x := getLeaf s cell l
    let own := some (w.ring, w.index)
    let answer := Answers (.leafReadback w.ring w.index r) s
    (x.owner ≠ own → x.state = .empty → answer (endWork s (w.fail stBad 0x51))) ∧
    (x.owner ≠ own → x.state ≠ .empty → ∀ hg t, (imageHeader (whoOf w) x va).on s = (.ok hg, t) →
      answer (updLeaf t cell l fun x => { x with
        state := .reading, owner := own, toRead := 528, rounds := 0, readTol := ksTolOf t cell })) ∧
    (x.owner = own → x.toRead ≠ 0 → answer s) ∧
    (x.owner = own → x.toRead = 0 → x.record.isSome = true → ∀ ok t,
      (rereadLeaf w (whoOf w) cell l va x.readTol r).on s = (.ok ok, t) → ∀ v, findWork t w.ring w.index = some v →
      (ok = true → answer (endWork t v)) ∧
      (ok = false → (getCell t cell).retired = true → answer t) ∧
      (ok = false → (getCell t cell).retired = false → answer (endWork t (v.fail stAborted 0x5A)))) ∧
    (x.owner = own → x.toRead = 0 → x.record = none →
      let f := readFindings x x.readTol r
      let plan := planRound (getCell s cell) (pcellOf s cell) l f
      let mended := (repairOrRetire s cell l f).2
      (65536 ≤ recsIn s (cell / 64) → answer (recordWait s (cell / 64))) ∧
      (recsIn s (cell / 64) < 65536 →
        (f.none = true → ∀ hg t o u, (imageHeader (whoOf w) x va).on s = (.ok hg, t) →
          (writeImage (whoOf w) { x with image := imageOf x r.levels } hg.1 hg.2).on t = (.ok o, u) →
          Reaches (.leafReadback w.ring w.index r) s fun v =>
            (getLeaf v cell l).state = .valid ∧ (getLeaf v cell l).image = imageOf x r.levels ∧
            (getLeaf v cell l).imageVa = va ∧ (getLeaf v cell l).imageSpace = w.fn ∧ (getLeaf v cell l).owner = none) ∧
        (f.none = false → 4 ≤ x.rounds → answer (retireCell s cell 4 0)) ∧
        (f.none = false → x.rounds < 4 → plan.stop.isSome = true → answer mended) ∧
        (f.none = false → x.rounds < 4 → plan.stop = none → ∀ t,
          (reprogram w cell l (rewritten x plan.made)).on mended = (.ok (), t) →
          answer (updLeaf t cell l fun x => { x with toRead := 528, rounds := (getLeaf t cell l).rounds + 1 }))))

/-- LEAF_PROGRAM and LEAF_READBACK. What the model chose in it
stands in log entries 23, 24, 66, 85 and 89. -/
def Obligations.LeafCommands : Prop := LeafPrograms ∧ LeafReadbacks

/-- The eval of a TILE_EVALUATE that starts: the controls of its cell as they stand (R204, R273). -/
def Sys2Proof.evalStarted (s : State) (w : Work) (table : List Byte) : Eval :=
  let cell := w.desc.target
  let g := getReg s (rid .cellGainSel cell)
  let o := evalOps w.desc
  { ring := w.ring, index := w.index, leaf := o.leaf, gain := field g 0 4, margin := field g 4 4
    depth := getFld s (rid .cellWadiCfg cell) 0 2, fbThresh := getFld s (rid .cellWadiCfg cell) 4 10, ksTol := ksTolOf s cell
    sentN := 2 ^ getFld s (rid .cellCheckCfg cell) 8 5, evals := o.evals, table := table, audited := o.audited
    reread := o.audited && staleLeaf s cell (getLeaf s cell o.leaf), toRead := 528 }

/-- TILE_EVALUATE (R196 to R198, R203, R204, R211, R218, R228, R259, R273): on a leaf that is not VALID it completes with
BAD_DESCRIPTOR and detail code 0x51 without running; the command of an evaluation already in progress changes nothing. One whose checks pass
takes the controls of its cell as they stand. Audited on a leaf due for a readback it waits for one; else it reads its first input, and
where that is finite, with no more wadi rows than the capacity and an active row, its first shot stands ready. -/
def Obligations.TileEvaluations : Prop :=
  ∀ (s : State) (w : Work), OpReady s .tileEvaluate w →
    let cell := w.desc.target
    let o := evalOps w.desc
    let l := getLeaf s cell o.leaf
    let mx := mxInput w.desc
    let answer := Answers (.tileEvaluate w.ring w.index) s
    ((getCell s cell).eval.isSome = true → answer s) ∧
    ((getCell s cell).eval = none → l.state ≠ .valid → answer (endWork s (w.fail stBad 0x51))) ∧
    (∀ table t, (getCell s cell).eval = none → (getCell t cell).retired = false → (evalChecks w cell l).on s = (.ok table, t) →
      let e := evalStarted s w table
      let started := updCell t cell fun c => { c with eval := some e }
      (e.reread = true → answer started) ∧
      (∀ u, (carry w cell).on started = (.ok (), u) → answer u) ∧
      (∀ i u, e.reread = false → 0 < o.evals → engineRuns t w = true → suspectsOf (getCell t cell) o.leaf = [] →
        leafFallback t cell o.leaf = false →
        (readInput (whoOf w) (vaOf (w.desc.W 0)) (fmtOf (w.desc.W 0)) (getLeaf t cell o.leaf).rows 0).on started = (.ok i, u) →
        (∀ v, v ∈ i.vals → v.isFin = true) → (∀ d, d ∈ i.steps → d.isSome = true) →
        let ready := prepareEval u cell mx i
        let rows := (((getCell ready cell).eval.map (·.wadiRows)).getD []).length
        let counted := addFld ready (rid .cellWadiCnt cell) 0 32 rows
        rows ≤ o.cap → (startShot counted cell mx 0).1 = true → answer (startShot counted cell mx 0).2))

/-- R197, R200 to R203, R222, R239, R244, R245, R337: a period in which a shot stands ready, once its engine has started, adds each column's
converter code, clamped to 8 bits signed and scaled by the gain, to that column's sum of the shot; with no shot ready it is a
readback period while readback rows remain, else a calibration period; a retired cell, one under full calibration and one before the
self-calibration of REXT take none. A full calibration that holds the evaluation takes the periods for itself. -/
def Sys2Proof.ArrayPeriods : Prop :=
  ∀ (s : State) (cell : Nat) (codes : List Int), live s = true →
    let c := getCell s cell
    let answer := Answers (.arrayPeriod cell codes) s
    (calHolds s c = true → answer s) ∧
    (∀ e w, calHolds s c = false → c.eval = some e → findWork s e.ring e.index = some w → e.ready = true → engineRuns s w = true →
      (∀ t, (engineStart w 1).on s = (.ok false, t) → answer t) ∧
      (∀ t, (engineStart w 1).on s = (.ok true, t) → e.sentinelDue = false → e.shot = 0 →
        e.phase + 1 < phaseCount e (mxInput w.desc) (getLeaf s cell e.leaf).pw 0 →
        let cs := (List.range 256).map fun j => adcCode (codes.getD j 0)
        let hot := (List.range 256).filter fun j => cs.getD j 0 == 127 || cs.getD j 0 == -128
        answer (updCell t cell fun k => { k with
          activeB := e.leaf == .b
          eval := some { e with
            driven := phaseDrive e (mxInput w.desc) (getLeaf s cell e.leaf).pw
            sumsHigh := (List.range 256).map fun j => e.sumsHigh.getD j 0 + cs.getD j 0 * (2 ^ e.gain : Nat)
            saturated := e.saturated ++ hot.filter fun j => decide (j ∉ e.saturated)
            satShot := e.satShot ++ hot.filter fun j => decide (j ∉ e.satShot)
            phase := e.phase + 1 } }))) ∧
    (calHolds s c = false → (c.eval = none ∨ ∃ e w, c.eval = some e ∧ findWork s e.ring e.index = some w ∧ e.ready = false) →
      (∀ t, readPeriod s cell = some t → answer t) ∧
      (c.retired = false → c.eval = none → readsNow s c.leafA = true →
        answer (updLeaf s cell .a fun x => { x with toRead := x.toRead - 1 })) ∧
      (readPeriod s cell = none → c.retired = false → c.cal = none → scalSettled s = true →
        answer (updCell s cell fun k => calPeriod k codes)) ∧
      (readPeriod s cell = none → (c.retired = true ∨ c.cal.isSome = true ∨ scalSettled s = false) → answer s))

/-- R257, R259 to R261, R264, R267, R320: the readback that an audited TILE_EVALUATE waits for; a suspect column that its check clears
leaves the list, and the evaluation goes on; a failed check of audited work confirms the fault and calls for a rollback; an acceptable
clone takes the evaluation over, any other leaves it to a DMU; a due fallback product of the lowest cell forms the results of
up to 128 evaluations, and the evaluation goes on. -/
def Sys2Proof.ChecksAndClones : Prop :=
  ∀ (s : State) (cell : Nat) (e : Eval) (w : Work), live s = true →
    (getCell s cell).eval = some e → findWork s e.ring e.index = some w →
    (∀ r t, w.op = some .tileEvaluate → w.desc.target = cell → w.isAt e.ring e.index = true → e.reread = true → e.toRead = 0 →
      engineRuns s w = true → (evalReread r w cell e).on s = (.ok (), t) → Answers (.leafReadback e.ring e.index r) s t) ∧
    (∀ j rest sums, suspectsOf (getCell s cell) e.leaf = j :: rest → e.ready = false → e.waitClone = false → e.reread = false →
      engineRuns s w = true →
      let failed := ksFailed e.ksTol ((getCell s cell).leaf e.leaf).image sums
      let cleared := updCell s cell fun c => { c with
        suspects := c.suspects.erase j, violations := c.violations.filter fun v => v.1 != j }
      let confirmed := confirmFault cleared cell e.leaf 0 (classify failed)
      (failed = [] → ∀ t, (carry w cell).on (updLeaf cleared cell e.leaf fun x => { x with sincePass := 0 }) = (.ok (), t) →
        Answers (.suspectColumnCheck cell sums) s t) ∧
      (j % 256 ∈ failed → e.audited = true →
        Answers (.suspectColumnCheck cell sums) s (callRollback confirmed w.fn 5 false)) ∧
      (j % 256 ∈ failed → e.audited = false → ∀ t, (carry w cell).on confirmed = (.ok (), t) →
        Answers (.suspectColumnCheck cell sums) s t)) ∧
    (∀ check, e.waitClone = true → acceptable check = true →
      ∀ t, (carry w cell).on (updBlock (updEval s cell fun e => { e with waitClone := false, clone := true }) (cell / 8)
          fun b => if b.clone = some cell then { b with cloneLeaf := .valid } else b) = (.ok (), t) →
        Answers (.cloneReady cell check) s t) ∧
    (∀ check, e.waitClone = true → acceptable check = false →
      let u := updWork (updEval s cell Eval.toDmu) e.ring e.index fun w => { w.also 3 0x5E with mask := w.mask ||| 5 }
      ∀ t, (carry w cell).on (updBlock u (cell / 8)
          fun b => if b.clone = some cell then { b with clone := none, cloneLeaf := .empty } else b) = (.ok (), t) →
        Answers (.cloneReady cell check) s t) ∧
    (∀ check, e.waitClone = false → Answers (.cloneReady cell check) s s) ∧
    (e.fallbackDue = true → engineRuns s w = true →
      (∀ k, k < cell → k / 8 = cell / 8 → ∀ x, (getCell s k).eval = some x → x.fallbackDue = false) →
      let l := getLeaf s cell e.leaf
      let now := e.fallen.take 128
      let dmu := 2 * (cell / 8) + fallbackDmu (getBlock s (cell / 8))
      let tiles := tilesOf now.length l.cols 0
      ∀ rs t u, (fallbackResults w l now).on s = (.ok rs, t) → (dmuErrors w dmu tiles).on t = (.ok (), u) →
      ∀ v, (carry w cell).on (addFld (updEval u cell fun e => { e with
          fallen := e.fallen.drop 128, results := rs.foldl (fun (t : Tab (List Nat)) r => Tab.ins t r.1 r.2) e.results })
          (rid .dmuTileCnt dmu) 0 32 tiles) = (.ok (), v) →
        Answers (.fallbackProductStart (cell / 8)) s v)

/-- The array periods of an evaluation, its checks and its clones. What the model chose in it
stands in log entries 23, 25, 67 and 90. -/
def Obligations.ArrayPeriodsAndChecks : Prop := ArrayPeriods ∧ ChecksAndClones

/-- R240 to R251: calibration. A junction sample reaches every cell of its block, at once or at the end of the evaluation in progress, and no
other cell; a background slot first brings the columns of the converter in turn onto the spare, at once or at the boundary to come,
and then adds the measured difference to that converter; a full calibration starts only under its token and ends, once its steps
have run, with RUNNING clear; FULL_AGE reaching 744 hours is reported once. What the model chose in it
stands in log entry 67. -/
def Obligations.Calibration : Prop :=
  ∀ (s : State) (cell : Nat), live s = true →
    let c := getCell s cell
    (∀ block t16, Reaches (.junctionSample block t16) s fun t =>
      t = { s with cells := t.cells } ∧
      (∀ k, k / 8 = block → (getCell t k) = if midEvaluation (getCell s k) then { getCell s k with nextTemp := some t16 }
        else { getCell s k with useTemp := t16, nextTemp := none }) ∧
      (∀ k, k / 8 ≠ block → getCell t k = getCell s k)) ∧
    (∀ measured, c.retired = false → c.cal = none → c.spareConv = none → scalSettled s = true →
      let m := updCell s cell fun c => if c.onSpare = c.toMove then c else c.moveColumns
      (c.onSpare ≠ c.toMove → midEvaluation c = true → Answers (.converterCalibrationSlot cell measured) s m) ∧
      ((c.onSpare = c.toMove ∨ midEvaluation c = false) →
        Answers (.converterCalibrationSlot cell measured) s (updCell m cell fun c => { c with
          codeAdd := Tab.upd 0 c.codeAdd c.calConv (· + (measured - codeInUse m cell c.calConv))
          calConv := (c.calConv + 1) % 65 }.moveColumns))) ∧
    (RegReady s 0 (rid .cellCalCmd cell) → calRefused s cell = false → Reaches (.fullCalibrationStart 0 cell) s fun t =>
      (getCell t cell) = { c with cal := some s.time } ∧ getBit t (rid .cellCalStat cell) 1 = true ∧
      getFld t (rid .cellCalCmd cell) 0 2 = 1 ∧ t.work = s.work ∧ t.mem = s.mem) ∧
    (RegReady s 0 (rid .cellCalCmd cell) → calRefused s cell = true → Reaches (.fullCalibrationStart 0 cell) s fun t =>
      t.cells = s.cells ∧ getBit t (rid .cellCalCmd cell) 1 = true) ∧
    (∀ result, calOver s cell = true → cell < 1024 → Reaches (.fullCalibrationEnd cell result) s fun t =>
      (getCell t cell).cal = none ∧ (getCell t cell).lastCal = some s.time ∧ getBit t (rid .cellCalStat cell) 1 = false ∧
      getBit t (rid .cellCalStat cell) 0 = (!(getCell t cell).retired && s.power.scalAtStart)) ∧
    (∀ result, calOver s cell = false → Answers (.fullCalibrationEnd cell result) s s) ∧
    (c.lastCal.isSome = true → c.dueSaid = false → 744 ≤ fullAge s cell → Answers (.calibrationDue cell) s
      (emitFn (updCell s cell fun c => { c with dueSaid := true }) 0 0x0211 9 cell (leBytes 2 cell ++ leBytes 2 744))) ∧
    (fullAge s cell < 744 → Answers (.calibrationDue cell) s s)

/-! ## Digital matrix units (chapter 7), the block scoreboard and residency (chapter 8) -/

/-- DMU_PRODUCT (R276 to R292, R305, R337): its DMU takes it in turn; each refusal that the fields alone give, in its order, ends the descriptor with
BAD_DESCRIPTOR and the detail code, and writes nothing. Else, with its header checks passed and its engine started, the results
formed from its operands are written to the output, its tiles are counted, and it ends. -/
def Sys2Proof.SingleProducts : Prop :=
  ∀ (s : State) (w : Work), OpReady s .dmuProduct w →
    let d := w.desc
    let who := whoOf w
    let dmu := field d.aux 0 1
    let epi := field (d.W 3) 54 2
    let m := field (d.W 3) 0 16
    let n := field (d.W 3) 16 16
    let k := field (d.W 3) 32 16
    let shape := m ≠ 0 ∧ n ≠ 0 ∧ (k ≠ 0 ∨ (d.W 1 = 0 ∧ flag (d.W 3) 49 = false))
    let answer := Answers (.dmuProduct w.ring w.index) s
    let refused (c : Nat) : Prop := answer (endWork s (w.fail stBad c))
    let ref := flag (d.W 3) 50 || w.refMode
    let f := if (k = 0 && decide (epi = 0)) || ref then fp64 else fp32
    let checks : Eng Nat := do
      productFields w
      let block ← outputBlock who (d.W 2) m n
      checkOperand who (d.W 0) (if k = 0 then m * n else m * k)
      if k ≠ 0 then checkOperand who (d.W 1) (k * n)
      if epi ≠ 0 then checkOperand who (d.X 0) (m * n)
      pure block
    (dmuTurn s w dmu = false → answer s) ∧
    (dmuTurn s w dmu = true →
      (formatRefused .dmuProduct d = true → refused 0x60) ∧
      (formatRefused .dmuProduct d = false → ¬ shape → refused 0x61) ∧
      (formatRefused .dmuProduct d = false → shape → 4 < field (d.W 3) 51 3 → refused 0x63) ∧
      (formatRefused .dmuProduct d = false → shape → field (d.W 3) 51 3 ≤ 4 →
        (epi = 3 ∨ (epi ≠ 0 ∧ d.ext = false) ∨ (epi = 0 ∧ d.X 0 ≠ 0)) → refused 0x64) ∧
      (∀ block s1, checks.on s = (.ok block, s1) →
        (∀ t, (engineStart w 1).on s1 = (.ok false, t) → answer t) ∧
        (∀ s2, (engineStart w 1).on s1 = (.ok true, s2) →
          ∀ rs s3, (if k = 0 then elementwise w f m n else productResults w ref f m n k).on s2 = (.ok rs, s3) →
          let tiles := tilesOf m n block
          ∀ s4, (dmuErrors w (2 * d.target + dmu) tiles).on s3 = (.ok (), s4) →
          ∀ x s5, (writeTensor who (vaOf (d.W 2)) (fmtOf (d.W 2)) 0x61 f rs).on s4 = (.ok x, s5) →
          ∀ u, (noteWrite w x).on s5 = (.ok (), u) →
          let done := addFld u (rid .dmuTileCnt (2 * d.target + dmu)) 0 32 tiles
          ∀ v, findWork done w.ring w.index = some v → answer (endWork done v))))

/-- DMU_PAIR (R296 to R300): the refusals that its fields alone give; the first command forms dX on DMU0, which is then free for other work, and
the second dW on DMU1, which ends the descriptor. -/
def Sys2Proof.ProductPairs : Prop :=
  ∀ (s : State) (w : Work), OpReady s .dmuPair w →
    let d := w.desc
    let who := whoOf w
    let t := field (d.W 3) 0 16
    let r := field (d.W 3) 16 16
    let c := field (d.W 3) 32 16
    let ref := flag (d.W 3) 50 || w.refMode
    let answer := Answers (.dmuPair w.ring w.index) s
    let refused (c : Nat) : Prop := answer (endWork s (w.fail stBad c))
    let checks : Eng (Nat × Nat) := do
      pairFields w
      let bx ← outputBlock who (d.X 0) t r
      let bw ← outputBlock who (d.X 1) r c
      let _ ← imageHead who (vaOf (d.W 1)) r c
      checkOperand who (d.W 0) (t * c)
      checkOperand who (d.W 2) (t * r)
      pure (bx, bw)
    (dmuTurn s w (bit w.half) = false → answer s) ∧
    (dmuTurn s w (bit w.half) = true →
      (formatRefused .dmuPair d = true → refused 0x60) ∧
      (formatRefused .dmuPair d = false → (t = 0 ∨ r = 0 ∨ c = 0) → refused 0x61) ∧
      (formatRefused .dmuPair d = false → t ≠ 0 → r ≠ 0 → c ≠ 0 →
        (d.ext = false ∨ field (d.W 3) 48 2 ≠ 0 ∨ d.aux ≠ 0) → refused 0x62) ∧
      (∀ b s1, checks.on s = (.ok b, s1) →
        (w.half = false →
          (∀ u, (engineStart w 1).on s1 = (.ok false, u) → answer u) ∧
          (∀ s2 s3 u, (engineStart w 1).on s1 = (.ok true, s2) → (noting w (pairInput w ref t r c b.1)).on s2 = (.ok (), s3) →
            (releasePair w).on s3 = (.ok (), u) → answer u)) ∧
        (w.half = true →
          (∀ u, (engineStart w 2).on s1 = (.ok false, u) → answer u) ∧
          (∀ s2 u v, (engineStart w 2).on s1 = (.ok true, s2) → (noting w (pairWeight w ref t r c b.2)).on s2 = (.ok (), u) →
            findWork u w.ring w.index = some v → answer (endWork u v)))))

/-- The descriptors of the matrix units: DMU_PRODUCT and DMU_PAIR. What the model chose in it
stands in log entries 66, 71 and 94. -/
def Obligations.MatrixProducts : Prop := SingleProducts ∧ ProductPairs

/-- R318, R332, R334, R339: the arbiter of the five classes grants a class that asks, and the class's own arbiter one of its entries; both pointers
move past what they granted. A class-3 grant sets up the hinge buffer and leaves the descriptor in its entry; class 4 makes its
memory move. A block that may not issue, or in which nothing asks, changes nothing. -/
def Sys2Proof.BlockIssues : Prop :=
  ∀ (s : State) (b : Nat), live s = true →
    (blockIssues s b = false → Answers (.blockIssue b) s s) ∧
    (blockIssues s b = true → grantFrom (classAsks s b) 5 (getBlock s b).classPtr = none → Answers (.blockIssue b) s s) ∧
    (∀ c, blockIssues s b = true → grantFrom (classAsks s b) 5 (getBlock s b).classPtr = some c →
      (∀ f, c = 4 → classMove s b = some f → Answers (.blockIssue b) s (f (updBlock s b fun k => { k with classPtr := 0 }))) ∧
      (∀ w, c ≠ 4 → w ∈ classEntries s b c → (∀ v, v ∈ classEntries s b c → v.entry = w.entry → v = w) →
        grantFrom (fun e => (classEntries s b c).any fun v => v.entry == e) 256 (Tab.get 0 (getBlock s b).entryPtr c) = some w.entry →
        let granted := updBlock s b fun k => { k with
          classPtr := (c + 1) % 5, entryPtr := Tab.set 0 k.entryPtr c ((w.entry + 1) % 256) }
        let x := copyCheck granted b w
        Answers (.blockIssue b) s (if c = 3 then putWork x.1 { x.2 with setUp := true } else grantWork x.1 x.2))) ∧
    (∀ w, s.upsets = [] → copyCheck s b w = (s, w))

/-- R337, R338: an engine starts once its region's credit covers its step, which is deducted; a start that it does not cover is counted as delayed and
waits, and takes place by the same rule. A stop that waits takes place likewise. -/
def Sys2Proof.SlewCredit : Prop :=
  ∀ (s : State) (w : Work), live s = true → findWork s w.ring w.index = some w →
    let r := w.place.regionOf
    let charged := updRegion s r fun g => { g with credit := creditNow s r - slewStep w, creditAt := s.time }
    let free := issueHold s = false ∧ s.failStop = false ∧ regionRuns s r = true
    (∀ n, (slewStep w = 0 ∨ n ≤ w.starts) → (engineStart w n).on s = (.ok true, s)) ∧
    (∀ n, slewStep w ≠ 0 → w.starts < n → slewStep w ≤ creditNow s r →
      (engineStart w n).on s = (.ok true, updWork charged w.ring w.index fun v => { v with starts := v.starts + 1 })) ∧
    (∀ n, slewStep w ≠ 0 → w.starts < n → creditNow s r < slewStep w → (engineStart w n).on s =
      (.ok false, addFld (updWork s w.ring w.index fun v => { v with phase := .granted }) (rid .rgnSlewStat r) 0 16 1)) ∧
    (w.phase = .granted → free → slewStep w ≤ creditNow s r → Answers (.slewCreditStart w.ring w.index) s
      (putWork charged { w with starts := w.starts + 1, phase := .running })) ∧
    (w.phase = .granted → free → creditNow s r < slewStep w → Answers (.slewCreditStart w.ring w.index) s s) ∧
    (w.phase = .granted → ¬ free → Answers (.slewCreditStart w.ring w.index) s s) ∧
    (∀ k step, w.phase = .done → k < 16 → (getRegion s k).stops = [(w.ring, w.index, step)] →
      (∀ j, j < 16 → j ≠ k → (getRegion s j).stops = []) → step ≤ creditNow s k →
      Reaches (.slewCreditStart w.ring w.index) s fun t =>
        (getRegion t k).stops = [] ∧ (getRegion t k).credit = creditNow s k - step ∧ (getRegion t k).creditAt = s.time ∧
        t = { s with regions := t.regions })

/-- R319: a parity error of the scoreboard stops issue for a rebuild, after which the ranges stand again; one during a rebuild or within 1 ms
of the last escalates to the region, with its event. -/
def Sys2Proof.ScoreboardParity : Prop :=
  ∀ (s : State) (b : Nat), live s = true → b < 128 →
    let k := getBlock s b
    let soon := ∃ t, k.lastRebuild = some t ∧ s.time - t < 400000
    (k.rebuilding = false → ¬ soon → Answers (.scoreboardParityError b) s (updBlock s b fun k => { k with rebuilding := true })) ∧
    ((k.rebuilding = true ∨ soon) →
      Answers (.scoreboardParityError b) s (beginReset (emitFn s 0 0x0402 8 b (leBytes 2 b)) (b / 8) 1)) ∧
    (k.rebuilding = true → Reaches (.scoreboardRebuildDone b) s fun t =>
      (getBlock t b).rebuilding = false ∧ (getBlock t b).lastRebuild = some s.time ∧
      t.work = s.work.map fun w => if w.boardAt b then { w with ranges := rangesOf s w } else w) ∧
    (k.rebuilding = false → Answers (.scoreboardRebuildDone b) s s)

/-- R330 to R332: the residency windows. A window that an access reaches is set while it is disabled, unless it would overlap another enabled one in
its address space; disabling it begins its write-back, at whose end its pages are free. A page is filled from memory, and when all
448 are in use the one whose last access is oldest goes, ties to the lower window and page. -/
def Sys2Proof.Residency : Prop :=
  ∀ (s : State) (b n : Nat) (value : W32),
    let r := rid .blkResCtl b n
    let old := getReg s r
    let new := writeFields (regFields r) value.toNat old
    let k := getBlock s b
    let answer := Answers (.residencyWindowWrite 0 b n value) s
    let idle := flag old 0 = false ∧ flag old 1 = false
    (RegReady s 0 r →
      (idle → (flag new 0 = true → windowClash s b n new = false) → answer (setReg s r new)) ∧
      (idle → flag new 0 = true → windowClash s b n new = true → answer (windowRefused s b n)) ∧
      (flag old 0 = true → new / 8 = old / 8 → flag new 0 = true → answer s) ∧
      (flag old 0 = true → new / 8 ≠ old / 8 → flag new 0 = true → answer (windowRefused s b n)) ∧
      (flag old 0 = true → new / 8 = old / 8 → flag new 0 = false → n ∉ k.flushing →
        answer (setBit (setBit (updBlock s b fun k => { k with flushing := k.flushing ++ [n] }) r 0 false) r 1 true))) ∧
    (live s = true → n ∉ k.flushing → Answers (.residencyFlushDone b n) s s) ∧
    (live s = true → n ∈ k.flushing → ∀ t, (flushPages b n).on s = (.ok (), t) → Answers (.residencyFlushDone b n) s
      (setBit (updBlock t b fun k => { k with
        classPtr := 0, flushing := k.flushing.erase n, pages := k.pages.filter fun p => p.window != n }) r 1 false)) ∧
    (∀ page, live s = true → regExists r = true → windowOn s b n = true → page < getFld s r 8 11 → issueHold s = false →
      regionRuns s (b / 8) = true → (∀ p, p ∈ k.pages → ¬ (p.window = n ∧ p.page = page)) →
      ∀ p t, (fillPage { hubWho (getFld s r 3 5) with mmu := b / 8 } b n page).on s = (.ok p, t) →
        Answers (.residencyPageFill b n page) s t ∧ p ∈ (getBlock t b).pages ∧ (getBlock t b).classPtr = 0 ∧
        p.window = n ∧ p.page = page ∧ p.dirty = false ∧ p.va = windowVa s b n + 4096 * page) ∧
    (∀ p, evicted k.pages = some p → p ∈ k.pages ∧ ∀ q, q ∈ k.pages →
      p.used < q.used ∨ (p.used = q.used ∧ 2048 * p.window + p.page ≤ 2048 * q.window + q.page))

/-- Issue, slew credit, the scoreboard and residency of a block. What the model chose in it
stands in log entries 69, 71 and 93. -/
def Obligations.BlockScheduling : Prop := BlockIssues ∧ SlewCredit ∧ ScoreboardParity ∧ Residency

/-! ## Block programs (chapter 8) -/

/-- The vector engine of a block is about to run an instruction of operation `op` of its micro-program: the device works,
the descriptor's engine may work. -/
def Sys2Proof.VecDue (s : State) (b op : Nat) (w : Work) (r : VecRun) : Prop :=
  live s = true ∧ (getBlock s b).vec = some r ∧ findWork s r.ring r.index = some w ∧ vOp r.current = op ∧ engineRuns s w = true

/-- It runs the instruction now, in the state `t` in which the engine's start, if it was still due, has been taken: the iteration
has run fewer than 2^24 instructions, and no lane error is found. -/
def Sys2Proof.VecAt (s t : State) (b op : Nat) (w : Work) (r : VecRun) : Prop :=
  VecDue s b op w r ∧ (engineStart w 1).on s = (.ok true, t) ∧ r.executed < 2 ^ 24 ∧ Upset.lane b ∉ s.upsets

/-- The program with the instruction pointer moved on and the instruction counted. -/
def Sys2Proof.stepped (r : VecRun) : VecRun := { r with pc := r.pc + 1, executed := r.executed + 1 }

/-- The next state in which block `b`'s vector engine stands at `r` and nothing else of `t` has changed. -/
def Sys2Proof.vecNext (s t : State) (b : Nat) (r : VecRun) : Host.Outcome State Fault Refusal :=
  .next { updBlock t b fun k => { k with vec := some r } with pending := s.pending }

/-- The vector register D of the current instruction written with `xs`, on the stepped program. -/
def Sys2Proof.lanesTo (r : VecRun) (xs : List Nat) : VecRun := (stepped r).putV (vD r.current) xs

/-- Table 8-4, operations on the 256 lanes of two or three vector registers, in FP32: the result goes to register D, the
program moves on, and no other register, store, counter or part of the device changes. -/
def Sys2Proof.VectorLaneOperations : Prop :=
  ∀ (s t : State) (b : Nat) (w : Work) (r : VecRun),
    let i := r.current
    let a := r.lanes (vA i)
    let bs := r.lanes (vB i)
    let c := r.lanes (vC i)
    let two (f : Nat → Nat → Nat) : List Nat := List.zipWith f a bs
    (VecAt s t b 0x10 w r → exec (.vecAdd b) s = vecNext s t b (lanesTo r (two fp32.add))) ∧
    (VecAt s t b 0x11 w r → exec (.vecMul b) s = vecNext s t b (lanesTo r (two fp32.mul))) ∧
    (VecAt s t b 0x12 w r → exec (.vecFma b) s =
      vecNext s t b (lanesTo r (List.zipWith (fun p z => fp32.fma p.1 p.2 z) (List.zip a bs) c))) ∧
    (VecAt s t b 0x13 w r → exec (.vecMin b) s = vecNext s t b (lanesTo r (two fp32.minOf))) ∧
    (VecAt s t b 0x14 w r → exec (.vecMax b) s = vecNext s t b (lanesTo r (two fp32.maxOf))) ∧
    (VecAt s t b 0x15 w r → exec (.vecSel b) s =
      vecNext s t b (lanesTo r (List.zipWith (fun p z => fp32.canonical (if fp32.isZero z then p.2 else p.1)) (List.zip a bs) c))) ∧
    (VecAt s t b 0x16 w r → exec (.vecCmplt b) s =
      vecNext s t b (lanesTo r (two fun x y => if (fp32.decode x).lt (fp32.decode y) then one32 else 0)))

/-- Table 8-4, operations of one source, the constant, and the two reductions, whose result stands in lane 0 with +0 in
lanes 1 to 255. -/
def Sys2Proof.VectorUnaryOperations : Prop :=
  ∀ (s t : State) (b : Nat) (w : Work) (r : VecRun),
    let i := r.current
    let a := r.lanes (vA i)
    (VecAt s t b 0x18 w r → exec (.vecSplat b) s = vecNext s t b (lanesTo r (List.replicate 256 (fp32.canonical (vImm i))))) ∧
    (VecAt s t b 0x20 w r → exec (.vecRcp b) s = vecNext s t b (lanesTo r (a.map fp32.rcp))) ∧
    (VecAt s t b 0x21 w r → exec (.vecRsqrt b) s = vecNext s t b (lanesTo r (a.map fp32.rsqrt))) ∧
    (VecAt s t b 0x22 w r → exec (.vecExp2 b) s = vecNext s t b (lanesTo r (a.map fp32.exp2))) ∧
    (VecAt s t b 0x23 w r → exec (.vecLog2 b) s = vecNext s t b (lanesTo r (a.map fp32.log2))) ∧
    (VecAt s t b 0x30 w r → exec (.vecSum b) s =
      vecNext s t b (lanesTo r ((tree fp32.add 8 a).take 1 ++ List.replicate 255 0))) ∧
    (VecAt s t b 0x31 w r → exec (.vecMaxr b) s =
      vecNext s t b (lanesTo r ((tree fp32.maxOf 8 a).take 1 ++ List.replicate 255 0)))

/-- The lane operations of the vector engine. -/
def Obligations.VectorLanes : Prop := VectorLaneOperations ∧ VectorUnaryOperations

/-- Table 8-4, scalars and branches: SADD adds two scalar registers and IMM modulo 2^32, with s0 read-only; a taken branch
sets the instruction pointer to IMM, and BRNZ is taken when its scalar register is not 0. -/
def Sys2Proof.VectorScalarsAndBranches : Prop :=
  ∀ (s t : State) (b : Nat) (w : Work) (r : VecRun),
    let i := r.current
    (VecAt s t b 0x40 w r →
      exec (.vecSadd b) s = vecNext s t b ((stepped r).putS (vD i) (r.scalar (vA i) + r.scalar (vB i) + vImm i)) ∧
      ((vD i ≠ 0) → ((stepped r).putS (vD i) (r.scalar (vA i) + r.scalar (vB i) + vImm i)).scalar (vD i)
        = (r.scalar (vA i) + r.scalar (vB i) + vImm i) % 2 ^ 32)) ∧
    (VecAt s t b 0x48 w r → r.scalar (vA i) ≠ 0 → exec (.vecBrnz b) s = vecNext s t b { stepped r with pc := vImm i }) ∧
    (VecAt s t b 0x48 w r → r.scalar (vA i) = 0 → exec (.vecBrnz b) s = vecNext s t b (stepped r)) ∧
    (VecAt s t b 0x49 w r → exec (.vecBr b) s = vecNext s t b { stepped r with pc := vImm i })

/-- R328, R329, R334: ST holds its elements in the store buffer and writes no memory, and one element too many for the
buffer ends the descriptor with BAD_DESCRIPTOR and detail code 0x72; a CPOP of an empty slot writes 0 to its scalar register
and pops nothing, and one of a queued packet writes its source and holds its bytes for the argument. -/
def Sys2Proof.VectorStoresAndPops : Prop :=
  ∀ (s t : State) (b : Nat) (w : Work) (r : VecRun),
    let i := r.current
    let n := min (r.scalar (vC i)) 256
    let arg := r.args.getD (vA i) ⟨0, 0, false, false, false⟩
    let held := r.bytes + n * areaBytes (fmtOf arg.word % 128) 1
    let slot := field (vImm i) 0 2
    (VecAt s t b 0x02 w r → held ≤ 16384 →
      exec (.vecSt b) s = vecNext s t b { stepped r with
        bytes := held
        stores := r.stores ++ ((List.zip (r.elems i) (r.lanes (vD i))).take n).filterMap fun p =>
          p.1.map fun e => { arg := vA i, element := e, value := p.2 } }) ∧
    (VecAt s t b 0x02 w r → 16384 < held → Reaches (.vecSt b) s fun u => (getBlock u b).vec = none ∧
      ∀ x, findWork u w.ring w.index = some x → x.phase = .done) ∧
    (VecAt s t b 0x50 w r → flag (getReg s (rid .blkCarCfg b slot)) 0 = true → field (getReg s (rid .blkCarCfg b slot)) 1 5 = w.fn →
      (Tab.get {} (getBlock s b).slots slot).onDie = [] → (Tab.get {} (getBlock s b).slots slot).overflow = [] →
      exec (.cpop b) s = vecNext s t b ((stepped r).putS (vD i) 0)) ∧
    (∀ c, VecAt s t b 0x50 w r → flag (getReg s (rid .blkCarCfg b slot)) 0 = true →
      field (getReg s (rid .blkCarCfg b slot)) 1 5 = w.fn → s.upsets = [] →
      let taken := ((r.popped.find? fun p => p.1 == slot).map (·.2)).getD 0
      (Tab.get {} (getBlock s b).slots slot).onDie[taken]? = some c → r.bytes + c.len ≤ 16384 →
      exec (.cpop b) s = vecNext s t b { (stepped r).putS (vD i) (leAt c.bytes 0 2) with
        bytes := r.bytes + c.len, popped := (slot, taken + 1) :: r.popped.filter fun p => p.1 != slot
        popStores := r.popStores ++ [(vA i, r.scalar (vB i), c.bytes)] })

/-- Scalars, branches, stores and pops of the vector engine. What the model chose in it
stands in log entry 26. -/
def Obligations.VectorScalarsAndStores : Prop := VectorScalarsAndBranches ∧ VectorStoresAndPops

/-- The commands of a block's vector engine with their operation codes (Table 8-4). -/
def Sys2Proof.vectorCommands (b : Nat) : List (Instr × Nat) :=
  [(.vecLd b, 0x01), (.vecSt b, 0x02), (.vecAdd b, 0x10), (.vecMul b, 0x11), (.vecFma b, 0x12), (.vecMin b, 0x13), (.vecMax b, 0x14),
   (.vecSel b, 0x15), (.vecCmplt b, 0x16), (.vecSplat b, 0x18), (.vecRcp b, 0x20), (.vecRsqrt b, 0x21), (.vecExp2 b, 0x22),
   (.vecLog2 b, 0x23), (.vecSum b, 0x30), (.vecMaxr b, 0x31), (.vecSadd b, 0x40), (.vecBrnz b, 0x48), (.vecBr b, 0x49),
   (.cpop b, 0x50), (.vecEnd b, 0x7F)]

/-- The writes of an iteration's end: its held stores, then its popped packets. -/
def Sys2Proof.iterationWrites (w : Work) (r : VecRun) : Eng VecRun := do
  let q ← writeStores (whoOf w) r r.stores
  writePops (whoOf w) q q.popStores
  pure q

/-- R328, R329, R337, R339: an END whose held stores and popped packets are written without error releases the popped packets and counts the
iteration on the descriptor; in an iteration that is not the last the next one starts at the first instruction with nothing held, after the
last the headed arguments are closed and the descriptor ends. No instruction runs until the engine has started; an iteration of
2^24 instructions ends the descriptor with TIMEOUT; a lane error starts the iteration again, the second one escalates. -/
def Sys2Proof.VectorIterationEnds : Prop :=
  ∀ (s : State) (b : Nat) (w : Work) (r : VecRun),
    (∀ t u q, VecAt s t b 0x7F w r → (iterationWrites w (stepped r)).on t = (.ok q, u) →
      let u := q.popped.foldl (releasePops b) u
      let u := q.popped.foldl (fun u p => resumeSlot u b p.1) u
      let u := updWork u w.ring w.index fun v => { v with progress := v.progress + 1 }
      let next := { q with
        iter := q.iter + 1, pc := 0, executed := 0, v0 := q.v, s0 := q.s, again := false
        stores := [], bytes := 0, popped := [], popStores := [] }
      let put (v : State) : State := updBlock v b fun k => { k with vec := k.vec.map fun _ => next }
      (q.iter + 1 < q.iterations → Answers (.vecEnd b) s (put u)) ∧
      (q.iterations ≤ q.iter + 1 → ∀ v x, (closeArguments w next next.written).on u = (.ok (), v) →
        let freed := updBlock v b fun k => { k with vec := none }
        findWork freed w.ring w.index = some x → Answers (.vecEnd b) s (put (endWork freed x)))) ∧
    (∀ op c, VecDue s b op w r → (c, op) ∈ vectorCommands b →
      (∀ t, (engineStart w 1).on s = (.ok false, t) → Answers c s t) ∧
      (∀ t, (engineStart w 1).on s = (.ok true, t) → 2 ^ 24 ≤ r.executed → Answers c s
        (endWork (updBlock t b fun k => { k with vec := none })
          (((findWork (updBlock t b fun k => { k with vec := none }) w.ring w.index).getD w).fail stTimeout 0))) ∧
      (∀ t, (engineStart w 1).on s = (.ok true, t) → r.executed < 2 ^ 24 → Upset.lane b ∈ s.upsets →
        let found := { t with upsets := t.upsets.erase (.lane b) }
        (r.again = true → Answers c s (beginReset found (b / 8) 1)) ∧
        (r.again = false → Answers c s
          (updBlock (updWork (emitFn found 0 0x0403 8 b (leBytes 2 b ++ leBytes 4 r.iter)) w.ring w.index fun v => v.also 3 0x78)
            b fun k => { k with vec := some { r.restart with again := true } }))))

/-- The elements of LD: through the argument's header where it has one. -/
def Sys2Proof.loadLanes (w : Work) (arg : VArg) (elems : List (Option Nat)) : Eng (List Nat) :=
  if flag (fmtOf arg.word) 7 then do
    let h ← argHdr (whoOf w) arg
    loadElems (whoOf w) arg (some h) elems
  else loadElems (whoOf w) arg none elems

/-- LD (Table 8-4): where the elements read without error, register D takes them; an element outside an argument without a
header reads +0, so 256 such elements load 256 lanes of +0. -/
def Sys2Proof.VectorLoads : Prop :=
  ∀ (s t : State) (b : Nat) (w : Work) (r : VecRun),
    let arg := r.args.getD (vA r.current) ⟨0, 0, false, false, false⟩
    VecAt s t b 0x01 w r →
      (∀ xs u, (loadLanes w arg (r.elems r.current)).on t = (.ok xs, u) →
        Answers (.vecLd b) s (updBlock u b fun k => { k with vec := k.vec.map fun _ => lanesTo r xs })) ∧
      (flag (fmtOf arg.word) 7 = false →
        (∀ n, some n ∈ r.elems r.current → arg.length < elemEnd (fmtOf arg.word % 128) 0 n) →
        exec (.vecLd b) s = vecNext s t b (lanesTo r (List.replicate 256 0)))

/-- Loads of the vector engine, and the end of an iteration. What the model chose in it
stands in log entry 26. -/
def Obligations.VectorLoadsAndEnds : Prop := VectorIterationEnds ∧ VectorLoads

/-! ## The memory system (chapter 9) -/

/-- R342, R343: the map from a device address to a stack and an address in it loses nothing: in whatever mode the segments
are, the inverse map gives every address of the 1 TiB back, so no two addresses share a byte. -/
def Obligations.SegmentMapIsOneToOne : Prop :=
  ∀ (s : State) (pa : Nat), pa < 2 ^ 40 →
    (mapPa s pa).1 < 16 ∧ (mapPa s pa).2 < 2 ^ 36 ∧ unmapPa s (mapPa s pa).1 (mapPa s pa).2 = pa

/-- R354 to R357, R359 to R365: MEM_COPY refuses what R355 and R356 refuse, and ends with the bytes written as its DETAIL;
MEM_ATOMIC refuses what R361 refuses, and count 0 with a tag frees the tag. What the model chose in it
stands in log entries 27, 28 and 87. -/
def Obligations.CopiesAndAtomics : Prop :=
  ∀ (s : State) (w : Work),
    let o := copyOps w.desc
    let a := atomicOps w.desc
    let mine := TagEntry.isFor (regionPlace w) w.fn a.tag
    (∀ c, OpReady s .memCopy w → inCaravan s w.fn (vaOf (w.desc.W 1)) = false → copyRefusal w.desc true = some c →
      Answers (.memCopy w.ring w.index) s (endWork s (w.fail stBad c))) ∧
    (∀ t v, OpReady s .memCopy w → inCaravan s w.fn (vaOf (w.desc.W 1)) = false → copyRefusal w.desc true = none →
      (copyParts w { whoOf w with hint := field (w.desc.W 2) 48 2 } o (o.len + 1) 0).on s = (.ok (), t) →
      findWork t w.ring w.index = some v →
      Answers (.memCopy w.ring w.index) s
        (endWork (updWork t w.ring w.index fun x => { x with detail := min o.outBytes (2 ^ 32 - 1) })
          { v with detail := min o.outBytes (2 ^ 32 - 1) })) ∧
    (OpReady s .memAtomic w → atomicRefused s (whoOf w) a = true →
      Answers (.memAtomic w.ring w.index) s (endWork s (w.fail stBad 0x81))) ∧
    (OpReady s .memAtomic w → atomicRefused s (whoOf w) a = false → a.tag ≠ 0 → a.count = 0 →
      Answers (.memAtomic w.ring w.index) s (endWork { s with tags := s.tags.filter fun e => !mine e } w)) ∧
    (OpReady s .memAtomic w → atomicRefused s (whoOf w) a = false → a.tag ≠ 0 → a.count ≠ 0 → s.tags.find? mine = none →
      4096 ≤ (s.tags.filter fun e => e.region == regionPlace w).length →
      Answers (.memAtomic w.ring w.index) s (endWork s (w.fail stPool 0x84))) ∧
    (∀ t v, OpReady s .memAtomic w → atomicRefused s (whoOf w) a = false → a.tag = 0 →
      (atomicGranules (whoOf w) a (fun k => act fun s => updWork s w.ring w.index fun v => { v with progress := k })
        (a.granules + 1) w.progress).on s = (.ok (), t) → findWork t w.ring w.index = some v →
      Answers (.memAtomic w.ring w.index) s (endWork t v)) ∧
    (∀ t, OpReady s .memAtomic w → atomicRefused s (whoOf w) a = false → a.tag ≠ 0 →
      (atomicTagged (whoOf w) (regionPlace w) a).on s = (.ok (), t) → ∀ v, findWork t w.ring w.index = some v →
      Answers (.memAtomic w.ring w.index) s (endWork t v)) ∧
    (∀ x y, x < 2 ^ 32 → y < 2 ^ 32 → atomicOp 0 2 x y = (x + y) % 2 ^ 32)

/-- R344, R345: a low half of MEM_MAP_LOCAL is held; the high half starts a change of the modes unless one runs or the oasis in use would
change; at its end the two registers hold the new modes and STAT reads 0. -/
def Sys2Proof.MapModes : Prop :=
  ∀ (s : State) (v : W32),
    let lo := lowOf s (rid .memMapLocalLo)
    let new := lo + v.toNat * 2 ^ 32
    let changed := new ^^^ getPair s .memMapLocalLo .memMapLocalHi
    (RegReady s 0 (rid .memMapLocalLo) →
      (getBit s (rid .memMapStat) 0 = false → Answers (.mapLocalWrite false v) s (holdLow s (rid .memMapLocalLo) v.toNat)) ∧
      (getBit s (rid .memMapStat) 0 = true → Answers (.mapLocalWrite false v) s
        (emitFn s 0 0x0509 1 0 (leBytes 8 (v.toNat + getReg s (rid .memMapLocalHi) * 2 ^ 32))))) ∧
    (RegReady s 0 (rid .memMapLocalHi) →
      (getBit s (rid .memMapStat) 0 = true → Answers (.mapLocalWrite true v) s (emitFn s 0 0x0509 1 0 (leBytes 8 new))) ∧
      (getBit s (rid .memMapStat) 0 = false → changed = 0 →
        Answers (.mapLocalWrite true v) s (dropLow s (rid .memMapLocalLo))) ∧
      (getBit s (rid .memMapStat) 0 = false → changed ≠ 0 → (oasisUsed s = 0 ∨ overlapsOasis s changed = false) →
        Answers (.mapLocalWrite true v) s
          (setBit { dropLow s (rid .memMapLocalLo) with mapBusy := some (lo, v.toNat) } (rid .memMapStat) 0 true)) ∧
      (getBit s (rid .memMapStat) 0 = false → changed ≠ 0 → 0 < oasisUsed s → overlapsOasis s changed = true →
        Answers (.mapLocalWrite true v) s (emitFn (dropLow s (rid .memMapLocalLo)) 0 0x0509 1 0 (leBytes 8 new)))) ∧
    (∀ m : Nat × Nat, live s = true → s.mapBusy = some m → m.1 < 2 ^ 32 → m.2 < 2 ^ 32 → s.heldAccess = [] →
      Reaches .mapChangeDone s fun t =>
        getReg t (rid .memMapLocalLo) = m.1 ∧ getReg t (rid .memMapLocalHi) = m.2 ∧ getBit t (rid .memMapStat) 0 = false ∧
        t.mapBusy = none ∧ (∀ l, l ∈ t.lines → l ∈ s.lines) ∧ t.mem = s.mem ∧ t.bad = s.bad ∧ t.work = s.work)

/-- R353, R367, R369, R372: an error in a slice's clean data drops the line, but for the marks of sectors lost before, with the counter raised; an
error in dirty data of the correction class loses the sectors and raises alarm 4, in dirty data of the detection class it leaves sectors whose
check fails. The patrol scrub corrects and counts 1 or 2 erroneous bytes of a sector of the correction class, and reports what it cannot
correct; it reads no stack in self refresh. -/
def Sys2Proof.SliceAndScrubErrors : Prop :=
  ∀ (s : State) (stack granule : Nat), live s = true → stack < 16 →
    let key := stack * 2 ^ 28 + granule % 2 ^ 28
    let l := Tab.get {} s.lines key
    let counted := addFld s (rid .memCacheErr stack) 16 16 1
    let event (t : State) (dirty : Nat) : State :=
      emitFn t 0 0x050B 7 stack (leBytes 1 stack ++ leBytes 1 (lineSet key % 256) ++ leBytes 1 dirty)
    (∀ sectors tagError, l.valid ≠ 0 → l.dirty = 0 →
      Answers (.cacheSliceError stack granule sectors tagError) s (event (invalidate counted key) 0)) ∧
    (l.lost = 0 → Tab.get {} (invalidate counted key).lines key = {}) ∧
    (l.lost ≠ 0 → Tab.get {} (invalidate counted key).lines key = { lost := l.lost, used := l.used }) ∧
    (∀ sectors, l.valid = 255 → l.dirty = 255 → Tab.get 0 s.detect key = 0 →
      Answers (.cacheSliceError stack granule sectors true) s (event (raiseAlarm { counted with
        lines := Tab.set {} s.lines key { l with lost := l.lost ||| 255, valid := 0, dirty := 0 } } 4) 1)) ∧
    (∀ sectors, l.valid = 255 → l.dirty = 255 → Tab.get 0 s.detect key = 255 →
      Answers (.cacheSliceError stack granule sectors true) s (event { invalidate counted key with
        bad := (List.range 8).foldl (fun b k => Tab.set 0 b (sectorKey stack (granule % 2 ^ 28 * 256 + 32 * k)) 3) s.bad } 1)) ∧
    (∀ sectors tagError, l.valid = 0 → Answers (.cacheSliceError stack granule sectors tagError) s s) ∧
    (∀ sector badBytes, sector < 2 ^ 31 → getBit s (rid .memScrubCfg stack) 8 = true → present s 13 stack = true →
      let s0 := if sector = 0 then updStack s stack fun k => { k with scrubHits := [] } else s
      let la := sector * 32
      let n := max badBytes (sectorErrs s stack la)
      ((getStack s stack).thermal = .critical → Answers (.patrolScrub stack sector badBytes) s s) ∧
      ((getStack s stack).thermal ≠ .critical →
        (n = 0 → Answers (.patrolScrub stack sector badBytes) s s0) ∧
        (1 ≤ n → n ≤ 2 → sectorDetect s stack la = false →
          Answers (.patrolScrub stack sector badBytes) s (correctSector s0 stack la)) ∧
        (1 ≤ n → (2 < n ∨ sectorDetect s stack la = true) → Answers (.patrolScrub stack sector badBytes) s
          (reportSector { s0 with bad := Tab.set 0 s.bad (sectorKey stack la) n } 0 stack la 1))))

/-- What a map change, a cache error and the patrol scrub do. -/
def Obligations.MapModesAndErrors : Prop := MapModes ∧ SliceAndScrubErrors

/-- Table 9-5: the state after a reading of `c` degrees. -/
def Sys2Proof.nextThermal (old : Thermal) (c : Nat) : Thermal :=
  match old with
  | .normal => if 105 ≤ c then .critical else if 95 ≤ c then .hot else .normal
  | .hot => if 105 ≤ c then .critical else if c ≤ 90 then .normal else .hot
  | .critical => if c ≤ 90 then .normal else if c ≤ 100 then .hot else .critical
  | .lost => .lost

/-- The code of a thermal state in MEM_THERM_STAT. -/
def Sys2Proof.thermalCode : Thermal → Nat
  | .normal => 0
  | .hot => 1
  | .critical => 2
  | .lost => 3

/-- R370 to R373: a reading moves a stack by Table 9-5 and shows in MEM_THERM_STAT; no other stack's state moves. A stack
critical for 10 s is lost: RETIRED with word 0, and nothing waits for it. What the model chose in it
stands in log entry 29. -/
def Obligations.StackTemperatures : Prop :=
  ∀ (s : State) (stack celsius : Nat), live s = true → stack < 16 →
    (s.buckets = [] → s.heldAccess = [] → Reaches (.stackTemperatureSample stack celsius) s fun t =>
      (getStack t stack).thermal = nextThermal (getStack s stack).thermal celsius ∧
      getFld t (rid .memThermStat stack) 0 8 = min celsius 255 ∧
      (nextThermal (getStack s stack).thermal celsius ≠ (getStack s stack).thermal →
        getFld t (rid .memThermStat stack) 8 2 = thermalCode (nextThermal (getStack s stack).thermal celsius)) ∧
      (∀ k, k ≠ stack → getStack t k = getStack s k) ∧
      t.mem = s.mem ∧ t.work = s.work ∧ t.lines = s.lines) ∧
    (∀ m, (getStack s stack).thermal = .normal → 95 ≤ celsius → celsius < 105 → s.buckets = [] →
      (getStack s stack).margin = some m →
      Reaches (.stackTemperatureSample stack celsius) s fun t => (getStack t stack).margin = some { m with cut := true }) ∧
    ((getStack s stack).thermal = .hot → celsius ≤ 90 → s.buckets = [] → s.heldAccess = [] →
      Reaches (.stackTemperatureSample stack celsius) s fun t =>
        (getEntry t 13 stack).word = 100 ∧ (getEntry t 13 stack).degraded = false) ∧
    ((getStack s stack).thermal = .normal → 95 ≤ celsius → celsius < 105 → s.buckets = [] → s.heldAccess = [] →
      Reaches (.stackTemperatureSample stack celsius) s fun t =>
        (getEntry t 13 stack).word = 50 ∧ (getEntry t 13 stack).degraded = true) ∧
    ((getStack s stack).thermal = .critical → (getStack s stack).criticalSince + 4000000000 ≤ s.time →
      (getStack s stack).held = [] → s.buckets = [] → s.heldAccess = [] →
      Reaches (.stackLost stack) s fun t =>
        (getStack t stack).thermal = .lost ∧ (getStack t stack).held = [] ∧
        getFld t (rid .memThermStat stack) 8 2 = 3 ∧ getFld t (rid .memThermStat stack) 16 16 = 0 ∧
        (getEntry t 13 stack).present = false ∧ (getEntry t 13 stack).retired = true ∧
        (getEntry t 13 stack).degraded = false ∧ (getEntry t 13 stack).word = 0 ∧
        (∀ k, k ≠ stack → getStack t k = getStack s k) ∧ t.mem = s.mem) ∧
    (((getStack s stack).thermal ≠ .critical ∨ s.time < (getStack s stack).criticalSince + 4000000000) →
      Answers (.stackLost stack) s s)

/-- R374 to R376: START of a margin scan with the maintenance token of the stack, present and in the normal state, begins at the
first point below; without them it reads REFUSED. A passed point sets the margin to its step and moves on; a failed one
turns to the other side, and ends the scan there; a stack that has been hot ends it at the next point. -/
def Sys2Proof.MarginScans : Prop :=
  ∀ (s : State) (stack : Nat) (v : W32),
    let r := rid .memMargCtl stack
    let written := setReg s r (writeFields (regFields r) v.toNat (getReg s r))
    (RegReady s 0 r → (getStack s stack).margin = none → flag v.toNat 0 = true → (getStack s stack).thermal = .normal →
      tokenHeld written 3 stack = true → present s 13 stack = true →
      Reaches (.marginScanStart stack v) s fun t =>
        (getStack t stack).margin = some { channel := getFld t r 8 5, above := false, step := 1 } ∧
        getReg t (rid .memMargRes stack) = 0 ∧ getFld t r 13 3 = 0 ∧
        (∀ k, k ≠ stack → getStack t k = getStack s k) ∧ t.mem = s.mem ∧ t.work = s.work) ∧
    (RegReady s 0 r → (getStack s stack).margin = none → flag v.toNat 0 = true →
      (tokenHeld written 3 stack = false ∨ (getStack s stack).thermal ≠ .normal ∨ present s 13 stack = false) →
      Answers (.marginScanStart stack v) s (setBit (setBit written r 0 false) r 14 true)) ∧
    (∀ m pass, live s = true → (getStack s stack).margin = some m →
      let noted := if pass then setFld s (rid .memMargRes stack) (if m.above then 8 else 0) 8 m.step else s
      (m.cut = true →
        Answers (.marginPoint stack pass) s (endMargin noted stack m.channel true)) ∧
      (m.cut = false → pass = true → m.step < 32 → Answers (.marginPoint stack pass) s
        (updStack noted stack fun k => { k with margin := some { m with step := m.step + 1 } })) ∧
      (m.cut = false → (pass = false ∨ 32 ≤ m.step) → m.above = true →
        Answers (.marginPoint stack pass) s (endMargin noted stack m.channel false)) ∧
      (m.cut = false → (pass = false ∨ 32 ≤ m.step) → m.above = false →
        Answers (.marginPoint stack pass) s
          (updStack noted stack fun k => { k with margin := some { m with above := true, step := 1 } })))

/-- R575, R574: START of a field memory test with the stack's token takes the stack out of use and drops its lines without
write-back; at the end every byte of the stack reads 0, the results stand in MEM_TEST_STAT, and the stack is PRESENT
again unless it is lost or was RETIRED meanwhile. -/
def Sys2Proof.FieldMemoryTests : Prop :=
  ∀ (s : State) (stack : Nat) (v : W32), stack < 16 →
    let r := rid .memTestCtl stack
    let written := setReg s r (writeFields (regFields r) v.toNat (getReg s r))
    (RegReady s 0 r → (getStack s stack).test = none → flag v.toNat 0 = true → (getStack s stack).thermal = .normal →
      tokenHeld written 4 stack = true → present s 13 stack = true →
      Reaches (.memTestStart stack v) s fun t =>
        (getStack t stack).test.isSome = true ∧ present t 13 stack = false ∧
        (∀ l, l ∈ t.lines ↔ l ∈ s.lines ∧ l.1 / 2 ^ 28 ≠ stack) ∧ t.mem = s.mem ∧ t.work = s.work) ∧
    (RegReady s 0 r → (getStack s stack).test = none → flag v.toNat 0 = true →
      (tokenHeld written 4 stack = false ∨ (getStack s stack).thermal ≠ .normal ∨ present s 13 stack = false) →
      Answers (.memTestStart stack v) s (setBit (setBit written r 0 false) r 4 true)) ∧
    (∀ test : StackTest, live s = true → test.stack = stack → (getStack s stack).test.isSome = true → test.lost = false →
      Reaches (.memTestDone test) s fun t =>
        (getStack t stack).test = none ∧ present t 13 stack = !(getEntry s 13 stack).retired ∧
        getReg t (rid .memTestStat stack) = min test.repaired 65535 + min test.failed 65535 * 2 ^ 16 ∧
        getBit t r 0 = false ∧ getBit t r 2 = true ∧ getBit t r 3 = false ∧
        (∀ a, Tab.get 0#8 t.mem a = if a / 2 ^ 36 = stack then 0#8 else Tab.get 0#8 s.mem a) ∧
        (∀ k, Tab.get 0 t.bad k = if k / 2 ^ 31 = stack then 0 else Tab.get 0 s.bad k) ∧ t.work = s.work) ∧
    (∀ test : StackTest, live s = true → test.stack = stack → (getStack s stack).test.isSome = true → test.lost = true →
      Reaches (.memTestDone test) s fun t =>
        (getStack t stack).test = none ∧ (getStack t stack).thermal = .lost ∧ present t 13 stack = false ∧
        (getEntry t 13 stack).retired = true ∧ getBit t r 3 = true)

/-- The margin scans and the field memory tests of the stacks. What the model chose in it
stands in log entry 57. -/
def Obligations.MarginScansAndMemoryTests : Prop := MarginScans ∧ FieldMemoryTests

/-! ## Vector programs and the fused update unit (chapters 8 and 10) -/

/-- R130, R322, R323, R327, R329, R337: a VECTOR_PROGRAM on a block whose vector engine is busy waits. An argument with a format byte that is not
allowed is refused with 0x40 before anything else, a header that is not a micro-program's with 0x70; a program whose header, instructions and arguments pass every
check stands in the vector engine, once that has started, at its first instruction, past the iterations already ended, with only its
immediate arguments in its registers. What the model chose in it
stands in log entry 26. -/
def Obligations.VectorProgramsLoad : Prop :=
  ∀ (s : State) (w : Work) (b : Nat), OpReady s .vectorProgram w → w.place = .block b →
    let who := whoOf w
    let code := vaOf (w.desc.W 0)
    let answer := Answers (.vectorProgram w.ring w.index) s
    let refused (t : State) (c : Nat) : Prop := answer (endWork t (((findWork t w.ring w.index).getD w).fail stBad c))
    let good (head : List Byte) : Prop :=
      head.take 4 = [0x56#8, 0x54#8, 0x56#8, 0x50#8] ∧ 1 ≤ leAt head 4 2 ∧ leAt head 4 2 ≤ 1022 ∧ leAt head 6 10 = 0
    ((getBlock s b).vec.isSome = true → answer s) ∧
    (∀ head block t u, (getBlock s b).vec = none → (vread who code 16).on s = (.ok head, t) →
      (vread who (vaOf (w.desc.W 1)) 256).on t = (.ok block, u) →
      let args := (List.range 16).map (vArgOf block)
      (argFormatRefused [] args = true → refused u 0x40) ∧
      (argFormatRefused [] args = false → ¬ good head → refused u 0x70) ∧
      (∀ insts v, argFormatRefused [] args = false → good head →
        (vread who (code + 16) (8 * leAt head 4 2)).on u = (.ok insts, v) →
        let prog := (List.range (leAt head 4 2)).map fun i => leAt insts (8 * i) 8
        let refusal := instrRefused (leAt head 4 2)
        (argFormatRefused prog args = true → refused v 0x40) ∧
        (argFormatRefused prog args = false → prog.any refusal = true → refused v 0x70) ∧
        (argFormatRefused prog args = false → prog.any refusal = false → argsRefused block = true → refused v 0x71) ∧
        (argFormatRefused prog args = false → prog.any refusal = false → argsRefused block = false →
          storeRefused prog args = true → refused v 0x73) ∧
        (∀ x, argFormatRefused prog args = false → prog.any refusal = false → argsRefused block = false →
          storeRefused prog args = false → (checkArgs who args (usedArgs prog)).on v = (.ok (), x) →
          (∀ y, field (w.desc.W 2) 0 32 ≤ w.progress → findWork x w.ring w.index = some y → answer (endWork x y)) ∧
          (∀ y, w.progress < field (w.desc.W 2) 0 32 → (engineStart w 1).on x = (.ok false, y) → answer y) ∧
          (∀ y, w.progress < field (w.desc.W 2) 0 32 → (engineStart w 1).on x = (.ok true, y) →
            ∃ r, answer (updBlock y b fun k => { k with vec := some r }) ∧
              r.ring = w.ring ∧ r.index = w.index ∧ r.prog = prog ∧ r.args = args ∧ r.iterations = field (w.desc.W 2) 0 32 ∧
              r.iter = w.progress ∧ r.pc = 0 ∧ r.executed = 0 ∧ r.v = [] ∧ r.stores = [] ∧ r.popped = [] ∧
              ∀ k, (∃ e, e ∈ r.s ∧ e.1 = k) ↔ (args[k]?.map (·.imm)) = some true))))

/-- The element rule that region `g`'s unit runs is at an operation of code `op`, and the unit may work on it. -/
def Sys2Proof.RuleAt (s : State) (g op : Nat) (w : Work) (r : RuleRun) : Prop :=
  live s = true ∧ (getRegion s g).rule = some r ∧ findWork s r.ring r.index = some w ∧ engineRuns s w = true ∧
  field r.current 0 8 = op

/-- Table 10-4 and R391: each operation reads its operands, computes in FP32 with one rounding, puts the value in register D,
and the next instruction comes; nothing else changes. -/
def Obligations.UpdateRuleOperations : Prop :=
  ∀ (s : State) (g : Nat) (w : Work) (r : RuleRun),
    let i := r.current
    let a := r.operand (field i 13 5)
    let b := r.operand (field i 18 5)
    let c := r.operand (field i 23 5)
    let gives (cmd : Instr) (v : Nat) : Prop := Answers cmd s (updRegion s g fun k =>
      { k with rule := some { r with pc := r.pc + 1, r := Tab.ins r.r (field i 8 5) v } })
    (RuleAt s g 0x01 w r → gives (.ruleAdd g) (fp32.add a b)) ∧
    (RuleAt s g 0x02 w r → gives (.ruleSub g) (fp32.sub a b)) ∧
    (RuleAt s g 0x03 w r → gives (.ruleMul g) (fp32.mul a b)) ∧
    (RuleAt s g 0x04 w r → gives (.ruleFma g) (fp32.fma a b c)) ∧
    (RuleAt s g 0x05 w r → gives (.ruleMin g) (fp32.minOf a b)) ∧
    (RuleAt s g 0x06 w r → gives (.ruleMax g) (fp32.maxOf a b)) ∧
    (RuleAt s g 0x07 w r → gives (.ruleSqrt g) (fp32.sqrt a)) ∧
    (RuleAt s g 0x08 w r → gives (.ruleRcp g) (fp32.rcp a)) ∧
    (RuleAt s g 0x09 w r → gives (.ruleRsqrt g) (fp32.rsqrt a)) ∧
    (RuleAt s g 0x0A w r → gives (.ruleDiv g) (fp32.div a b)) ∧
    (RuleAt s g 0x0B w r → gives (.ruleLerp g) (lerp32 a b c)) ∧
    (RuleAt s g 0x0C w r → gives (.ruleClamp g) (clamp32 a b)) ∧
    (RuleAt s g 0x0D w r → gives (.ruleClipb g) (clipb32 r.nb a b)) ∧
    (RuleAt s g 0x0E w r → gives (.ruleSel g) (select32 a b c)) ∧
    (RuleAt s g 0x0F w r → gives (.ruleCmplt g) (cmplt32 a b))

/-- R389, R390, R392, R394, R398: END takes r1, r2 and r3 as the element's results, and the next element of the block starts with its
gradient, master value and moments in r0 to r3. Behind a block's last element the block commits; behind the last block the
descriptor ends; else the next block is read with all its operands and starts, in sparse-touch mode where its gradient touches it. A
block whose lanes fail their residue check runs again on the operands held, and its descriptor is marked with OK_REPLAYED
and 0x98. -/
def Sys2Proof.RuleEnds : Prop :=
  ∀ (s : State) (g : Nat) (w : Work) (r : RuleRun), RuleAt s g 0x7F w r →
    let q := { r with results := r.results ++ [(r.operand 1, r.operand 2, r.operand 3)] }
    let d := w.desc
    let group := readUpdGrp (whoOf w) (field (d.W 3) 0 16)
    (r.elem + 1 < r.grad.length → Answers (.ruleEnd g) s (updRegion s g fun k =>
      { k with rule := some (RuleRun.load { q with elem := r.elem + 1 }) })) ∧
    (r.grad.length ≤ r.elem + 1 → Upset.update g ∈ s.upsets →
      let found := updWork { s with upsets := s.upsets.erase (.update g) } w.ring w.index fun v => v.also 3 0x98
      Answers (.ruleEnd g) s (updRegion found g fun k => { k with rule := some (RuleRun.startBlock { q with
        replayed := match r.replayed with | some b => some b | none => some r.block }) })) ∧
    (∀ e t c u, r.grad.length ≤ r.elem + 1 → Upset.update g ∉ s.upsets → group.on s = (.ok e, t) →
      (commitBlock w g e q).on t = (.ok c, u) →
      let read (word n : Nat) := readRuleOperand w (e.flagBit 0) (vaOf word) e.log2 c.block n
      (∀ v, r.blocks ≤ r.block + 1 → (ruleDone w g c).on u = (.ok (), v) → Answers (.ruleEnd g) s v) ∧
      (∀ grad master m1 m2 u1 u2 u3 u4, r.block + 1 < r.blocks →
        (read (d.W 2) 0).on u = (.ok grad, u1) → (e.flagBit 0 && allZero grad) = false →
        (read (if vaOf (d.X 1) = 0 then d.W 0 else d.X 1) grad.length).on u1 = (.ok master, u2) →
        (read (d.W 1) grad.length).on u2 = (.ok m1, u3) → (read (d.X 0) grad.length).on u3 = (.ok m2, u4) →
        Answers (.ruleEnd g) s (updRegion u4 g fun k => { k with rule := some (RuleRun.startBlock
          { c with grad := grad, master := master, m1 := m1, m2 := m2 }) })))

/-- R392, R394: a block that commits to a parameter in FP32 or BF16 without a wide copy writes its results at the block's place, in the
parameter's format; a non-finite one with NONFIN_WRITE 0 writes the block's old bytes back there. The block is counted in
RGN_UPD_CNT, among the non-finite ones where it is one, and the next block follows. The model's choices stand in log
entry 30. -/
def Sys2Proof.BlockCommits : Prop :=
  ∀ (s t : State) (w : Work) (g : Nat) (e : UpdGrp) (r : RuleRun) (hg : Hdr × Grp),
    let d := w.desc
    let sparse := e.flagBit 0
    let who := updWho w sparse
    let kept := r.bad && !e.flagBit 1
    let place := hg.1.va + areaOffset hg.1.fmt hg.1.log2 hg.1.elements + r.block * 2 ^ e.log2 * fmtWidth hg.1.fmt / 8
    let done (u : State) (c : RuleRun) : Prop :=
      ∃ c', (commitBlock w g e r).on s = (.ok c', addFld u (rid .rgnUpdCnt g) 0 32 1) ∧
        c'.block = r.block + 1 ∧ c'.nonfin = r.nonfin + bit r.bad ∧ c'.outP = c.outP
    vaOf (d.W 0) ≠ 0 → vaOf (d.W 1) = 0 → vaOf (d.X 0) = 0 → vaOf (d.X 1) = 0 →
    (updHdr who (vaOf (d.W 0))).on s = (.ok hg, t) → hg.1.fmt < 2 → hg.1.wide = false →
    (∀ u, kept = false → (vwrite who place (packArea hg.1.fmt (convertAll fp32 ((fmtBin hg.1.fmt).getD fp32)
        (r.results.map (·.1))).1)).on t = (.ok (), u) → Upset.commit g ∉ u.upsets →
      done u { r with outP := r.outP.add (r.results.map (·.1)) (convertAll fp32 ((fmtBin hg.1.fmt).getD fp32) (r.results.map (·.1))).2 }) ∧
    (∀ old u v, kept = true →
      (vread who place (areaBytes hg.1.fmt (min (2 ^ e.log2) (hg.1.elements - r.block * 2 ^ e.log2)))).on t = (.ok old, u) →
      (vwrite who place old).on u = (.ok (), v) → Upset.commit g ∉ v.upsets →
      done v { r with outP := r.outP.add r.master (keptCensus r.master) })

/-- R130, R383, R384, R389, R393: a region's unit takes its oldest UPDATE_STEP when it runs none: the formats of its group and its operands'
headers are checked, then its group's entry. An element rule then stands in the unit with its program, its schedule values and the
operands of its first block, at that block's first element, where its gradient touches the block or the group is not
sparse-touch; an inverse root is computed at once. -/
def Sys2Proof.UpdateSteps : Prop :=
  ∀ (s : State) (w : Work), OpReady s .updateStep w →
    let g := w.place.regionOf
    let d := w.desc
    let who := whoOf w
    let grp := field (d.W 3) 0 16
    let busy := (getRegion s g).rule.isSome = true ∨ (updWaiting s g).head? ≠ some w
    let answer := Answers (.updateStep w.ring w.index) s
    let checks : Eng (RuleOps × UpdGrp) := do
      let raw ← rawUpdGrp who grp
      raw.forM (groupFormats d)
      let o ← ruleOps who d
      raw.forM fun e => ensure (formatsFit e o) stBad 0x41
      let e ← readUpdGrp who grp
      pure (o, e)
    (busy → answer s) ∧
    (∀ o e u, ¬ busy → checks.on s = (.ok (o, e), u) →
      let t := updStepCount w.t e.stepBase
      let read (word n : Nat) := readRuleOperand w (e.flagBit 0) (vaOf word) e.log2 0 n
      (∀ v, e.kind ≠ 0 → (rootStep w g e t o.p o.m1).on u = (.ok (), v) → answer v) ∧
      (∀ v, e.kind = 0 → (ruleStart w g e t o).on u = (.ok (), v) → answer v) ∧
      (∀ prog sched gh grad master m1 m2 u1 u2 u3 u4 u5 u6 u7, e.kind = 0 →
        (readRule who 32 (vaOf e.prog)).on u = (.ok prog, u1) → (ruleShape e o (field (d.W 3) 16 32)).on u1 = (.ok (), u2) →
        (schedValues who e t [0, 1, 2, 3]).on u2 = (.ok sched, u3) → o.g = some gh → 0 < gh.1.elements →
        (read (d.W 2) 0).on u3 = (.ok grad, u4) → (e.flagBit 0 && allZero grad) = false →
        (read (if vaOf (d.X 1) = 0 then d.W 0 else d.X 1) grad.length).on u4 = (.ok master, u5) →
        (read (d.W 1) grad.length).on u5 = (.ok m1, u6) → (read (d.X 0) grad.length).on u6 = (.ok m2, u7) →
        ∃ r : RuleRun, answer (updRegion u7 g fun k => { k with rule := some r }) ∧
          r.ring = w.ring ∧ r.index = w.index ∧ r.prog = prog ∧ r.sched = sched ∧ r.t = t ∧
          r.blocks = ceilDiv gh.1.elements (2 ^ e.log2) ∧ r.block = 0 ∧
          r.grad = grad ∧ r.master = master ∧ r.m1 = m1 ∧ r.m2 = m2 ∧ r.elem = 0 ∧ r.pc = 0 ∧ r.results = [] ∧
          r.nb = fp32.sqrt (runSquares grad)))

/-- How the fused update unit takes a descriptor and ends its elements, blocks and descriptors. What the model chose in it
stands in log entry 30. -/
def Obligations.UpdateStepsAndEnds : Prop := UpdateSteps ∧ RuleEnds ∧ BlockCommits

/-- R491, R497, R500 to R505: a SNAPSHOT of a step that is not the function's is refused with 0xC8; a full one of this node is written as the first
checkpoint of its chain, with sequence number 1, and the dirty bits of its units are cleared; a SNAPSHOT or SNAPSHOT_RESTORE with a packet on
its way waits for the answer. A SNAPSHOT_RESTORE whose chain holds no checkpoint of the step ends with 0xCB, and one whose
checkpoints are this node's and function's, have the manifest's ranges and pass their digests applies them. -/
def Sys2Proof.SnapshotCommands : Prop :=
  ∀ (s : State) (w : Work),
    let answer := Answers (.snapshot w.ring w.index) s
    let restored := Answers (.snapshotRestore w.ring w.index) s
    let step := field (w.desc.W 2) 0 32
    (∀ im, OpReady s .snapshot w → w.image = some im →
      (recOpen s w.ring w.index = true → answer s) ∧
      (recOpen s w.ring w.index = false → w.file = [] → step ≠ im.step → answer (endWork s (w.fail stBad 0xC8))) ∧
      (∀ es t, recOpen s w.ring w.index = false → w.file = [] → step = im.step → (readManifest w).on s = (.ok es, t) →
        flag (w.desc.W 2) 32 = false →
        (∀ u, (makeCkpt w im es []).on t = (.ok (), u) → answer u) ∧
        (∀ d t1 t2 t3 v, (readRanges w im false (entriesOf es)).on t = (.ok d, t1) → isRemote t1 w = false →
          let bytes := ckptBytes t1 w 1 (es ++ deviceSection t1 w.fn im ++ d.1) (es.length / 16)
          let at_ := vaOf (w.desc.W 1)
          let after := at_ + ckptEnd 0 bytes.length
          (vwrite { whoOf w with snap := true } at_ bytes).on t1 = (.ok (), t2) →
          (clearDirty w d.2).on (voidHeader (fun s => (quiet (vread { whoOf w with snap := true } after 128) s).1.getD [])
            (fun s => (quiet (vwrite { whoOf w with snap := true } after [0#8]) s).2) 1 t2) = (.ok (), t3) →
          findWork t3 w.ring w.index = some v → answer (endWork t3 { v with seqNo := 1 })))) ∧
    (∀ es, ckptPlace s w es [] = (0, 1)) ∧
    (OpReady s .snapshotRestore w →
      (recOpen s w.ring w.index = true → restored s) ∧
      (∀ es t chain, recOpen s w.ring w.index = false → (readManifest w).on s = (.ok es, t) →
        walkChain (chainPart s w) chainMax 0 0 = .ok chain →
        (chainUpTo chain step = none → restored (endWork t (((findWork t w.ring w.index).getD w).fail stAborted 0xCB))) ∧
        (∀ cs bodies u, chainUpTo chain step = some cs →
          (∀ c, c ∈ cs → leAt c.hdr 8 2 = ckptNode s w ∧ leAt c.hdr 7 1 = w.fn ∧ c.entries = es) →
          chainBodies (chainPart s w) cs = .ok bodies →
          (∀ p, p ∈ bodies → p.2.length = p.1.len - 128 ∧ padTo 64 (Config.sha512 p.2) = (p.1.hdr.drop 64).take 64) →
          (applyChain w es bodies).on t = (.ok (), u) → restored u)))

/-- R170, R171: 1 written to TRIPPED clears the trip and the streak, and a limit is taken within 16 to 4,096; nothing but registers
changes. -/
def Sys2Proof.ZeroStreaks : Prop :=
  ∀ (s : State) (fn limit : Nat),
    (RegReady s fn (rid .numZsStat fn) → Reaches (.zeroStreakClear fn) s fun t =>
      getFld t (rid .numZsStat fn) 0 2 = 0 ∧ getFld t (rid .numZsCtl fn) 16 13 = 0 ∧
      getFld t (rid .numZsCtl fn) 0 13 = getFld s (rid .numZsCtl fn) 0 13 ∧ t = { s with regs := t.regs }) ∧
    (RegReady s fn (rid .numZsCtl fn) → Reaches (.zeroStreakLimitWrite fn limit) s fun t =>
      getFld t (rid .numZsCtl fn) 0 13 = min (max (limit % 2 ^ 13) 16) 4096 ∧
      getFld t (rid .numZsCtl fn) 16 13 = getFld s (rid .numZsCtl fn) 16 13 ∧ t = { s with regs := t.regs })

/-- R46, R180: while a wide copy is held, and where the pool would end beyond 1 TiB, a write of the oasis registers is discarded
with its event, one of the high half of the base with the low half that it would have brought; else it takes effect. -/
def Sys2Proof.OasisConfiguration : Prop :=
  ∀ (s : State) (v : W32),
    (RegReady s 0 (rid .numOasisBaseLo) →
      Answers (.oasisConfigWrite .numOasisBaseLo v) s (writePair s (rid .numOasisBaseLo) v.toNat)) ∧
    (∀ r, (r = RegName.numOasisBaseHi ∨ r = RegName.numOasisSize) → RegReady s 0 (rid r) →
      let kept := if r = .numOasisBaseHi then dropLow s (rid .numOasisBaseLo) else s
      let refused := emitFn kept 0 0x0108 5 0 (leBytes 4 (oasisUsed s))
      (0 < oasisUsed s → Answers (.oasisConfigWrite r v) s refused) ∧
      (oasisUsed s = 0 → oasisTooHigh (writePair s (rid r) v.toNat) = true → Answers (.oasisConfigWrite r v) s refused) ∧
      (oasisUsed s = 0 → oasisTooHigh (writePair s (rid r) v.toNat) = false →
        Answers (.oasisConfigWrite r v) s (writePair s (rid r) v.toNat)))

/-- Checkpoints, the zero-streak watcher's registers and the oasis's. What the model chose in it
stands in log entry 34. -/
def Obligations.CheckpointsAndWatchers : Prop := SnapshotCommands ∧ ZeroStreaks ∧ OasisConfiguration

/-! ## Caravans (chapters 8 and 11) -/

/-- The state with a delivered packet taken out of the packets that wait. -/
def Sys2Proof.taken (s : State) (p : Packet) : State := { s with inbox := s.inbox.eraseP fun x => x.2 == p }

/-- A caravan held back: the slot holds its sender, which a hold tells, and an event (R335). -/
def Sys2Proof.heldBack (t : State) (p : Packet) : State :=
  let e := p.typeWord % 512
  let u := updSlot t (e / 4) (e % 4) fun q =>
    { q with hold := true, heldSrcs := if p.src ∈ q.heldSrcs then q.heldSrcs else q.heldSrcs ++ [p.src] }
  emitFn (sendIfRouted u (slotPacket u 0x13 p.src e (txnWord p.txn p.gen))) 0 0x0406 8 (e / 4) (leBytes 2 e ++ leBytes 2 p.src)

/-- R333, R335, R433, R483: a caravan with a key already stored is only confirmed; one for a slot that is not enabled for its function is
DENIED; else it goes behind the on-die queue while that has room and nothing overflows, else behind the overflow queue in device
memory while that has room, with its tokens added and a confirmation sent; and else the slot holds its sender back. -/
def Sys2Proof.CaravanArrivals : Prop :=
  ∀ (s : State) (p : Packet), live s = true → s.failStop = false →
    let t := taken s p
    let e := p.typeWord % 512
    let cfg := getReg s (rid .blkCarCfg (e / 4) (e % 4))
    let q := getSlot s (e / 4) (e % 4)
    let c : Caravan := { src := p.src, txn := p.txn, gen := p.gen, len := p.payload.length }
    let mine := flag cfg 0 = true ∧ field cfg 1 5 = caravanSpace t p
    let fits := q.overflow = [] ∧ queueBytes q.onDie + p.payload.length ≤ onDieBytes s (e / 4) (e % 4)
    let spills := queueBytes q.overflow + p.payload.length ≤ overflowBytes s (e / 4) (e % 4)
    let counted (u : State) : State :=
      sendStored (addCtr (updSlot u (e / 4) (e % 4) fun q => { q with keys := (caravanKey p :: q.keys).take 1024 })
        (field cfg 16 16) (leAt p.payload 0 2)) p
    let put := (putOverflow (e / 4) (e % 4) q.tail p.payload).on t
    (caravanKey p ∈ q.keys → Answers (.caravan p) s (sendStored t p)) ∧
    (caravanKey p ∉ q.keys → ¬ mine → Answers (.caravan p) s (sendIfRouted t (completionPacket t p.src p.txn p.gen
      { status := stDenied, mask := 0, dcode := 0xA3, detail := 0, retried := p.retried }))) ∧
    (caravanKey p ∉ q.keys → mine → fits → Answers (.caravan p) s
      (counted (updSlot t (e / 4) (e % 4) fun q => { q with onDie := q.onDie ++ [{ c with bytes := p.payload }] }))) ∧
    (∀ u, caravanKey p ∉ q.keys → mine → ¬ fits → spills → put = (.ok (), u) → Answers (.caravan p) s
      (counted (updSlot u (e / 4) (e % 4) fun q => { q with
        overflow := q.overflow ++ [{ c with off := q.tail }]
        tail := (q.tail + c.len) % overflowBytes s (e / 4) (e % 4) }))) ∧
    (∀ x u, caravanKey p ∉ q.keys → mine → ¬ fits → spills → put = (.error x, u) → Answers (.caravan p) s (heldBack t p)) ∧
    (caravanKey p ∉ q.keys → mine → ¬ fits → ¬ spills → Answers (.caravan p) s (heldBack t p))

/-- R334, R335, R340, R432: packets move back to the on-die queue in order, while that is at most half full and has room; a hold marks
the sender's record and a resume sends it again; a confirmation ends the send; and BLK_CAR_CFG_s takes a value R340 allows. -/
def Sys2Proof.CaravanSlots : Prop :=
  ∀ (s : State) (p : Packet) (b n : Nat) (v : W32),
    let q := getSlot s b n
    let r := rid .blkCarCfg b n
    (live s = true → b < 128 → n < 4 → issueHold s = false → regionRuns s (b / 8) = true → q.overflow ≠ [] →
      2 * queueBytes q.onDie ≤ onDieBytes s b n →
      Answers (.caravanRefill b n) s (resumeSlot (updBlock ((refillSlot b n q.overflow.length).on s).2 b
        fun k => { k with classPtr := 0 }) b n)) ∧
    (live s = true → (128 ≤ b ∨ 4 ≤ n ∨ q.overflow = [] ∨ onDieBytes s b n < 2 * queueBytes q.onDie) →
      Answers (.caravanRefill b n) s s) ∧
    (∀ fuel c rest bs u, q.overflow = c :: rest → 2 * queueBytes q.onDie ≤ onDieBytes s b n →
      queueBytes q.onDie + c.len ≤ onDieBytes s b n → (getOverflow (overflowWho s b n) b n c).on s = (.ok bs, u) →
      (refillSlot b n (fuel + 1)).on s = (refillSlot b n fuel).on
        (updSlot u b n fun q => { q with onDie := q.onDie ++ [{ c with bytes := bs }], overflow := rest })) ∧
    (∀ fuel c rest, q.overflow = c :: rest → onDieBytes s b n < queueBytes q.onDie + c.len →
      (refillSlot b n fuel).on s = (.ok (), s)) ∧
    (live s = true → s.failStop = false → Answers (.caravanHold p) s
      (updRec (taken s p) (leAt p.payload 4 4 % 2 ^ 20) fun r =>
        if r.gen = leAt p.payload 4 4 / 2 ^ 20 ∧ r.packet.dst = p.src ∧ r.packet.type = 0x40 then { r with heldBy := true } else r)) ∧
    (live s = true → s.failStop = false → Answers (.caravanResume p) s
      ((s.fabRecs.filter fun r => r.heldBy && r.packet.dst == p.src && r.packet.typeWord % 512 == leAt p.payload 0 2).foldl
        resendHeld (taken s p))) ∧
    (∀ f w, live s = true → s.failStop = false → findRec s (leAt p.payload 0 4 % 2 ^ 20) = some f →
      f.gen = leAt p.payload 0 4 / 2 ^ 20 → findWork s f.ring f.index = some w →
      Answers (.caravanStored p) s (recAnswered (taken s p) f
        { status := 0, mask := 0, dcode := 0, detail := min (field (w.desc.W 2) 0 48) (2 ^ 32 - 1),
          retried := flag (leAt p.payload 4 1) 0 || p.retried })) ∧
    (RegReady s 0 r →
      (carRefused s b n v.toNat = true → Answers (.caravanConfigWrite 0 b n v) s
        (emitFn s 0 0x0408 8 b (leBytes 2 b ++ leBytes 1 n))) ∧
      (carRefused s b n v.toNat = false → Answers (.caravanConfigWrite 0 b n v) s
        (setReg s r (writeFields (regFields r) v.toNat (getReg s r)))))

/-- What each packet and register write of a caravan does. What the model chose in it
stands in log entries 20 and 92. -/
def Obligations.Caravans : Prop := CaravanArrivals ∧ CaravanSlots

/-! ## The optical fabric (chapter 11) -/

/-- The fields of a packet lie in the widths of Table 11-4. -/
def Sys2Proof.PacketFits (p : Packet) : Prop :=
  p.dst < 2 ^ 16 ∧ p.src < 2 ^ 16 ∧ p.srcEpoch < 2 ^ 16 ∧ p.type < 2 ^ 8 ∧ p.hops < 32 ∧ p.txn < 2 ^ 20 ∧ p.gen < 2 ^ 12 ∧
  p.typeWord < 2 ^ 16 ∧ p.payload.length < 2 ^ 16

/-- R421, Tables 11-3 and 11-4: a packet comes back from its bytes, and from the bytes of its flits in order: no field is dropped,
whatever its value. -/
def Obligations.PacketsComeBackFromTheirBytes : Prop :=
  ∀ (p : Packet) (tag : Option (Nat × Nat × Nat)), PacketFits p →
    packetOf (packetBytes p) = p ∧ packetOf ((packetFlits p tag).flatMap (·.payload)) = p ∧
    (∀ f, f ∈ packetFlits p tag → f.payload.length = 244)

/-- R404, R405, R407, R410, R411, R414: a port begins training on the causes of R404 and no other, at most once in 1 s for light, and not
without the token for RETRAIN; training that has not ended after 500 ms takes it to DOWN. -/
def Sys2Proof.PortTraining : Prop :=
  ∀ (s : State) (port : Nat), port < 8 →
    let p := getPort s port
    let ctl := rid .portCtl port
    let dark := match p.lastLight with
      | some t => t + 1000 * cyclesPerMs ≤ s.time
      | none => True
    let refused := p.state = .training ∨ p.overTemp = true ∨ tokenHeld s 5 port = false ∨ (getEntry s 14 port).retired = true ∨
      p.state = .disabled
    (∀ c, (getPort (beginTraining s port c) port).state = .training ∧
      getFld (beginTraining s port c) (rid .portStat port) 0 3 = 1 ∧
      ((getPort (beginTraining s port c) port).wasUp = true ↔ c = .linkLoss)) ∧
    (live s = true → s.start.phase = .stage2 → p.state = .down → p.everSettled = false →
      Answers (.portTraining port .stage2) s (beginTraining s port .stage2)) ∧
    (∀ c, (c = .retrain port ∧ RegReady s 0 ctl) ∨ (c = .portTraining port .retrain ∧ live s = true) →
      (¬ refused → Answers c s (beginTraining (setBit (setBit s ctl 2 false) ctl 0 true) port .retrain)) ∧
      (refused → Answers c s (setBit s ctl 2 true))) ∧
    (∀ lanes, live s = true → 4 ≤ lanes → p.state = .down → dark → p.overTemp = false → Answers (.signalDetect port lanes) s
      (beginTraining (updPort s port fun p => { p with lastLight := some s.time }) port .signalDetect)) ∧
    (∀ lanes, live s = true → (lanes < 4 ∨ p.state ≠ .down ∨ ¬ dark ∨ p.overTemp = true) →
      Answers (.signalDetect port lanes) s s) ∧
    (∀ retry, live s = true → p.state = .up → Answers (.linkLoss port retry) s
      (beginTraining (addFld (emitPort s port 0x0705 (leBytes 1 (bit retry))) (rid .portLinkCnt port) 16 8 1) port .linkLoss)) ∧
    (∀ retry, live s = true → p.state ≠ .up → Answers (.linkLoss port retry) s s) ∧
    (∀ step good, live s = true → p.state = .training → 500 * cyclesPerMs ≤ s.time - p.trainAt →
      Answers (.portTrainingTimeout port step good) s (portDown (setFld s (rid .portStat port) 16 10 500) port step good)) ∧
    (∀ step good, live s = true → (p.state ≠ .training ∨ s.time - p.trainAt < 500 * cyclesPerMs) → Answers (.portTrainingTimeout port step good) s s)

/-- R402, R405, R407 to R409, R434, R435: what training found is stored, and the weak feeds told to the partner; a trained port comes UP with the smaller of the two capabilities as its width, the partner's identity in its
registers and a Transom entry that says so; with no width, after 500 ms, or with a partner of this node's own identity, it goes to
DOWN. -/
def Sys2Proof.PortUps : Prop :=
  ∀ (s : State) (port : Nat) (x : Training), port < 8 → live s = true → (getPort s port).state = .training →
    let good := (laneOrder x.goodRx).length
    let width := min (capability good) (capability x.peerCapability)
    let own := x.peerNode = nodeId s ∧ nodeId s ≠ 0xFFFF
    let late := 500 < (s.time - (getPort s port).trainAt) / cyclesPerMs
    let t := trainingFound s port width x
    (getFld t (rid .portStat port) 16 10 = min ((s.time - (getPort s port).trainAt) / cyclesPerMs) 1023) ∧
    (∀ feed power, feed < 2 → x.feeds[feed]? = some power →
      getFld t (rid .portFeedStat port) (16 * feed) 12 = unsigned 12 power) ∧
    (capability good ≤ good ∧ capability good % 4 = 0 ∧ capability good ≤ 16) ∧
    (late → Answers (.portUp port x) s (portDown t port 6 good)) ∧
    (¬ late → width = 0 → Answers (.portUp port x) s (portDown t port 4 good)) ∧
    (¬ late → 0 < width → own → Answers (.portUp port x) s
      (portDown (emitFn t 0 0x070C 14 port (leBytes 2 x.peerNode ++ leBytes 1 1 ++ leBytes 1 port)) port 6 good)) ∧
    (¬ late → 0 < width → ¬ own → Answers (.portUp port x) s (bringUp t port width x)) ∧
    (¬ late → 0 < width → ¬ own → s.fabRecs = [] → x.peerNode < 2 ^ 16 → x.peerEpoch < 2 ^ 16 → x.peerPort < 8 →
      Reaches (.portUp port x) s fun u =>
        (getPort u port).state = .up ∧ (getPort u port).width = width ∧
        (getPort u port).rxMap = (laneOrder x.goodRx).take width ∧ (getPort u port).spares = (laneOrder x.goodRx).drop width ∧
        getFld u (rid .portStat port) 0 3 = 2 ∧ getFld u (rid .portStat port) 4 5 = width ∧
        getFld u (rid .portPeer port) 0 16 = x.peerNode ∧ getFld u (rid .portPeer port) 16 3 = x.peerPort ∧
        getFld u (rid .portPeerEpoch port) 0 16 = x.peerEpoch ∧
        (getEntry u 14 port).present = true ∧ (getEntry u 14 port).word = width ∧
        (getEntry u 14 port).degraded = decide (width < 16) ∧ u.mem = s.mem ∧ u.work = s.work)

/-- R402, R411 to R413: a write of DISABLE with the token closes the port or opens it again; a failed spare is lost, a failed lane is taken
over by the first spare, and without a spare the port is degraded; a weak laser feed is measured and reported. -/
def Sys2Proof.PortService : Prop :=
  ∀ (s : State) (port : Nat), port < 8 →
    let p := getPort s port
    let ctl := rid .portCtl port
    let allowed := tokenHeld s 5 port = true ∧ (getEntry s 14 port).retired = false
    let wrote (d : Bool) := setBit (setBit s ctl 2 false) ctl 1 d
    (RegReady s 0 ctl → ¬ allowed → ∀ d, Answers (.disable port d) s (setBit s ctl 2 true)) ∧
    (RegReady s 0 ctl → allowed → Answers (.disable port true) s (closePort (wrote true) port .disabled)) ∧
    (RegReady s 0 ctl → allowed → p.state = .disabled → Answers (.disable port false) s (setPort (wrote false) port .down)) ∧
    (RegReady s 0 ctl → allowed → p.state ≠ .disabled → Answers (.disable port false) s (wrote false)) ∧
    (∀ l, live s = true → p.state = .up → l ∈ p.spares → Answers (.laneFail port l) s
      (setFld (updPort s port fun p => { p with spares := p.spares.erase l }) (rid .portLaneStat port l) 12 2 2)) ∧
    (∀ l n rest, live s = true → p.state = .up → l ∉ p.spares → l ∈ p.rxMap → p.spares = n :: rest → l < 18 → n < 18 →
      Reaches (.laneFail port l) s fun t =>
        (getPort t port).rxMap = p.rxMap.set (p.rxMap.idxOf l) n ∧ (getPort t port).spares = rest ∧
        (l ≠ n → getFld t (rid .portLaneStat port l) 12 2 = 2) ∧ getFld t (rid .portLaneStat port n) 12 2 = 1 ∧
        (getPort t port).state = .up ∧ (getPort t port).width = p.width ∧ t.mem = s.mem ∧ t.work = s.work) ∧
    (∀ l, live s = true → p.state = .up → p.spares = [] → l ∈ p.rxMap → l ∉ p.degraded → Answers (.laneFail port l) s
      (emitPort (updPort (setFld s (rid .portLaneStat port l) 12 2 2) port fun p => { p with degraded := p.degraded ++ [l] })
        port 0x0704 (leBytes 1 l))) ∧
    (∀ l, live s = true → (p.state ≠ .up ∨ (l ∉ p.spares ∧ l ∉ p.rxMap)) → Answers (.laneFail port l) s s) ∧
    (∀ feed power, live s = true → feed < 2 → power < 1200 → Answers (.laserFeedLow port feed power) s
      (emitPort (setFld s (rid .portFeedStat port) (16 * feed) 12 (unsigned 12 power)) port 0x0706
        (leBytes 1 feed ++ leBytes 2 (unsigned 16 power)))) ∧
    (∀ feed power, live s = true → 1200 ≤ power → Answers (.laserFeedLow port feed power) s s)

/-- How ports train, come UP, and serve. What the model chose in it
stands in log entries 20, 31, 72 and 95. -/
def Obligations.PortsAndLanes : Prop := PortTraining ∧ PortUps ∧ PortService

/-- R415 to R420: a flit whose CRC is wrong, or whose number is not the expected one, is discarded, and the first such one sends a NAK; a
packet flit in sequence is accepted; a NAK or a resend timeout sends the flits again from a number on, or loses the link once
the oldest has been sent 9 times; the timers, of 2 µs and 4 µs, send a NAK or an acknowledgement while there is one to send. What the model chose in it
stands in log entries 20 and 31. -/
def Obligations.LinkLayer : Prop :=
  ∀ (s : State) (port : Nat), port < 8 → live s = true →
    let p := getPort s port
    (∀ type flags seq ack credit payload, (flitBytes type flags seq ack credit payload).length = 256 ∧
      leAt (flitBytes type flags seq ack credit payload) 252 4 = crc32 ((flitBytes type flags seq ack credit payload).take 252)) ∧
    (p.state ≠ .up → ∀ f, Answers (.flitReceive port f) s s) ∧
    (∀ f, p.state = .up → f.length = 256 → leAt f 252 4 ≠ crc32 (f.take 252) →
      Answers (.flitReceive port f) s (discardFlit s port)) ∧
    (∀ f, p.state = .up → f.length = 256 → leAt f 252 4 = crc32 (f.take 252) → flag (leAt f 4 2) 15 = false →
      flag (leAt f 6 2) 15 = false → leAt f 0 1 = 1 →
      Answers (.flitReceive port f) s (pump (if leAt f 2 2 = p.expected
        then acceptFlit s port (leAt f 1 1) ((f.drop 8).take 244) else discardFlit s port) port)) ∧
    (p.nakOut = true → discardFlit s port = s) ∧
    (p.nakOut = false → discardFlit s port = sendNak (updPort s port fun p => { p with nakOut := true }) port) ∧
    (∀ flags bs, flag flags 4 = true → flag flags 3 = true → (acceptFlit s port flags bs).arrived.length = s.arrived.length + 1 ∧
      (getPort (acceptFlit s port flags bs) port).expected = (p.expected + 1) % 4096 ∧
      (getPort (acceptFlit s port flags bs) port).nakOut = false) ∧
    (∀ seq, p.state = .up → retryLimit s port = false → Answers (.nak port seq) s
      (resendFlits (addFld s (rid .portLinkCnt port) 0 16 1) port seq)) ∧
    (∀ seq, p.state = .up → retryLimit s port = true → Answers (.nak port seq) s (linkLost s port true)) ∧
    (∀ f rest, p.state = .up → p.replay = f :: rest → p.ackAt + 1600 ≤ s.time → retryLimit s port = false → Answers (.resendTimeout port) s
      (resendFlits (addFld s (rid .portLinkCnt port) 0 16 1) port f.seq)) ∧
    (∀ f rest, p.state = .up → p.replay = f :: rest → p.ackAt + 1600 ≤ s.time → retryLimit s port = true →
      Answers (.resendTimeout port) s (linkLost s port true)) ∧
    ((p.replay = [] ∨ s.time < p.ackAt + 1600) → Answers (.resendTimeout port) s s) ∧
    (p.state = .up → p.nakOut = true → p.quietAt + 800 ≤ s.time → Answers (.nakRepeatTimer port) s (sendNak s port)) ∧
    ((p.state ≠ .up ∨ p.nakOut = false ∨ s.time < p.quietAt + 800) → Answers (.nakRepeatTimer port) s s) ∧
    (p.state = .up → (0 < p.sinceAck ∨ p.freed ≠ []) → Answers (.ackTimer port) s (sendFlit s port 0 0 0 [])) ∧
    (p.state = .up → p.sinceAck = 0 → p.freed = [] → Answers (.ackTimer port) s s)

/-- R422, R427, R428, R434, R437, R438: where a packet goes: discarded for its type, its source's epoch, its hops or want of a route;
delivered where it is for this node; else out of the routed port with one hop less, or with its hops where this device sends it. -/
def Sys2Proof.RoutedPackets : Prop :=
  ∀ (s : State) (p : Packet) (arrived : Option Nat), live s = true →
    let t := match arrived with
      | some port => { s with arrived := s.arrived.erase (port, p) }
      | none => s
    let gone (u : State) : Prop := Answers (.packetRoute p arrived) s u
    let adopting := getBit s (rid .fabAdopt) 16 = true ∧ p.dst = getFld s (rid .fabAdopt) 0 16 ∧ p.dst ≠ nodeId s
    let fresh := ∀ q, arrived = some q → staleEpoch s q p = false
    (packetClass p.type = none → gone (routeDiscard t p 2)) ∧
    (∀ c q, packetClass p.type = some c → arrived = some q → staleEpoch s q p = true →
      gone (emitPort t q 0x070B (leBytes 2 p.src ++ leBytes 2 p.srcEpoch))) ∧
    (∀ c, packetClass p.type = some c → fresh → nodeId s = 0xFFFF → 2 ≤ c → gone t) ∧
    (∀ c, packetClass p.type = some c → fresh → (nodeId s ≠ 0xFFFF ∨ c < 2) → adopting → gone t) ∧
    (∀ c, packetClass p.type = some c → fresh → (nodeId s ≠ 0xFFFF ∨ c < 2) → ¬ adopting → p.dst = nodeId s →
      gone (deliver t p (arrived.getD 8))) ∧
    (∀ c, packetClass p.type = some c → fresh → (nodeId s ≠ 0xFFFF ∨ c < 2) → ¬ adopting → p.dst ≠ nodeId s →
      (arrived.isSome = true → p.hops = 0 → gone (routeDiscard t p 1)) ∧
      ((arrived = none ∨ p.hops ≠ 0) → routePort s p.dst = none → gone (routeDiscard t p 0)) ∧
      (∀ port, (arrived = none ∨ p.hops ≠ 0) → routePort s p.dst = some port →
        gone (enqueue t port { p with hops := if arrived.isSome then p.hops - 1 else p.hops })))

/-- R426, R429, R434, R436, R437: the route table's data port sets one entry and moves on; FAB_NODE_ID is written once; FAB_ADOPT takes
its fields; and a partner's adoption notice is refused while another port's partner has that identity and as high an epoch,
and else recorded. -/
def Sys2Proof.NodesAndRoutes : Prop :=
  ∀ (s : State) (v : W32),
    let node := getFld s (rid .fabRtAddr) 0 16
    (RegReady s 0 (rid .fabRtData) → s.buckets = [] → Reaches (.routeTableWrite v) s fun t =>
      Tab.get 0 t.routes node = v.toNat % 2 ^ 13 ∧ (∀ n, n ≠ node → Tab.get 0 t.routes n = Tab.get 0 s.routes n) ∧
      getFld t (rid .fabRtAddr) 0 16 = (if getBit s (rid .fabRtAddr) 16 then (node + 1) % 65536 else node) ∧
      t = { s with routes := t.routes, regs := t.regs }) ∧
    (RegReady s 0 (rid .fabNodeId) → nodeId s = 0xFFFF → Answers (.nodeIdWrite v) s (setFld s (rid .fabNodeId) 0 16 (v.toNat % 2 ^ 16))) ∧
    (RegReady s 0 (rid .fabNodeId) → nodeId s ≠ 0xFFFF → Answers (.nodeIdWrite v) s
      (emitHub s 0x070C (leBytes 2 (v.toNat % 2 ^ 16) ++ leBytes 1 0 ++ leBytes 1 0))) ∧
    (RegReady s 0 (rid .fabAdopt) → Answers (.adoptWrite v) s (writeReg s (rid .fabAdopt) v.toNat)) ∧
    (∀ port id epoch, live s = true → port < 8 → (getPort s port).state = .up →
      let t := { s with inbox := s.inbox.eraseP fun x => x.1 == port && x.2.type == 0x11 }
      let other := ∃ q, q ∈ upPorts s ∧ q ≠ port ∧ getFld s (rid .portPeer q) 0 16 = id ∧
        epoch ≤ getFld s (rid .portPeerEpoch q) 0 16
      (other → Answers (.adoptionNotice port id epoch) s (emitFn t 0 0x0709 14 port (leBytes 2 id ++ leBytes 1 1))) ∧
      (¬ other → Answers (.adoptionNotice port id epoch) s
        (resendRecs (emitFn (setFld (setFld t (rid .portPeer port) 0 16 id) (rid .portPeerEpoch port) 0 16 epoch) 0 0x0708 14 port
          (leBytes 2 id ++ leBytes 2 epoch ++ leBytes 1 port)) fun r => r.packet.dst == id)))

/-- How packets are routed, and what the identity and route registers do. What the model chose in it
stands in log entry 31. -/
def Obligations.RoutingAndIdentity : Prop := RoutedPackets ∧ NodesAndRoutes

/-- Table 13-3, R6, R105, R477, R478, R481: an answer whose generation is the record's, with a status that a VT2 writes, ends the
transaction and no other does; a failed send is tried again once after 1 ms, and the second failure loses the peer; a transaction
without an answer in 100 ms is sent four times at most. -/
def Sys2Proof.FabricRecords : Prop :=
  ∀ (s : State) (p : Packet) (r : FabRec) (txn : Nat), live s = true → findRec s txn = some r →
    let t := { s with inbox := s.inbox.eraseP fun x => x.2.type == 0x12 && leAt x.2.payload 0 4 % 2 ^ 20 == txn }
    (s.failStop = false → p.txn = txn → r.gen = p.gen → (answerOf p).status ∈ statusCodes →
      Answers (.remoteCompletion p) s (recAnswered (taken s p) r (answerOf p))) ∧
    (s.failStop = false → p.txn = txn → (r.gen ≠ p.gen ∨ (answerOf p).status ∉ statusCodes) → Answers (.remoteCompletion p) s (taken s p)) ∧
    (r.waiting = false → r.failures = 0 → Answers (.unreachableNotice txn) s
      (updRec t r.txn fun r => { r with waiting := true, failures := 1, sentAt := s.time })) ∧
    (r.waiting = false → 0 < r.failures → Answers (.unreachableNotice txn) s (peerLost t r)) ∧
    (r.waiting = true → Answers (.unreachableNotice txn) s t) ∧
    (r.waiting = true → r.sentAt + cyclesPerMs ≤ s.time → Answers (.unreachableResendDelay txn) s (resendRec s r)) ∧
    ((r.waiting = false ∨ s.time < r.sentAt + cyclesPerMs) → Answers (.unreachableResendDelay txn) s s) ∧
    let due := r.sentAt + 100 * cyclesPerMs ≤ s.time
    ((r.heldBy = true ∨ r.waiting = true ∨ ¬ due) → Answers (.fabricRecordTimeout txn) s s) ∧
    (due → r.heldBy = false → r.waiting = false → r.sends < 4 → Answers (.fabricRecordTimeout txn) s (resendRec s r)) ∧
    (due → r.heldBy = false → r.waiting = false → 4 ≤ r.sends → Answers (.fabricRecordTimeout txn) s (peerLost s r))

/-- R105, R358, R426, R430, R482: a remote descriptor of a node without an address space is DENIED, one of an opcode that is not forwarded is
refused, a MEM_ATOMIC that comes again is answered as before and applied no second time, and a copy's next bytes are asked for
or written; an answer says to its issuer what it carries. -/
def Sys2Proof.RemoteWork : Prop :=
  ∀ (s : State) (p : Packet), live s = true → s.failStop = false →
    let t := taken s p
    let d := remoteDesc p
    let answer (st dc : Nat) : State := answerTo t p.src p.txn p.gen (statusAnswer st dc 0 p.retried)
    (16 < spaceOf s p.src → Answers (.remoteDescriptor p) s (answer stDenied 0xA4)) ∧
    (spaceOf s p.src ≤ 16 →
      opOf d.opcode ≠ some .ringKick → opOf d.opcode ≠ some .eventMark → opOf d.opcode ≠ some .memCopy →
      opOf d.opcode ≠ some .memAtomic → Answers (.remoteDescriptor p) s (answer stBad 0x09)) ∧
    (∀ u, spaceOf s p.src ≤ 16 → opOf d.opcode = some .ringKick →
      (kick (remoteWho (spaceOf s p.src)) true (field (d.W 0) 0 16) (field (d.W 1) 0 32)).on t = (.ok (), u) →
      Answers (.remoteDescriptor p) s (answerTo u p.src p.txn p.gen (statusAnswer 0 0 0 p.retried))) ∧
    (∀ c, spaceOf s p.src ≤ 16 → opOf d.opcode = some .memCopy → copyRefusal d false = some c →
      Answers (.remoteDescriptor p) s (answer stBad c)) ∧
    (∀ a, spaceOf s p.src ≤ 16 → opOf d.opcode = some .memAtomic →
      s.answered.find? (fun a => a.1 == p.src && a.2.1 == p.txn && a.2.2.1 == p.gen) = some a →
      Answers (.remoteDescriptor p) s (answerTo t p.src p.txn p.gen { a.2.2.2 with retried := p.retried })) ∧
    (∀ bs u r w, p.payload.length < 18 → findRec s (leAt p.payload 0 4 % 2 ^ 20) = some r →
      r.gen = leAt p.payload 0 4 / 2 ^ 20 → r.packet.dst = p.src → findWork s r.ring r.index = some w →
      (readOwnPiece w (leAt p.payload 4 8) (leAt p.payload 12 4)).on t = (.ok bs, u) →
      Answers (.memoryReadRequest p) s
        (sendIfRouted u (dataPacket u p.src p.txn p.gen (leAt p.payload 0 4) (leAt p.payload 4 8) 0 0 0 bs))) ∧
    (p.payload.length < 18 → findRec s (leAt p.payload 0 4 % 2 ^ 20) = none → Answers (.memoryReadRequest p) s t) ∧
    (∀ c, flag (leAt p.payload 14 1) 1 = false → flag (leAt p.payload 14 1) 2 = false →
      s.remotes.find? (fun c => c.isFor p.src p.txn && c.gen == p.gen) = some c →
      (leAt p.payload 4 8 ≠ c.asked ∨ leAt p.payload 12 1 ∉ statusCodes) →
      Answers (.memoryData p) s t) ∧
    (∀ c u, flag (leAt p.payload 14 1) 1 = false → flag (leAt p.payload 14 1) 2 = false →
      s.remotes.find? (fun c => c.isFor p.src p.txn && c.gen == p.gen) = some c → leAt p.payload 4 8 = c.asked →
      leAt p.payload 12 1 = 0 → (writeCopyPiece c c.asked (p.payload.drop 16)).on t = (.ok (), u) →
      (copyOps (descOf c.raw none)).len ≤ c.asked + (p.payload.drop 16).length →
      Answers (.memoryData p) s
        (answerTo { u with remotes := u.remotes.filter fun x => !x.isFor c.src c.txn } c.src c.txn c.gen
          (statusAnswer 0 0 (min (copyOps (descOf c.raw none)).outBytes (2 ^ 32 - 1)) (c.retried || p.retried)))) ∧
    (∀ dst txn gen a, a.status < 256 → a.mask < 256 → a.dcode < 256 → a.detail < 2 ^ 32 →
      answerOf (completionPacket s dst txn gen a) = a)

/-- What ends, resends and answers the work that one node does for another. What the model chose in it
stands in log entries 20, 28, 31 and 60. -/
def Obligations.FabricTransactions : Prop := FabricRecords ∧ RemoteWork

/-! ## Gradient collectives (chapter 12) -/

/-- The fields of a chunk packet's header lie in the widths of Table 12-4. -/
def Sys2Proof.HeaderFits (b : Bucket) (phase owner blocks first tscale value escape : Nat) : Prop :=
  b.group < 2 ^ 16 ∧ b.cring < 8 ∧ phase < 8 ∧ b.kind < 4 ∧ b.bucket < 2 ^ 32 ∧ b.stepNo < 2 ^ 32 ∧ b.n < 2 ^ 16 ∧
  b.pos < 2 ^ 16 ∧ b.elements < 2 ^ 64 ∧ owner < 2 ^ 16 ∧ blocks < 2 ^ 16 ∧ first < 2 ^ 32 ∧ tscale < 2 ^ 32 ∧
  value < 2 ^ 32 ∧ escape < 2 ^ 192

/-- Table 12-4: a chunk packet says to its receiver what its sender put into it. -/
def Obligations.ChunksComeBackFromTheirBytes : Prop :=
  ∀ (s : State) (b : Bucket) (dst : Nat) (ccw : Bool) (phase owner blocks first tscale value escape : Nat) (body : List Byte),
    HeaderFits b phase owner blocks first tscale value escape →
    chunkOf (ownPacket s dst 0x30 (chunkHeader b ccw phase owner blocks first tscale value escape ++ body)) =
      { group := b.group, cring := b.cring, ccw := ccw, phase := phase, mode := b.kind + 4 * bit b.mx + 8 * bit b.ordered,
        bucket := b.bucket, step := b.stepNo, n := b.n, owner := owner, srcPos := b.pos, blocks := blocks, first := first,
        elements := b.elements, tscale := tscale, value := value, escape := escape, body := body }

/-- What a COLLECTIVE_STEP reads before its bucket opens: the elements of its source, and the header of its result. -/
def Sys2Proof.bucketReads (w : Work) : Eng (List Nat) := do
  let who := { whoOf w with coll := true }
  let own ← if field (w.desc.W 2) 53 3 = 2 then pure []
    else readTensor who (vaOf (w.desc.W 0)) (fmtOf (w.desc.W 0)) (colElements w.desc) 0xB1
  if flag (fmtOf (w.desc.W 1)) 7 then
    let _ ← readHdr who (vaOf (w.desc.W 1)) (fmtOf (w.desc.W 1)) (some (colElements w.desc)) 0xB1
    pure (own.map toFp32)
  else pure (own.map toFp32)

/-- R443 to R447, R462, R464, R466, R471, R512: a COLLECTIVE_STEP brings its open bucket forward; else it names its bucket in its DETAIL, and
ends with the detail code of the field, the region or the bucket number that stops it, or waits, or opens its bucket: its
source is read, it takes a record, its number is the group's highest, and it sends what it can. -/
def Sys2Proof.CollectiveSteps : Prop :=
  ∀ (s : State) (w : Work), OpReady s .collectiveStep w →
    let mine (b : Bucket) : Bool := b.ring == w.ring && b.index == w.index
    let group := field (w.desc.W 2) 0 16
    let bucket := field (w.desc.W 2) 16 32
    let r := field (w.desc.W 2) 48 3
    let named := updWork s w.ring w.index fun v => { v with detail := bucket }
    let failed (t : State) (st dc : Nat) : State := endWork t (((findWork t w.ring w.index).getD w).fail st dc)
    (∀ b, s.buckets.find? mine = some b → Answers (.collectiveStep w.ring w.index) s (settleBucket s b.fn b.group b.bucket)) ∧
    (∀ e t u, s.buckets.find? mine = none → (readCol { whoOf w with coll := true } group r).on named = (.ok e, t) →
      (colFields w.desc).on t = (.ok (), u) →
      let free := (getRegion u r).retired = false ∧ (getRegion u (r + 8)).retired = false
      let unused := closedMark u w.fn group bucket = none ∧ findBucket u w.fn group bucket = none ∧
        bucketStale u w.fn group bucket = false
      (((getRegion u r).retired = true ∨ (getRegion u (r + 8)).retired = true) →
        Answers (.collectiveStep w.ring w.index) s (failed u stRegion 0xC5)) ∧
      (∀ reason seen, free → closedMark u w.fn group bucket = some (reason, seen) → Answers (.collectiveStep w.ring w.index) s
        (failed (markClosed u w.fn group bucket 0 seen) (if reason = 3 then stAborted else if reason ≠ 0 then stPeer else stBad)
          (if reason = 3 then 0xBA else if reason ≠ 0 then 0xB8 else 0xB3))) ∧
      (free → closedMark u w.fn group bucket = none → (findBucket u w.fn group bucket ≠ none ∨ bucketStale u w.fn group bucket = true) →
        Answers (.collectiveStep w.ring w.index) s (failed u stBad 0xB3)) ∧
      let open' := regionRuns u r = true ∧ regionRuns u (r + 8) = true ∧ (u.buckets.filter fun b => b.cring == r).length < 64 ∧
        colTokenHeld u (e.ring r) = false
      (free → unused → ¬ open' → Answers (.collectiveStep w.ring w.index) s s) ∧
      (∀ own x n y, free → unused → open' → (bucketReads w).on u = (.ok own, x) → takeRec x r = (some n, y) →
        let b := newBucket w e (stepOf y w.fn) y.time n own
        let z := raiseHighest { y with buckets := y.buckets ++ [b] } w.fn group bucket
        (b.prepass = false → Answers (.collectiveStep w.ring w.index) s (releaseStage (startBucket z b))) ∧
        (∀ v, b.prepass = true →
          (vwrite { whoOf w with coll := true } (colVa y w.fn group + 5) (leBytes 1 (setField e.flags 2 1 1))).on z = (.ok (), v) →
          Answers (.collectiveStep w.ring w.index) s (releaseStage (startBucket v b)))) ∧
      (∀ own x y, free → unused → open' → (bucketReads w).on u = (.ok own, x) → takeRec x r = (none, y) →
        Answers (.collectiveStep w.ring w.index) s (recordWait s r))) ∧
    (∀ t x dc, s.buckets.find? mine = none → (readCol { whoOf w with coll := true } group r).on named = (.error (.fail x dc), t) →
      Answers (.collectiveStep w.ring w.index) s (failed t x dc))

/-- What the first withdraw packet of a bucket does besides ending it: it is counted, told, and carried on (R471). -/
def Sys2Proof.withdrawSeen (s : State) (fn : Nat) (p : Packet) : State :=
  let c := chunkOf p
  forwardWithdraw (emitFn (addFld s (rid .colCnt fn) 16 8 1) fn 0x0805 7 c.cring
    (leBytes 2 c.group ++ leBytes 4 c.bucket ++ leBytes 1 (c.value % 256) ++ leBytes 2 p.src)) fn p

/-- R462 to R465, R470, R471: a chunk packet of a node without an address space is dropped; one for a closed or stale bucket is discarded
and counted; one for an open bucket is acted on; and one that comes early is kept in its function's staging area while that has room,
and else waits with its credits. A withdraw packet ends the bucket once, and is carried on once. -/
def Sys2Proof.CollectivePackets : Prop :=
  ∀ (s : State) (p : Packet) (fn : Nat), live s = true → s.failStop = false →
    let c := chunkOf p
    let gone := taken s p
    let closed := (closedMark s fn c.group c.bucket).isSome = true ∨ bucketStale s fn c.group c.bucket = true
    (chunkFn s p.src = none → Answers (.collectiveChunk p) s (releaseStage gone)) ∧
    (chunkFn s p.src = some fn → c.phase ≠ 4 → closed → Answers (.collectiveChunk p) s (releaseStage (staleChunk gone fn p))) ∧
    (∀ b, chunkFn s p.src = some fn → c.phase ≠ 4 → ¬ closed → findBucket s fn c.group c.bucket = some b →
      Answers (.collectiveChunk p) s (releaseStage (if colRuns s b.cring then giveChunk gone b p else s))) ∧
    (chunkFn s p.src = some fn → c.phase ≠ 4 → ¬ closed → findBucket s fn c.group c.bucket = none →
      (∀ o, stagePlace s fn p.payload.length = some o → Answers (.collectiveChunk p) s
        (releaseStage (stagePut (updFn gone fn fun f => { f with staged := f.staged ++ [(o, p)] }) fn o p.payload))) ∧
      (stagePlace s fn p.payload.length = none → Answers (.collectiveChunk p) s (releaseStage s))) ∧
    (chunkFn s p.src = some fn → c.phase = 4 → Answers (.collectiveChunk p) s (releaseStage s)) ∧
    (c.phase ≠ 4 → Answers (.withdraw p) s gone) ∧
    (c.phase = 4 → chunkFn s p.src = none → Answers (.withdraw p) s (releaseStage gone)) ∧
    (c.phase = 4 → chunkFn s p.src = some fn →
      (∀ b, findBucket s fn c.group c.bucket = some b → b.gotWithdraw = true → Answers (.withdraw p) s (releaseStage gone)) ∧
      (∀ b, findBucket s fn c.group c.bucket = some b → b.gotWithdraw = false →
        let m : Bucket := { b with
          gotWithdraw := true
          recvCcw := if c.ccw then b.recvCcw ++ p.payload else b.recvCcw
          recvCw := if c.ccw then b.recvCw else b.recvCw ++ p.payload }
        Answers (.withdraw p) s (releaseStage (withdrawnBucket (withdrawSeen (putBucket gone m) fn p) m (c.value % 256)))) ∧
      (∀ reason, findBucket s fn c.group c.bucket = none → closedMark s fn c.group c.bucket = some (reason, true) →
        Answers (.withdraw p) s (releaseStage (staleChunk gone fn p))) ∧
      (∀ reason, findBucket s fn c.group c.bucket = none → closedMark s fn c.group c.bucket = some (reason, false) →
        Answers (.withdraw p) s (releaseStage (withdrawSeen (markClosed gone fn c.group c.bucket reason true) fn p))) ∧
      (findBucket s fn c.group c.bucket = none → closedMark s fn c.group c.bucket = none →
        (bucketStale s fn c.group c.bucket = true → Answers (.withdraw p) s (releaseStage (staleChunk gone fn p))) ∧
        (bucketStale s fn c.group c.bucket = false → Answers (.withdraw p) s (releaseStage (withdrawSeen
          (markClosed (updFn gone fn fun f => { f with staged := f.staged.filter fun q =>
            !((chunkOf q.2).group == c.group && (chunkOf q.2).bucket == c.bucket) }) fn c.group c.bucket (c.value % 256) true) fn p)))))

/-- R440, R468, R469, R473: the watchdog of a bucket withdraws it at its deadline and not before; a slow-peer notice moves the deadlines of
the group's buckets, never back and never by more than 10 s beyond their own watchdog; and a function with an open bucket
keeps its collective registers. -/
def Sys2Proof.CollectiveTimers : Prop :=
  ∀ (s : State) (fn group bucket : Nat) (b : Bucket), live s = true → findBucket s fn group bucket = some b →
    ((b.met = true ∨ s.time < b.deadline) → Answers (.bucketWatchdog fn group bucket) s s) ∧
    (b.met = false → b.deadline ≤ s.time → Answers (.bucketWatchdog fn group bucket) s
      (releaseStage (withdrawBucket (emitBucket s b 0x0807 []) b stTimeout 0xB9 2))) ∧
    (∀ delay, b.deadline ≤ b.extended s.time delay ∧
      b.extended s.time delay ≤ max b.deadline (b.progressAt + b.wdog * cyclesPerMs + 10000 * cyclesPerMs)) ∧
    (∀ p, s.failStop = false → chunkFn s p.src = some fn →
      let t := emitFn (taken s p) fn 0x070A 1 0 (leBytes 2 (leAt p.payload 0 2) ++ leBytes 2 p.src ++ leBytes 2 (leAt p.payload 2 2)
        ++ leBytes 1 (leAt p.payload 4 1))
      Answers (.slowPeerNotice p) s ((t.buckets.filter fun b => b.fn == fn && b.group == leAt p.payload 0 2 && !b.met).foldl
        (extendBucket (leAt p.payload 2 2) p.src) t))

/-- What opens, feeds and ends the buckets of a collective. What the model chose in it
stands in log entries 17, 20, 32, 60 and 97. -/
def Obligations.Collectives : Prop := CollectiveSteps ∧ CollectivePackets ∧ CollectiveTimers

/-- R473: a write of COL_GRP_BASE, COL_STAGE or COL_DIG of a function with an open bucket is refused; else it takes effect, and
setting EN of COL_DIG starts its count of records afresh. -/
def Obligations.CollectiveRegisters : Prop :=
  ∀ (s : State) (fn : Nat) (r : RegName) (v : W32), RegReady s fn (rid r fn) →
    r ∈ [RegName.colGrpBaseLo, .colGrpBaseHi, .colStageLo, .colStageHi, .colDigLo, .colDigHi] →
    let t := writePair s (rid r fn) v.toNat
    ((∃ b, b ∈ s.buckets ∧ b.fn = fn) → Answers (.collectiveConfigWrite fn r v) s (refusedWrite s fn 3 0 v.toNat)) ∧
    ((∀ b, b ∈ s.buckets → b.fn ≠ fn) → Answers (.collectiveConfigWrite fn r v) s
      (releaseStage (if getBit s (rid .colDigLo fn) 0 = false ∧ getBit t (rid .colDigLo fn) 0 = true
        then setReg t (rid .colDigIdx fn) 0 else t)))

/-! ## Faults, replay and containment (chapter 13) -/

/-- R13, R507: a write of 1 to a latched alarm's bit clears it and its count and nothing else; an unmasked latched alarm sends a message;
an MSI-X message pending on a vector is sent when the vector is unmasked. What the model chose in it
stands in log entry 8. -/
def Obligations.AlarmsAndVectors : Prop :=
  ∀ (s : State) (word : Nat) (v : W32), hostLive s = true →
    (word < 2 → Reaches (.alarmClear word v) s fun t =>
      (∀ c, c < 48 → alarmLatched t c = (alarmLatched s c && !(decide (c / 32 = word) && flag v.toNat (c % 32)))) ∧
      (∀ c, c < 48 → alarmCount t c =
        if alarmLatched s c = true ∧ c / 32 = word ∧ flag v.toNat (c % 32) = true then 0 else alarmCount s c) ∧
      t = { s with regs := t.regs }) ∧
    (word < 2 → Reaches (.alarmMaskWrite word v) s fun t =>
      (∀ c, c < 48 → c / 32 = word → getBit t (rid .hubAlarmMask word) (c % 32) = flag v.toNat (c % 32)) ∧
      (∀ c, c < 48 → alarmLatched t c = alarmLatched s c) ∧ t.mem = s.mem ∧ t.work = s.work) ∧
    (∀ c, c < 48 → c / 32 = word → alarmLatched s c = true → getBit s (rid .hubAlarmMask word) (c % 32) = true →
      flag v.toNat (c % 32) = false → (0, 0) ∈ s.msixOpen →
      Reaches (.alarmMaskWrite word v) s fun t => Out.msix 0 0 ∈ t.out) ∧
    (∀ fn n, (fn, n) ∈ s.msixPending → Reaches (.msixVectorUnmask fn n) s fun t =>
      t.out = .msix fn n :: s.out ∧ (fn, n) ∉ t.msixPending ∧ (fn, n) ∈ t.msixOpen ∧ t.regs = s.regs ∧ t.mem = s.mem) ∧
    (∀ fn n, (fn, n) ∉ s.msixPending → Reaches (.msixVectorUnmask fn n) s fun t =>
      t.out = s.out ∧ t.msixPending = s.msixPending ∧ (fn, n) ∈ t.msixOpen ∧ t.regs = s.regs ∧ t.mem = s.mem)

/-- R30, R479, R480, R506: at fail-stop nothing runs: every descriptor in flight has ended, and alarm class 0 is latched; the
triggers are FLT_CTL.FAILSTOP, a fault of the hub, an uncorrectable record, and a PLL that has not settled after 10 ms. An engine
that waits for a record for over 1 ms raises alarm 15. -/
def Sys2Proof.FailStops : Prop :=
  ∀ (s : State),
    let stopped (t : State) : Prop := t.failStop = true ∧ alarmLatched t 0 = true ∧ (∀ w, w ∈ t.work → w.phase = .done) ∧
      t.counters = s.counters
    (RegReady s 0 (rid .fltCtl) → s.failStop = false → s.buckets = [] → Reaches .failStop s stopped) ∧
    (live s = true → s.failStop = false → s.buckets = [] → Reaches .hubFault s stopped) ∧
    (∀ r, live s = true → s.failStop = false → s.buckets = [] → r < 16 → Reaches (.recordStoreError r) s stopped) ∧
    (∀ pll x, live s = true → s.failStop = false → s.buckets = [] → s.power.pllAt.find? (fun x => x.1 = pll) = some x →
      (x.2 + 10 * cyclesPerMs ≤ s.time → Reaches (.pllRelockTimeout pll) s stopped) ∧
      (s.time < x.2 + 10 * cyclesPerMs → Answers (.pllRelockTimeout pll) s s)) ∧
    (∀ pll, live s = true → s.power.pllAt.find? (fun x => x.1 = pll) = none → Answers (.pllRelockTimeout pll) s s) ∧
    (live s = true → s.failStop = true → Answers .hubFault s s) ∧
    (∀ r t, live s = true → r < 16 → (getRegion s r).recWait = some t →
      (t + cyclesPerMs < s.time → Answers (.recordWaitTimeout r) s (raiseAlarm s 15)) ∧
      (s.time ≤ t + cyclesPerMs → Answers (.recordWaitTimeout r) s s)) ∧
    (∀ r, live s = true → (getRegion s r).recWait = none → Answers (.recordWaitTimeout r) s s)

/-- R485 to R490: a region reset closes the shutters, isolates the region, and keeps a list of the descriptors in flight there; a trigger
during a reset or on a retired region is discarded. At its end a failed check, or a third reset within 10 s, retires the region;
else, 2 ms after its trigger, the shutters open, its leaves are restored, and every descriptor is replayed, withdrawn or rolled
back. -/
def Sys2Proof.RegionResets : Prop :=
  ∀ (s : State) (r : Nat), r < 16 →
    let g := getRegion s r
    let ctl := rid .rgnShutterCtl r
    let begun (t : State) : Prop :=
      (getRegion t r).resetSince = some s.time ∧ (getRegion t r).resetTimes = s.time :: g.resetTimes ∧
      (getRegion t r).rule = none ∧ (getEntry t 7 r).isolated = true ∧ getFld t ctl 0 2 = 3 ∧
      (getRegion t r).atReset = (s.work.filter (Work.inRegion r)).map (fun w => (w.ring, w.index)) ∧
      (∀ b, b / 8 = r → (getBlock t b).vec = none ∧ (getBlock t b).dmu0 = [] ∧ (getBlock t b).dmu1 = [] ∧
        (getBlock t b).pages = []) ∧
      (∀ k, k ≠ r → (getRegion t k).resetSince = (getRegion s k).resetSince ∧ (getRegion t k).retired = (getRegion s k).retired) ∧
      t.mem = s.mem
    (RegReady s 0 ctl → g.resetSince = none → g.retired = false → Reaches (.regionReset r .software) s begun) ∧
    (live s = true → g.resetSince = none → g.retired = false → Reaches (.regionReset r .block) s begun) ∧
    (live s = true → g.resetSince = none → g.retired = false → Reaches (.regionReset r .regionUnit) s begun) ∧
    (∀ c, live s = true → (g.resetSince ≠ none ∨ g.retired = true) → Answers (.regionReset r c) s s) ∧
    (∀ ok, live s = true → g.resetSince = none → Answers (.regionResetComplete r ok) s s) ∧
    (∀ ok, live s = true → g.resetSince ≠ none → (ok = false ∨ thirdReset g = true) →
      Answers (.regionResetComplete r ok) s (retireRegion (setFld s ctl 0 2 1) r)) ∧
    (∀ since, live s = true → g.resetSince = some since → thirdReset g = false →
      (s.time < since + 2 * cyclesPerMs → Answers (.regionResetComplete r true) s s) ∧
      (since + 2 * cyclesPerMs ≤ s.time → Answers (.regionResetComplete r true) s (endReset s r)) ∧
      (since + 2 * cyclesPerMs ≤ s.time → s.buckets = [] → g.lostPages = [] → g.atReset = [] →
        Reaches (.regionResetComplete r true) s fun t =>
          (getRegion t r).resetSince = none ∧ getFld t ctl 0 2 = 0 ∧ (getEntry t 7 r).isolated = false ∧
          (∀ k, k ∈ g.leavesAtReset → (getLeaf t k.1 k.2).state = .programming ∧ (getLeaf t k.1 k.2).restoring = true) ∧
          t.mem = s.mem)) ∧
    (live s = true → g.resetSince ≠ none → s.buckets = [] → (∀ w, w ∈ s.work → w.inRegion r = false) →
      Reaches (.regionResetComplete r false) s fun t =>
        (getRegion t r).retired = true ∧ (getRegion t r).resetSince = none ∧ getBit t ctl 2 = true ∧ getFld t ctl 0 2 = 1 ∧
        (∀ e, e ∈ regionUnits r → (getEntry t e.1 e.2).retired = true ∧ (getEntry t e.1 e.2).present = false) ∧
        t.mem = s.mem ∧ t.work = s.work)

/-- R489: a leaf of a reset region that was VALID is VALID again with its old image where the check accepts it; where it does not,
the leaf stays EMPTY, and the evaluations that waited for it roll their steps back. -/
def Sys2Proof.LeafRestores : Prop :=
  ∀ (s : State) (cell : Nat) (leaf : Leaf) (check : CloneCheck), live s = true →
    let g := getRegion s (cell / 64)
    let waits (w : Work) : Bool := w.awaitLeaf && w.desc.target == cell && (evalOps w.desc).leaf == leaf
    let woken : State :=
      let t := updRegion s (cell / 64) fun g => { g with leavesAtReset := g.leavesAtReset.erase (cell, leaf) }
      let t := { t with work := s.work.map fun w => if waits w then { w with awaitLeaf := false } else w }
      if leaf = .a then updLeaf t cell .b fun x => if x.restoring then { x with since := t.time } else x else t
    let old := getLeaf s cell leaf
    ((cell, leaf) ∉ g.leavesAtReset ∨ g.resetSince ≠ none → Answers (.leafRestoreDone cell leaf check) s s) ∧
    ((cell, leaf) ∈ g.leavesAtReset → g.resetSince = none → old.restoring = false →
      Answers (.leafRestoreDone cell leaf check) s woken) ∧
    ((cell, leaf) ∈ g.leavesAtReset → g.resetSince = none → old.restoring = true → acceptable check = false →
      Answers (.leafRestoreDone cell leaf check) s ((((s.work.filter waits).map (·.fn)).eraseDups).foldl
        (fun t fn => callRollback t fn 6 false)
        (emitFn (updLeaf woken cell leaf fun x => { x with state := .empty, restoring := false }) 0 0x090C 9 cell
          (leBytes 2 cell ++ leBytes 1 (leafBit leaf))))) ∧
    ((cell, leaf) ∈ g.leavesAtReset → g.resetSince = none → old.restoring = true → acceptable check = true →
      Reaches (.leafRestoreDone cell leaf check) s fun t =>
        (getLeaf t cell leaf).state = .valid ∧ (getLeaf t cell leaf).restored = true ∧
        (getLeaf t cell leaf).image = old.image ∧ (getLeaf t cell leaf).imageVa = old.imageVa ∧ t.mem = s.mem)

/-- Fail-stop, region reset and the restoring of leaves. What the model chose in it
stands in log entries 33 and 74. -/
def Obligations.Containment : Prop := FailStops ∧ RegionResets ∧ LeafRestores

/-- R510 to R512, R600, Tables 13-10 and 13-11: a request for the maintenance token is granted in the lowest free slot, or refused with the
slot it conflicts with; a holder gives its own token back; and a lease that has run out frees the slot once the operation is over. -/
def Sys2Proof.MaintenanceTokens : Prop :=
  ∀ (s : State) (act target slot : Nat),
    let want := if deviceWide act then 0 else target
    let asked := setReg s (rid .fltMaintReq) (act % 8 + 65536 * (target % 65536))
    let barred := act = 1 ∧ (s.sec.vendor = true ∨ s.nv.dbgRetired = true)
    let clear := act < 6 ∧ conflictSlot s act want = none ∧ ¬ (act = 5 ∧ portInBucket s want = true) ∧ ¬ barred
    (∀ h t, ((h = .host ∧ RegReady s 0 (rid .fltMaintReq) ∧ t = asked) ∨ (h = .firmware ∧ live s = true ∧ t = s)) →
      (6 ≤ act → Answers (.maintAcquire act target h) s (refuseToken t act want false 0)) ∧
      (∀ n, act < 6 → conflictSlot s act want = some n → Answers (.maintAcquire act target h) s (refuseToken t act want true n)) ∧
      (act = 5 → conflictSlot s act want = none → portInBucket s want = true →
        Answers (.maintAcquire act target h) s (refuseToken t act want true 0)) ∧
      (barred → conflictSlot s act want = none → Answers (.maintAcquire act target h) s (refuseToken t act want false 0)) ∧
      (∀ n, clear → (List.range 8).find? (fun n => !slotHeld s n) = some n →
        Answers (.maintAcquire act target h) s (grantToken t n act want h)) ∧
      (clear → (∀ n, n < 8 → slotHeld s n = true) → Answers (.maintAcquire act target h) s (refuseToken t act want true 0))) ∧
    (∀ n h t, act ≠ 1 → n < 8 → grantToken t n act want h = setReg { setReg t (rid .fltMaintSlot n) (slotWord act want h) with
      leaseAt := Tab.ins t.leaseAt n t.time } (rid .fltMaintRes) (1 + 4 * n)) ∧
    (live s = true → heldBy s slot .firmware = true → Answers (.maintRelease slot .firmware) s
      (setReg s (rid .fltMaintSlot slot) 0)) ∧
    (live s = true → heldBy s slot .firmware = false → Answers (.maintRelease slot .firmware) s s) ∧
    (RegReady s 0 (rid .fltMaintReq) → slot < 8 → heldBy s slot .host = true → Answers (.maintRelease slot .host) s
      (setReg (setReg s (rid .fltMaintReq) (8 + 16 * (slot % 8))) (rid .fltMaintSlot slot) 0)) ∧
    (live s = true → slot < 8 → slotHeld s slot = true →
      getFld s (rid .fltMaintLease) 0 16 * cyclesPerSecond ≤ s.time - Tab.get 0 s.leaseAt slot → operationRuns s slot = false →
      let r := getReg s (rid .fltMaintSlot slot)
      Answers (.maintLeaseExpiry slot) s (emitHub (raiseAlarm (setReg s (rid .fltMaintSlot slot) 0) 14) 0x090A
        (leBytes 1 (field r 1 3) ++ leBytes 2 (field r 16 16) ++ leBytes 1 1))) ∧
    (live s = true → operationRuns s slot = true → Answers (.maintLeaseExpiry slot) s s)

/-- R496, R497, R513: the log is dispatched again while its function replays and nothing holds the engines, and its end is an event; the
registers of the step records are refused while a step replays or descriptors are in flight, and clearing EN drops the
records that are open (the model's choice, log entry 44). -/
def Sys2Proof.StepRecords : Prop :=
  ∀ (s : State) (fn : Nat) (v : W32),
    let f := getFn s fn
    let ctl := rid .fltStepCtl fn
    let busy := getBit s ctl 1 = true ∨ ∃ w, w ∈ s.work ∧ w.fn = fn
    (live s = true → (f.replayActive = false ∨ f.rollWait ≠ none ∨ allHeld s = true ∨ resetHolds s fn = true) →
      Answers (.logRedispatch fn) s s) ∧
    (live s = true → f.replayActive = true → f.rollWait = none → allHeld s = false → resetHolds s fn = false → f.replaying = [] →
      f.oasisFail = none → fn ≤ 16 → Reaches (.logRedispatch fn) s fun t =>
        (getFn t fn).replayActive = false ∧ getBit t ctl 1 = false ∧ t.work = s.work ∧ t.mem = s.mem) ∧
    (RegReady s fn (rid .fltUndoLo fn) → Answers (.stepRecordConfigWrite fn .fltUndoLo v) s (writePair s (rid .fltUndoLo fn) v.toNat)) ∧
    (RegReady s fn (rid .fltLogLo fn) → Answers (.stepRecordConfigWrite fn .fltLogLo v) s (writePair s (rid .fltLogLo fn) v.toNat)) ∧
    (RegReady s fn ctl → busy → Answers (.stepRecordConfigWrite fn .fltStepCtl v) s (refusedWrite s fn 4 0 v.toNat)) ∧
    (RegReady s fn (rid .fltUndoHi fn) → busy → Answers (.stepRecordConfigWrite fn .fltUndoHi v) s
      (refusedWrite (dropLow s (rid .fltUndoLo fn)) fn 4 0 v.toNat)) ∧
    (RegReady s fn (rid .fltUndoHi fn) → ¬ busy → Answers (.stepRecordConfigWrite fn .fltUndoHi v) s (writePair s (rid .fltUndoHi fn) v.toNat)) ∧
    (RegReady s fn ctl → ¬ busy → getBit (writePair s ctl v.toNat) ctl 0 = true →
      Answers (.stepRecordConfigWrite fn .fltStepCtl v) s (writePair s ctl v.toNat)) ∧
    (RegReady s fn ctl → ¬ busy → getBit (writePair s ctl v.toNat) ctl 0 = false →
      Answers (.stepRecordConfigWrite fn .fltStepCtl v) s
        (updFn (writePair s ctl v.toNat) fn fun f => { f with recOpen := false }))

/-- R508: class 12 latches for a peer's alarm; at the end of a class's 1 ms window on a port the occurrences counted meanwhile go
out in one packet, which opens the next window. -/
def Sys2Proof.PeerAlarms : Prop :=
  ∀ (s : State) (p : Packet) (c port : Nat), live s = true →
    let closed := { s with alarmWin := s.alarmWin.filter fun x => !(x.1 == c && x.2.1 == port) }
    let window := s.alarmWin.find? fun w => w.1 == c && w.2.1 == port
    (s.failStop = false → Answers (.peerAlarm p) s (emitHub (latchAlarm (taken s p) 12) 0x090B
      (leBytes 2 p.src ++ leBytes 1 (leAt p.payload 0 1) ++ leBytes 2 (leAt p.payload 2 2)))) ∧
    (window = none → Answers (.alarmPacketWindowEnd c port) s s) ∧
    (∀ w, window = some w → s.time < w.2.2.2 + cyclesPerMs → Answers (.alarmPacketWindowEnd c port) s s) ∧
    (∀ w, window = some w → w.2.2.2 + cyclesPerMs ≤ s.time → (w.2.2.1 = 0 ∨ (getPort s port).state ≠ .up) →
      Answers (.alarmPacketWindowEnd c port) s closed) ∧
    (∀ w, window = some w → w.2.2.2 + cyclesPerMs ≤ s.time → 0 < w.2.2.1 → (getPort s port).state = .up →
      Answers (.alarmPacketWindowEnd c port) s
        (sendAlarm { closed with alarmWin := closed.alarmWin ++ [(c, port, 0, s.time)] } c port w.2.2.1))

/-- The maintenance token, the step records and the alarms of peers. What the model chose in it
stands in log entries 9, 35 and 44. -/
def Obligations.MaintenanceAndRecords : Prop := MaintenanceTokens ∧ StepRecords ∧ PeerAlarms

/-! ## Power, clocks and telemetry (chapter 14) -/

/-- R517 to R522: VR_ALERT# halves the clock at once; once it is released, and HOLD µs have passed, an eighth comes back every 2 µs; a rail's target moves to
the voltage curve by at most 5 mV within 650 to 850 mV, and a write not acknowledged twice is an alarm; a rail whose status word
shows a fault is an alarm, and no other. -/
def Sys2Proof.VoltageRegulators : Prop :=
  ∀ (s : State), live s = true →
    (s.power.vrAlertLow = false → s.power.governor ≤ 8 → Reaches .vrAlertFall s fun t =>
      t.power.vrAlertLow = true ∧ t.power.stretch = 4 ∧ t.power.ramping = false ∧ t.power.governor = s.power.governor ∧
      getFld t (rid .thmStat) 0 4 = min 4 s.power.governor ∧ alarmLatched t 26 = true ∧ t.work = s.work ∧ t.mem = s.mem) ∧
    (s.power.vrAlertLow = true → Answers .vrAlertFall s s) ∧
    (s.power.vrAlertLow = true → Answers .vrAlertRise s (updPower s fun p =>
      { p with vrAlertLow := false, ramping := true, rampAt := s.time + 400 * getFld s (rid .clkStretchCfg) 0 8 })) ∧
    (s.power.vrAlertLow = false → Answers .vrAlertRise s s) ∧
    (s.power.ramping = true → s.power.rampAt ≤ s.time → Answers .stretchRampStep s (syncThm (updPower s fun p =>
      { p with stretch := min 8 (p.stretch + 1), ramping := decide (p.stretch + 1 < 8), rampAt := s.time + 800 }))) ∧
    ((s.power.ramping = false ∨ s.time < s.power.rampAt) → Answers .stretchRampStep s s) ∧
    (∀ now curve, 650 ≤ now → now ≤ 850 →
      650 ≤ avsStep now curve ∧ avsStep now curve ≤ 850 ∧ avsStep now curve ≤ now + 5 ∧ now ≤ avsStep now curve + 5) ∧
    (∀ a b ackA ackB, Answers (.avsUpdate a b ackA ackB) s
      (let t := writeAvs s false (avsStep (avsTarget s false) a) ackA
       writeAvs t true (avsStep (avsTarget t true) b) ackB)) ∧
    (∀ b ack, pendingAvs s b = none → Answers (.avsRetry b ack) s s) ∧
    (∀ b mv, pendingAvs s b = some mv → Reaches (.avsRetry b true) s fun t =>
      pendingAvs t b = none ∧ (mv < 1024 → getFld t (rid .pwrAvsStat) (avsField b) 10 = mv) ∧ t.mem = s.mem) ∧
    (∀ b mv, pendingAvs s b = some mv → Answers (.avsRetry b false) s
      (emitHub (raiseAlarm (setPendingAvs (writeAvs s b mv false) b none) 35) 0x0A04 (leBytes 1 (bit b) ++ leBytes 2 mv))) ∧
    (∀ rail status, s.start.pmbusAddr.getD rail 0 ≠ 0 → status &&& statusFaults ≠ 0 → Answers (.pmbusPoll rail status) s
      (emitHub (raiseAlarm s 27) 0x0A03 (leBytes 1 rail ++ leBytes 2 status))) ∧
    (∀ rail status, (s.start.pmbusAddr.getD rail 0 = 0 ∨ status &&& statusFaults = 0) → Answers (.pmbusPoll rail status) s s)

/-- R524 to R527, R537: a sag of the input below its threshold, and a PLL's loss of lock, hold the issue of work; when every engine has stopped
at a unit boundary that is noted; with the last cause over the stopped descriptors restart. A surge is an alarm. -/
def Sys2Proof.IssueHolds : Prop :=
  ∀ (s : State), live s = true →
    (∀ code, s.power.sagHold = false → vinBelow code (sagThreshold s) = true → Reaches (.inputSag code) s fun t =>
      t.power.sagHold = true ∧ t.power.sagSince = s.time ∧ getBit t (rid .thmStat) 10 = true ∧ alarmLatched t 24 = true ∧
      t.work = s.work ∧ t.mem = s.mem) ∧
    (∀ code, (s.power.sagHold = true ∨ vinBelow code (sagThreshold s) = false) → Answers (.inputSag code) s s) ∧
    (∀ code, s.power.sagHold = true → vinBelow code (sagThreshold s + 4) = false → Answers (.sagRecovery code) s
      (holdEnds (emitHub (updPower s fun p => { p with sagHold := false }) 0x0A01
        (leBytes 1 1 ++ leBytes 3 code ++ leBytes 4 ((s.time - s.power.sagSince) / 400))) 0xD0)) ∧
    (∀ code, (s.power.sagHold = false ∨ vinBelow code (sagThreshold s + 4) = true) → Answers (.sagRecovery code) s s) ∧
    (issueHold s = true → s.power.settled = false → Answers .issueHoldSettled s
      { s with power := { s.power with settled := true }
               work := s.work.map fun w => if engineWork s w then { w with stopped := true } else w }) ∧
    ((issueHold s = false ∨ s.power.settled = true) → Answers .issueHoldSettled s s) ∧
    (∀ code, (208 + getFld s (rid .pwrVinCfg) 8 6) * 2 ^ 23 < 240 * code → Answers (.inputSurge code) s
      (emitHub (raiseAlarm s 25) 0x0A02 (leBytes 4 code))) ∧
    (∀ code, 240 * code ≤ (208 + getFld s (rid .pwrVinCfg) 8 6) * 2 ^ 23 → Answers (.inputSurge code) s s)

/-- R528 to R531: the governor lowers the fraction by an eighth, and no lower than 4/8, while a thermal or current limit is exceeded, sets 4/8 at
105 degrees, raises it by an eighth after 10 calm milliseconds, and else keeps it. -/
def Sys2Proof.Governor : Prop :=
  ∀ (s : State) (hottest mean100 mean1 : Nat), live s = true → s.power.governor ≤ 8 →
    let thermal := getFld s (rid .thmCfg) 0 7 ≤ hottest
    let current := currentCause s mean100 mean1 = true
    let calm := ¬ thermal ∧ ¬ current ∧ comfortable s hottest mean100 mean1 = true
    Reaches (.governorEvaluate hottest mean100 mean1) s fun t =>
      (105 ≤ hottest → t.power.governor = 4) ∧
      (hottest < 105 → thermal ∨ current → t.power.governor = max 4 (s.power.governor - 1)) ∧
      (hottest < 105 → calm → 10 ≤ s.power.calmMs + 1 → s.power.governor < 8 →
        t.power.governor = s.power.governor + 1 ∧ t.power.calmMs = 0) ∧
      (hottest < 105 → calm → s.power.calmMs + 1 < 10 →
        t.power.governor = s.power.governor ∧ t.power.calmMs = s.power.calmMs + 1) ∧
      (hottest < 105 → ¬ thermal → ¬ current → comfortable s hottest mean100 mean1 = false →
        t.power.governor = s.power.governor ∧ t.power.calmMs = 0) ∧
      t.power.stretch = s.power.stretch ∧ t.work = s.work ∧ t.mem = s.mem

/-- R532, R533, R537 to R539, R621: an optical engine at 95 degrees takes its port down until it has cooled to 85; a thermal trip and the loss of
PLL_MGT stop the device, of PLL_HOST its host link, of PLL_FAB its ports, and of any other PLL the issue of work until it has
settled; spread follows its register a step at a time; and a lost rail stops everything but the hub's windows. -/
def Sys2Proof.TripsAndPlls : Prop :=
  ∀ (s : State),
    let pll := rid .clkPllStat
    (Answers .thermtrip s (updPower s fun p => { p with thermtrip := true })) ∧
    (∀ c port, live s = true → port < 8 → c < 85 → (getPort s port).overTemp = false →
      Reaches (.opticalEngineTemperature port c) s fun t =>
        getFld t (rid .portOeTemp port) 0 8 = c ∧ port ∉ t.power.oeWarm ∧ t.ports = s.ports ∧ t.out = s.out) ∧
    (∀ c port, live s = true → port < 8 → 95 ≤ c → (getPort s port).overTemp = false → s.buckets = [] →
      Reaches (.opticalEngineTemperature port c) s fun t =>
        (getPort t port).overTemp = true ∧ port ∈ t.power.oeWarm ∧ alarmLatched t 34 = true ∧
        ((getPort s port).state = .disabled ∨ (getPort t port).state = .down) ∧ t.mem = s.mem ∧ t.work = s.work) ∧
    (∀ x, live s = true → getBit s pll (pllBit x) = false → Answers (.pllLossOfLock x) s s) ∧
    (live s = true → getBit s pll 1 = true → Answers (.pllLossOfLock .mgt) s
      (updPower (setBit s pll 1 false) fun p => { p with mgtLost := true })) ∧
    (live s = true → getBit s pll 0 = true → Answers (.pllLossOfLock .host) s
      (updPower (setBit s pll 0 false) fun p => { p with hostLost := true })) ∧
    (live s = true → getBit s pll 6 = true → Answers (.pllLossOfLock .fab) s
      ((List.range 8).foldl (fun t p => linkLost t p false) (setBit s pll 6 false))) ∧
    (∀ x, live s = true → x = .cmp ∨ x = .net ∨ x = .arr ∨ x = .mem → getBit s pll (pllBit x) = true →
      Reaches (.pllLossOfLock x) s fun t =>
        x ∈ t.power.pllHold ∧ t.power.pllAt = (x, s.time) :: s.power.pllAt ∧ getBit t pll (pllBit x) = false ∧ getBit t (rid .thmStat) 10 = true ∧ alarmLatched t 31 = true ∧
        t.work = s.work ∧ t.mem = s.mem) ∧
    (∀ x, live s = true → x ∈ s.power.pllHold → Answers (.pllRelocked x) s
      (holdEnds (emitHub (updPower (addFld (setBit s pll (pllBit x) true) pll 16 8 1)
        fun p => { p with pllHold := p.pllHold.filter (· ≠ x), pllAt := p.pllAt.filter (·.1 ≠ x) }) 0x0A06 (leBytes 1 (pllBit x) ++ leBytes 1 0)) 0xD1)) ∧
    (∀ x, live s = true → x ∉ s.power.pllHold → Answers (.pllRelocked x) s s) ∧
    (live s = true → Answers (.sscApply true) s
      (updPower s fun p => { p with sscNet := sscStep p.sscNet (getReg s (rid .clkSscNet)) })) ∧
    (live s = true → Answers (.sscApply false) s
      (updPower s fun p => { p with sscCmp := sscStep p.sscCmp (getReg s (rid .clkSscCmp)) })) ∧
    (∀ rail, live s = true → rail < 12 → rail ≠ 5 → rail ≠ 6 → Reaches (.railUndervoltage rail) s fun t =>
      t.power.railStop = true ∧ getFld t pll 2 5 = 0 ∧ alarmLatched t 27 = true ∧ t.out = s.out ∧
      t.msixPending = s.msixPending ∧ t.work = s.work ∧ t.mem = s.mem) ∧
    (∀ rail, live s = true → (rail = 5 ∨ rail = 6 ∨ 12 ≤ rail) → Answers (.railUndervoltage rail) s s)

/-- Regulators and issue holds. What the model chose in it
stands in log entries 36 and 59. -/
def Obligations.RegulatorsAndHolds : Prop := VoltageRegulators ∧ IssueHolds

/-- The governor, the trips and the PLLs. What the model chose in it
stands in log entry 36. -/
def Obligations.GovernorTripsAndPlls : Prop := Governor ∧ TripsAndPlls

/-- R64, R541 to R544: the timer triggers every PERIOD µs and an edge every DIV-th time; a trigger on a converter at rest starts its
delay or its pass, and one during a pass is counted; a pass converts the valid entries of its sequence in order; an urgent request
goes first, and a converter that is disabled refuses it; and 1 ms without an edge is a sync loss, which the next edge ends. -/
def Sys2Proof.ConverterPasses : Prop :=
  ∀ (s : State) (n : Nat), n < 5 →
    let t := getTadc s n
    let stat := rid .tadcStat n
    (t.delaying = true ∨ t.passRunning = true → tadcTrigger s n = addFld s stat 16 16 1) ∧
    (t.delaying = false → t.passRunning = false → getFld s (rid .tadcCtl n) 8 11 = 0 → tadcTrigger s n = startPass s n) ∧
    (t.delaying = false → t.passRunning = false → getFld s (rid .tadcCtl n) 8 11 ≠ 0 →
      (getTadc (tadcTrigger s n) n).delaying = true ∧ (getTadc (tadcTrigger s n) n).delayAt = s.time) ∧
    ((getTadc (startPass s n) n).converting = (tadcSequence s n).head? ∧ (getTadc (startPass s n) n).pass = (tadcSequence s n).drop 1 ∧
      (getTadc (startPass s n) n).delaying = false ∧ (getTadc (startPass s n) n).runs = tadcBy s n) ∧
    let due := t.timerAt + 400 * getFld s (rid .tadcPer n) 0 16 ≤ s.time
    (live s = true → tadcTakes s n = true → (tadcTrig s n = 1 ∨ (2 ≤ tadcTrig s n ∧ syncLost s n = true)) → due →
      Answers (.tadcTimerTrigger n) s (tadcTrigger (updTadc s n fun t => { t with timerAt := s.time }) n)) ∧
    (live s = true → (tadcTakes s n = false ∨ tadcTrig s n = 0 ∨ (2 ≤ tadcTrig s n ∧ syncLost s n = false) ∨ ¬ due) →
      Answers (.tadcTimerTrigger n) s s) ∧
    (∀ rising, live s = true → tadcTakes s n = true → tadcTrig s n = (if rising then 2 else 3) →
      let q := setBit (updTadc s n fun t => { t with edgeAt := s.time }) stat 1 false
      (t.edges + 1 < tadcDiv s n → Answers (.tadcSyncTrigger n rising) s (updTadc q n fun t => { t with edges := t.edges + 1 })) ∧
      (tadcDiv s n ≤ t.edges + 1 → Answers (.tadcSyncTrigger n rising) s
        (tadcTrigger (updTadc q n fun t => { t with edges := 0 }) n))) ∧
    (∀ rising, live s = true → (tadcTakes s n = false ∨ tadcTrig s n ≠ (if rising then 2 else 3)) →
      Answers (.tadcSyncTrigger n rising) s s) ∧
    let delayed := t.delayAt + 4 * getFld s (rid .tadcCtl n) 8 11 ≤ s.time
    (live s = true → tadcRuns s n = true → t.delaying = true → delayed → Answers (.tadcPassStart n) s (startPass s n)) ∧
    (live s = true → (tadcRuns s n = false ∨ t.delaying = false ∨ ¬ delayed) → Answers (.tadcPassStart n) s s) ∧
    (∀ x ch rest, live s = true → tadcRuns s n = true → t.urgent = ch :: rest → ch < 64 →
      Reaches (.tadcConversionDone n x) s fun u =>
        (getTadc u n).urgent = rest ∧ (getTadc u n).converting = t.converting ∧ (getTadc u n).pass = t.pass ∧
        getFld u (rid .tadcRes ch) 0 24 = unsigned 24 x ∧ getFld u (rid .tadcRes ch) 24 3 = tadcBy s n ∧
        getBit u (rid .tadcRes ch) 27 = resultValid s ch ∧ getBit u (rid .tadcRes ch) 28 = true ∧ u.mem = s.mem) ∧
    (∀ x ch, live s = true → tadcRuns s n = true → t.urgent = [] → t.converting = some ch → ch < 64 →
      Reaches (.tadcConversionDone n x) s fun u =>
        (getTadc u n).converting = t.pass.head? ∧ (getTadc u n).pass = t.pass.drop 1 ∧
        ((getTadc u n).passRunning = true ↔ t.pass ≠ []) ∧
        getFld u (rid .tadcRes ch) 0 24 = unsigned 24 x ∧ getFld u (rid .tadcRes ch) 24 3 = t.runs % 8 ∧
        getBit u (rid .tadcRes ch) 27 = resultValid s ch ∧ getBit u (rid .tadcRes ch) 28 = false ∧ u.mem = s.mem) ∧
    (∀ x, live s = true → (tadcRuns s n = false ∨ (t.urgent = [] ∧ t.converting = none)) →
      Answers (.tadcConversionDone n x) s s) ∧
    let silent := t.edgeAt + cyclesPerMs ≤ s.time
    (live s = true → tadcRuns s n = true → 2 ≤ tadcTrig s n → syncLost s n = false → silent → Answers (.tadcSyncLost n) s
      (emitFn (setBit s stat 1 true) 0 0x0A09 2 n (leBytes 1 n))) ∧
    (live s = true → (tadcRuns s n = false ∨ tadcTrig s n < 2 ∨ syncLost s n = true ∨ ¬ silent) →
      Answers (.tadcSyncLost n) s s) ∧
    (∀ v : W32, RegReady s 0 (rid .tadcUrg) → flag v.toNat 31 = true → field v.toNat 8 3 = n → n < 4 →
      (tadcTakes s n = true → Reaches (.tadcUrgentRequest v) s fun u =>
        (getTadc u n).urgent = t.urgent ++ [field v.toNat 0 6] ∧ getBit u (rid .tadcUrg) 31 = true ∧ u.mem = s.mem) ∧
      (tadcTakes s n = false → Answers (.tadcUrgentRequest v) s
        (setFld (setFld s (rid .tadcUrg) 0 6 v.toNat) (rid .tadcUrg) 8 3 n)))

/-- R64, R547 to R550: TADC4 takes over the passes of the converter in turn; 100 ms later a background calibration that passes hands
them back and goes on to the next, and one that fails stops them all and leaves the passes with TADC4; a self-calibration waits
for the passes to be handed back, makes channels 4 to 6 invalid while it runs, and its end sets its coefficients or raises alarm
33. -/
def Sys2Proof.ConverterCalibrations : Prop :=
  ∀ (s : State),
    let scal := rid .tadcScal
    let calm := live s = true ∧ s.power.bgStopped = false ∧ s.power.scalRunning = false
    let due (n : Nat) : Prop := s.power.bgStand = some n ∧ s.power.bgSince + 100 * cyclesPerMs ≤ s.time
    (∀ n a b, calm → n < 4 → tadcRuns s n = true → s.power.bgStand = none → s.power.scalWaits = false → n = s.power.bgConv →
      Answers (.tadcBackgroundCalibration n a b) s (updPower s fun p => { p with bgStand := some n, bgSince := s.time })) ∧
    (∀ n, calm → n < 4 → tadcRuns s n = true → due n → s.power.scalWaits = false →
      Answers (.tadcBackgroundCalibration n true true) s
        (updPower s fun p => { p with bgStand := none, bgConv := (p.bgConv + 1) % 4 })) ∧
    (∀ n, calm → n < 4 → tadcRuns s n = true → due n → s.power.scalWaits = true →
      Reaches (.tadcBackgroundCalibration n true true) s fun t =>
        t.power.bgStand = none ∧ t.power.scalWaits = false ∧ t.power.scalRunning = true ∧
        (∀ c, 4 ≤ c → c ≤ 6 → getBit t (rid .tadcRes c) 27 = false) ∧ t.mem = s.mem) ∧
    (∀ n a b, calm → n < 4 → tadcRuns s n = true → due n → (a = false ∨ b = false) →
      Reaches (.tadcBackgroundCalibration n a b) s fun t =>
        t.power.bgStopped = true ∧ t.power.bgStand = none ∧ getBit t (rid .tadcStat n) 2 = true ∧
        getFld t (rid .tadcStat n) 4 3 = 4 ∧ alarmLatched t 32 = true ∧ t.mem = s.mem) ∧
    (∀ a b, calm → tadcRuns s 4 = true → s.power.bgStand = none → s.power.scalWaits = false →
      (a = true → b = true → Answers (.tadcBackgroundCalibration 4 a b) s s) ∧
      ((a = false ∨ b = false) → Reaches (.tadcBackgroundCalibration 4 a b) s fun t =>
        t.power.bgStopped = true ∧ alarmLatched t 32 = true ∧ t.mem = s.mem)) ∧
    (∀ n a b, live s = true → (s.power.bgStopped = true ∨ s.power.scalRunning = true ∨ 5 ≤ n ∨ tadcRuns s n = false ∨
        (s.power.bgStand = none ∧ (s.power.scalWaits = true ∨ (n ≠ 4 ∧ n ≠ s.power.bgConv))) ∨
        (s.power.bgStand ≠ none ∧ ¬ due n)) →
      Answers (.tadcBackgroundCalibration n a b) s s) ∧
    let rests := s.power.scalRunning = false ∧ s.power.scalWaits = false ∧ tadcTakes s 4 = true
    (RegReady s 0 scal → rests → s.power.bgStand = none → Reaches .selfCalibrationStart s fun t =>
      t.power.scalRunning = true ∧ getBit t scal 0 = true ∧ (∀ c, 4 ≤ c → c ≤ 6 → getBit t (rid .tadcRes c) 27 = false) ∧
      t.mem = s.mem ∧ t.work = s.work) ∧
    (RegReady s 0 scal → rests → s.power.bgStand ≠ none → Answers .selfCalibrationStart s
      (updPower (setBit s scal 0 true) fun p => { p with scalWaits := true })) ∧
    (RegReady s 0 scal → ¬ rests → Answers .selfCalibrationStart s s) ∧
    (∀ rext a b os gs, live s = true → s.power.scalRunning = false → Answers (.selfCalibrationEnd rext a b os gs) s s) ∧
    (∀ rext a b os gs, live s = true → s.power.scalRunning = true → scalFails rext (a - b) = false →
      Reaches (.selfCalibrationEnd rext a b os gs) s fun t =>
        t.power.scalRunning = false ∧ getBit t scal 0 = false ∧ getBit t scal 1 = true ∧ getBit t scal 2 = false ∧
        (∀ c, c < 3 → getFld t (rid .tadcCalOfs c) 0 24 = os.getD c 0 % 2 ^ 24 ∧
          getFld t (rid .tadcCalGain c) 0 24 = gs.getD c 0x400000 % 2 ^ 24) ∧ t.mem = s.mem) ∧
    (∀ rext a b os gs, live s = true → s.power.scalRunning = true → scalFails rext (a - b) = true →
      Reaches (.selfCalibrationEnd rext a b os gs) s fun t =>
        t.power.scalRunning = false ∧ getBit t scal 0 = false ∧ getBit t scal 2 = true ∧ alarmLatched t 33 = true ∧
        (s.power.scalFirst = true → ∀ c, c < 1024 → getBit t (rid .cellCalStat c) 0 = false) ∧ t.mem = s.mem)

/-- The passes and the calibrations of the telemetry converters. What the model chose in it
stands in log entry 37. -/
def Obligations.TelemetryConverters : Prop := ConverterPasses ∧ ConverterCalibrations

/-! ## Security and identity (chapter 16) -/

/-- A security command can run now: the host reaches the device, none is in progress, and the device is not in recovery. -/
def Sys2Proof.SecReady (s : State) : Prop := hostLive s = true ∧ secBusy s = false ∧ s.start.recovery = false

/-- The state in which a security command finds its OP stored. -/
def Sys2Proof.opStored (s : State) (op : Nat) : State := setFld s (rid .secCmd) 0 4 op

/-- R587 to R590, R593: STAGE copies an image that passes every check into the inactive slot, whose trailer is erased first; a refused one
changes neither slot. Its end writes the image, or reports the readback that failed; a repair commit that waited for it is then
carried out. -/
def Sys2Proof.Staging : Prop :=
  ∀ (s : State) (image : List Byte),
    let t := opStored s 1
    let len := getFld t (rid .secXferLen) 0 24
    let img := xferImage t image
    let k := inactiveSlot s
    let why := if imageMax < len then 3 else imageFault s.nv img
    let read := readXfer t len
    (hostLive s = true → secBusy s = false → why ≠ 0 → Answers (.stage image) s
      (emitHub (secFail read why) 0x0C02 (leBytes 1 k ++ leBytes 1 why ++ leBytes 1 (imageSvn img)))) ∧
    (hostLive s = true → secBusy s = false → why = 0 → Reaches (.stage image) s fun u =>
      (u.nv.slot k).bootseq = none ∧ (u.nv.slot k).image = (s.nv.slot k).image ∧ u.nv.slot (1 - k) = s.nv.slot (1 - k) ∧
      u.sec.staging = some img ∧ secBusy u = true ∧ getBit u (rid .secStat) 1 = false ∧ u.mem = s.mem ∧ u.work = s.work) ∧
    (hostLive s = true → secBusy s = true → Answers (.stage image) s s) ∧
    (∀ ok, live s = true → s.sec.staging = none → Answers (.stageDone ok) s s) ∧
    (∀ img, live s = true → s.sec.staging = some img → s.start.recovery = false → Reaches (.stageDone true) s fun u =>
      (u.nv.slot k).image = img ∧ (u.nv.slot k).bootseq = none ∧ u.nv.slot (1 - k) = s.nv.slot (1 - k) ∧
      u.sec.staging = none ∧ secBusy u = false ∧ getBit u (rid .secStat) 1 = true ∧ getBit u (rid .secStat) 0 = false) ∧
    (∀ img, live s = true → s.sec.staging = some img → Reaches (.stageDone false) s fun u =>
      (∀ j, u.nv.slot j = s.nv.slot j) ∧ u.sec.staging = none ∧ secBusy u = false ∧ getBit u (rid .secStat) 0 = true ∧
      getFld u (rid .secStat) 4 4 = 8 ∧
      ((∀ n, n < 8 → getBit s (rid .fltMaintSlot n) 0 = true → getFld s (rid .fltMaintSlot n) 1 3 ≠ 1) → u.nv = s.nv) ∧
      (∀ n, n < 8 → getBit s (rid .fltMaintSlot n) 0 = true → getFld s (rid .fltMaintSlot n) 1 3 = 1 →
        getReg u (rid .fltMaintSlot n) = 0))

/-- R594: ACTIVATE needs the token, a finished start, a staged image and no descriptor in flight, and the hub section's digest; at its end
the staged slot boots next, and its image runs. -/
def Sys2Proof.Activation : Prop :=
  ∀ (s : State),
    let t := opStored s 2
    let k := inactiveSlot s
    let seq := nextBootseq s
    (SecReady s → activateRefused t ≠ 0 → ∀ ok, Answers (.activate ok) s (activateFails t (activateRefused t))) ∧
    (SecReady s → activateRefused t = 0 → Answers (.activate false) s (activateFails t 9)) ∧
    (SecReady s → activateRefused t = 0 → Answers (.activate true) s
      (setBit { t with sec := { t.sec with activating := true } } (rid .secCmd) 31 true)) ∧
    (activateRefused s = 0 ↔ actToken s = true ∧ s.start.phase = .done ∧ getBit s (rid .secStat) 1 = true ∧ s.work = []) ∧
    (∀ failed, live s = true → s.sec.activating = false → Answers (.activationComplete failed) s s) ∧
    (live s = true → s.sec.activating = true → Reaches (.activationComplete []) s fun u =>
      (u.nv.slot k).bootseq = some seq ∧ (u.nv.slot k).image = (s.nv.slot k).image ∧ u.nv.slot (1 - k) = s.nv.slot (1 - k) ∧
      u.sec.activating = false ∧ u.sec.runSvn = imageSvn (s.nv.slot k).image ∧ u.sec.runKey = imageKey (s.nv.slot k).image ∧
      secBusy u = false ∧ getBit u (rid .secStat) 0 = false ∧ getBit u (rid .secStat) 1 = false)

/-- Table 16-4, R585, R601, R602: COMMIT raises the anti-rollback count to the running image's, REVOKE revokes a key that is not in use and not the
last, UNLOCK opens a locked device to a token that is signed and fresh, LOCK locks an open one, and RETIRE empties the leaves, the
clones among them, and retires the device for good; each is refused with its reason and alarm 42, and a fuse that does not read
back is alarm 43 and ends the command where it stands. -/
def Sys2Proof.FuseCommands : Prop :=
  ∀ (s : State), SecReady s →
    let slot := getFld (opStored s 4) (rid .secCmd) 4 2
    let why (t : List Byte) := if dbgState s ≠ 2 then 7 else tokenFault s t
    let cleared (t : State) : Prop := (∀ c l, c < 1024 → getLeaf t c l = {}) ∧ (∀ b, b < 128 → (getBlock t b).cloneLeaf = .empty)
    (∀ n, actToken s = false → Answers (.commit n) s (secFail (opStored s 3) 4)) ∧
    (∀ n, actToken s = true → dbgState s ≠ 2 → Answers (.commit n) s (secFail (opStored s 3) 7)) ∧
    (∀ n, actToken s = true → dbgState s = 2 → s.sec.runSvn < s.nv.arbCount → Answers (.commit n) s (secFail (opStored s 3) 2)) ∧
    (∀ n, actToken s = true → dbgState s = 2 → s.nv.arbCount ≤ s.sec.runSvn → s.sec.runSvn ≤ s.nv.arbCount + n →
      Reaches (.commit n) s fun t =>
        t.nv = { s.nv with arbCount := s.sec.runSvn } ∧ getBit t (rid .secStat) 0 = false ∧ t.mem = s.mem) ∧
    (∀ n, actToken s = true → dbgState s = 2 → s.nv.arbCount + n < s.sec.runSvn → Reaches (.commit n) s fun t =>
      t.nv = { s.nv with arbCount := s.nv.arbCount + n } ∧ getBit t (rid .secStat) 0 = true ∧ getFld t (rid .secStat) 4 4 = 8 ∧
      alarmLatched t 43 = true ∧ t.mem = s.mem) ∧
    (∀ ok, actToken s = false → Answers (.revoke ok) s (secFail (opStored s 4) 4)) ∧
    (∀ ok, actToken s = true → (slot = s.sec.runKey ∨ otherKey s.nv slot = false) →
      Answers (.revoke ok) s (secFail (opStored s 4) 7)) ∧
    (actToken s = true → slot ≠ s.sec.runKey → otherKey s.nv slot = true → Reaches (.revoke true) s fun t =>
      keyRevoked t.nv slot = true ∧ (∀ k, k ≠ slot → keyRevoked t.nv k = keyRevoked s.nv k) ∧
      getBit t (rid .secStat) 0 = false ∧ t.mem = s.mem) ∧
    (actToken s = true → slot ≠ s.sec.runKey → otherKey s.nv slot = true → keyRevoked s.nv slot = false →
      Answers (.revoke false) s (fuseFails (opStored s 4) 1 slot)) ∧
    (∀ token nonce, why token ≠ 0 → Reaches (.unlock token nonce) s fun t =>
      t.sec.vendor = s.sec.vendor ∧ t.sec.nonce = padTo 8 nonce ∧ getBit t (rid .secStat) 0 = true ∧ alarmLatched t 42 = true ∧
      t.nv = s.nv) ∧
    (∀ token nonce, why token = 0 → Reaches (.unlock token nonce) s fun t =>
      t.sec.vendor = true ∧ t.sec.nonce = padTo 8 nonce ∧ getBit t (rid .secStat) 0 = false ∧ alarmLatched t 41 = true ∧
      t.nv = s.nv) ∧
    (∀ ok, dbgState s ≠ 0 → Answers (.lock ok) s (secFail (opStored s 6) 7)) ∧
    (dbgState s = 0 → Reaches (.lock true) s fun t =>
      t.nv = { s.nv with dbgLocked := true } ∧ dbgState t = 2 ∧ getBit t (rid .secStat) 0 = false) ∧
    (dbgState s = 0 → Answers (.lock false) s (fuseFails (opStored s 6) 2 0)) ∧
    (∀ ok, actToken s = false → Answers (.retire ok) s (secFail (opStored s 7) 4)) ∧
    (∀ ok, actToken s = true → dbgState s ≠ 1 → dbgState s ≠ 2 → Answers (.retire ok) s (secFail (opStored s 7) 7)) ∧
    (actToken s = true → (dbgState s = 1 ∨ dbgState s = 2) → Reaches (.retire none) s fun t =>
      dbgState t = 3 ∧ t.nv = { s.nv with dbgRetired := true, idSeed := List.replicate 32 0xFF#8 } ∧ cleared t ∧
      getBit t (rid .secStat) 0 = false) ∧
    (actToken s = true → (dbgState s = 1 ∨ dbgState s = 2) → Reaches (.retire (some 0)) s fun t =>
      t.nv = s.nv ∧ cleared t ∧ getBit t (rid .secStat) 0 = true ∧ alarmLatched t 43 = true) ∧
    (∀ b, b < 256 → actToken s = true → (dbgState s = 1 ∨ dbgState s = 2) → Reaches (.retire (some (b + 1))) s fun t =>
      dbgState t = 3 ∧ t.nv = { s.nv with dbgRetired := true, idSeed := blowSeed s.nv.idSeed b } ∧ cleared t ∧
      getBit t (rid .secStat) 0 = true ∧ alarmLatched t 43 = true)

/-- Image staging, activation and the fuse commands. What the model chose in it
stands in log entries 41 and 56. -/
def Obligations.SecurityCommands : Prop := Staging ∧ Activation ∧ FuseCommands

/-- R585: fuses are only ever blown: over every step the anti-rollback count does not fall, a revoked key stays revoked, and a locked or
retired device stays so. -/
def Obligations.FusesAreOnlyBlown : Prop :=
  ∀ s t : State, step s = .next t →
    s.nv.arbCount ≤ t.nv.arbCount ∧ (∀ k, keyRevoked s.nv k = true → keyRevoked t.nv k = true) ∧
    (s.nv.dbgLocked = true → t.nv.dbgLocked = true) ∧ (s.nv.dbgRetired = true → t.nv.dbgRetired = true)

/-- R561, R597 to R599, R602, Table 16-5: each SPDM request that the responder answers on its path gets its response, a request for a slot or
measurement that does not exist or of another code gets an error, and a retired device answers nothing but GET_VERSION. -/
def Sys2Proof.SpdmAnswers : Prop :=
  ∀ (s : State) (path : SpdmPath),
    let on := spdmOn s path = true
    let alive := spdmOn s path = true ∧ s.nv.dbgRetired = false
    let error := send s (.spdmError path 7)
    (on → Answers (.getVersion path) s (send s (.spdm path 0x84 (leBytes 2 0x1300)))) ∧
    (alive → Answers (.getCapabilities path) s (send s (.spdm path 0xE1 (leBytes 4 22)))) ∧
    (alive → Answers (.negotiateAlgorithms path) s
      (send s (.spdm path 0xE3 (ascii ['E', 'd', '2', '5', '5', '1', '9', 'S', 'H', 'A', '5', '1', '2'])))) ∧
    (alive → Answers (.getDigests path) s (send s (.spdm path 0x81 (leBytes 1 1 ++ padTo 64 (Config.sha512 s.nv.certChain))))) ∧
    (∀ off len, alive → Answers (.getCertificate path 0 off len) s
      (send s (.spdm path 0x82 ((s.nv.certChain.drop off).take len)))) ∧
    (∀ slot off len, alive → slot ≠ 0 → Answers (.getCertificate path slot off len) s error) ∧
    (∀ nonce, alive → Answers (.challenge path 0 nonce) s
      (signedReply s path 0x83 nonce (padTo 64 (Config.sha512 s.nv.certChain)))) ∧
    (∀ slot nonce, alive → slot ≠ 0 → Answers (.challenge path slot nonce) s error) ∧
    (∀ op nonce, alive → s.sec.activating = true → Answers (.getMeasurements path op nonce) s (send s (.spdmError path 3))) ∧
    (∀ nonce, alive → s.sec.activating = false → Answers (.getMeasurements path 0 nonce) s
      (signedReply s path 0xE0 nonce (leBytes 1 (measurements s).length))) ∧
    (∀ nonce, alive → s.sec.activating = false → Answers (.getMeasurements path 255 nonce) s
      (signedReply s path 0xE0 nonce (leBytes 1 (measurements s).length ++ (measurements s).flatMap measBytes))) ∧
    (∀ op nonce m, alive → s.sec.activating = false → op ≠ 0 → op ≠ 255 → (measurements s).find? (fun m => m.index == op) = some m →
      Answers (.getMeasurements path op nonce) s (signedReply s path 0xE0 nonce (leBytes 1 1 ++ measBytes m))) ∧
    (∀ code, alive → code < 256 → Answers (.spdmUnsupportedRequest path code) s error) ∧
    (on → s.nv.dbgRetired = true → (∀ code, Answers (.spdmUnsupportedRequest path code) s error) ∧
      Answers (.getCapabilities path) s error ∧ Answers (.negotiateAlgorithms path) s error ∧ Answers (.getDigests path) s error ∧
      (∀ slot off len, Answers (.getCertificate path slot off len) s error) ∧
      (∀ slot nonce, Answers (.challenge path slot nonce) s error) ∧
      (∀ op nonce, Answers (.getMeasurements path op nonce) s error))

/-- R616, Table 16-7: Test-Logic-Reset selects IDCODE; an instruction is taken where the debug state allows it, and one that drives
a land or enters internal state only while PERST# is asserted; a retired device takes IDCODE and BYPASS alone. -/
def Sys2Proof.TestPort : Prop :=
  ∀ (s : State),
    Answers .tapReset s { s with tap := {} } ∧
    (∀ op, jtagAllowed (dbgState s) op = true → (s.start.perst = true ∨ jtagDrives op = false) →
      Answers (.jtagInstruction op) s { s with tap := { instruction := op } }) ∧
    (∀ op, (jtagAllowed (dbgState s) op = false ∨ (s.start.perst = false ∧ jtagDrives op = true)) →
      Answers (.jtagInstruction op) s s) ∧
    (s.nv.dbgRetired = true → ∀ op, jtagAllowed (dbgState s) op = true ↔ op = .idcode ∨ op = .bypass)

/-- The SPDM responder and the test access port. What the model chose in it
stands in log entries 4 and 41. -/
def Obligations.AttestationAndTestPort : Prop := SpdmAnswers ∧ TestPort

/-! ## Number formats (chapter 4) -/

/-- The binary floating-point formats of the elements and of the arithmetic. -/
def Sys2Proof.formats : List Bin := [fp32, fp64, bf16, fp16, e4m3, e5m2, e3m2, e2m3, e2m1]

/-- How far a code's value lies from a value. -/
def Sys2Proof.farFrom (f : Bin) (v : Val) (code : Nat) : Val := ((f.decode code).add v.neg).abs

/-- R132: a finite value converted into a format gives the nearest finite value of the format, the largest one where it lies beyond;
of two equally near the one whose code is even. -/
def Obligations.ConversionsRoundToNearestEven : Prop :=
  ∀ (f : Bin) (neg : Bool) (m : Nat) (e : Int), f ∈ formats →
    let v : Val := .fin neg m e
    let r := (f.convert v).code
    r < 2 ^ f.width ∧ (f.decode r).isFin = true ∧
    ∀ c, c < 2 ^ f.width → (f.decode c).isFin = true →
      (farFrom f v r).le (farFrom f v c) = true ∧
      ((farFrom f v c).le (farFrom f v r) = true → (f.decode c).cmp (f.decode r) = some .eq ∨ r % 2 = 0)

/-- R132, R133: the value of every finite code converts to that code, neither saturated nor counted as non-finite; so a value that a
format holds exactly is never changed by a conversion into it, a zero's sign included. -/
def Obligations.CodesConvertToThemselves : Prop :=
  ∀ (f : Bin) (c : Nat), f ∈ formats → c < 2 ^ f.width → (f.decode c).isFin = true →
    f.convert (f.decode c) = ⟨c, false, false⟩ ∧ f.round (f.decode c) = c
end

