-- ==== Sys2Proof/Laws/State.lean ====
section
/-! SUPPORT. What each named update of the state leaves as it was: one lemma for each field and update. -/

namespace Sys2Proof.Machine

/-! ## `setReg` -/

@[simp] theorem setReg_pending (s : State) (r : RegId) (v : Nat) : (setReg s r v).pending = s.pending := rfl
@[simp] theorem setReg_time (s : State) (r : RegId) (v : Nat) : (setReg s r v).time = s.time := rfl
@[simp] theorem setReg_free (s : State) (r : RegId) (v : Nat) : (setReg s r v).free = s.free := rfl
@[simp] theorem setReg_out (s : State) (r : RegId) (v : Nat) : (setReg s r v).out = s.out := rfl
@[simp] theorem setReg_heldLow (s : State) (r : RegId) (v : Nat) : (setReg s r v).heldLow = s.heldLow := rfl
@[simp] theorem setReg_shadow (s : State) (r : RegId) (v : Nat) : (setReg s r v).shadow = s.shadow := rfl
@[simp] theorem setReg_heldAccess (s : State) (r : RegId) (v : Nat) : (setReg s r v).heldAccess = s.heldAccess := rfl
@[simp] theorem setReg_start (s : State) (r : RegId) (v : Nat) : (setReg s r v).start = s.start := rfl
@[simp] theorem setReg_nv (s : State) (r : RegId) (v : Nat) : (setReg s r v).nv = s.nv := rfl
@[simp] theorem setReg_transom (s : State) (r : RegId) (v : Nat) : (setReg s r v).transom = s.transom := rfl
@[simp] theorem setReg_startLog (s : State) (r : RegId) (v : Nat) : (setReg s r v).startLog = s.startLog := rfl
@[simp] theorem setReg_startLost (s : State) (r : RegId) (v : Nat) : (setReg s r v).startLost = s.startLost := rfl
@[simp] theorem setReg_startLostFirst (s : State) (r : RegId) (v : Nat) : (setReg s r v).startLostFirst = s.startLostFirst := rfl
@[simp] theorem setReg_startLostLast (s : State) (r : RegId) (v : Nat) : (setReg s r v).startLostLast = s.startLostLast := rfl
@[simp] theorem setReg_alarmWin (s : State) (r : RegId) (v : Nat) : (setReg s r v).alarmWin = s.alarmWin := rfl
@[simp] theorem setReg_msixOpen (s : State) (r : RegId) (v : Nat) : (setReg s r v).msixOpen = s.msixOpen := rfl
@[simp] theorem setReg_msixPending (s : State) (r : RegId) (v : Nat) : (setReg s r v).msixPending = s.msixPending := rfl
@[simp] theorem setReg_numVfs (s : State) (r : RegId) (v : Nat) : (setReg s r v).numVfs = s.numVfs := rfl
@[simp] theorem setReg_bar4Log (s : State) (r : RegId) (v : Nat) : (setReg s r v).bar4Log = s.bar4Log := rfl
@[simp] theorem setReg_fns (s : State) (r : RegId) (v : Nat) : (setReg s r v).fns = s.fns := rfl
@[simp] theorem setReg_rings (s : State) (r : RegId) (v : Nat) : (setReg s r v).rings = s.rings := rfl
@[simp] theorem setReg_counters (s : State) (r : RegId) (v : Nat) : (setReg s r v).counters = s.counters := rfl
@[simp] theorem setReg_groupPtr (s : State) (r : RegId) (v : Nat) : (setReg s r v).groupPtr = s.groupPtr := rfl
@[simp] theorem setReg_credits (s : State) (r : RegId) (v : Nat) : (setReg s r v).credits = s.credits := rfl
@[simp] theorem setReg_ringPtrs (s : State) (r : RegId) (v : Nat) : (setReg s r v).ringPtrs = s.ringPtrs := rfl
@[simp] theorem setReg_vecPlacePtr (s : State) (r : RegId) (v : Nat) : (setReg s r v).vecPlacePtr = s.vecPlacePtr := rfl
@[simp] theorem setReg_work (s : State) (r : RegId) (v : Nat) : (setReg s r v).work = s.work := rfl
@[simp] theorem setReg_nextOrder (s : State) (r : RegId) (v : Nat) : (setReg s r v).nextOrder = s.nextOrder := rfl
@[simp] theorem setReg_mem (s : State) (r : RegId) (v : Nat) : (setReg s r v).mem = s.mem := rfl
@[simp] theorem setReg_hostMem (s : State) (r : RegId) (v : Nat) : (setReg s r v).hostMem = s.hostMem := rfl
@[simp] theorem setReg_detect (s : State) (r : RegId) (v : Nat) : (setReg s r v).detect = s.detect := rfl
@[simp] theorem setReg_bad (s : State) (r : RegId) (v : Nat) : (setReg s r v).bad = s.bad := rfl
@[simp] theorem setReg_writers (s : State) (r : RegId) (v : Nat) : (setReg s r v).writers = s.writers := rfl
@[simp] theorem setReg_upsets (s : State) (r : RegId) (v : Nat) : (setReg s r v).upsets = s.upsets := rfl
@[simp] theorem setReg_lines (s : State) (r : RegId) (v : Nat) : (setReg s r v).lines = s.lines := rfl
@[simp] theorem setReg_useClock (s : State) (r : RegId) (v : Nat) : (setReg s r v).useClock = s.useClock := rfl
@[simp] theorem setReg_tlbs (s : State) (r : RegId) (v : Nat) : (setReg s r v).tlbs = s.tlbs := rfl
@[simp] theorem setReg_atsOn (s : State) (r : RegId) (v : Nat) : (setReg s r v).atsOn = s.atsOn := rfl
@[simp] theorem setReg_ats (s : State) (r : RegId) (v : Nat) : (setReg s r v).ats = s.ats := rfl
@[simp] theorem setReg_hostErr (s : State) (r : RegId) (v : Nat) : (setReg s r v).hostErr = s.hostErr := rfl
@[simp] theorem setReg_inval (s : State) (r : RegId) (v : Nat) : (setReg s r v).inval = s.inval := rfl
@[simp] theorem setReg_mapBusy (s : State) (r : RegId) (v : Nat) : (setReg s r v).mapBusy = s.mapBusy := rfl
@[simp] theorem setReg_oasis (s : State) (r : RegId) (v : Nat) : (setReg s r v).oasis = s.oasis := rfl
@[simp] theorem setReg_oasisPtr (s : State) (r : RegId) (v : Nat) : (setReg s r v).oasisPtr = s.oasisPtr := rfl
@[simp] theorem setReg_tags (s : State) (r : RegId) (v : Nat) : (setReg s r v).tags = s.tags := rfl
@[simp] theorem setReg_hbm (s : State) (r : RegId) (v : Nat) : (setReg s r v).hbm = s.hbm := rfl
@[simp] theorem setReg_cells (s : State) (r : RegId) (v : Nat) : (setReg s r v).cells = s.cells := rfl
@[simp] theorem setReg_blocks (s : State) (r : RegId) (v : Nat) : (setReg s r v).blocks = s.blocks := rfl
@[simp] theorem setReg_regions (s : State) (r : RegId) (v : Nat) : (setReg s r v).regions = s.regions := rfl
@[simp] theorem setReg_ports (s : State) (r : RegId) (v : Nat) : (setReg s r v).ports = s.ports := rfl
@[simp] theorem setReg_fabricPtr (s : State) (r : RegId) (v : Nat) : (setReg s r v).fabricPtr = s.fabricPtr := rfl
@[simp] theorem setReg_routes (s : State) (r : RegId) (v : Nat) : (setReg s r v).routes = s.routes := rfl
@[simp] theorem setReg_fabRecs (s : State) (r : RegId) (v : Nat) : (setReg s r v).fabRecs = s.fabRecs := rfl
@[simp] theorem setReg_arrived (s : State) (r : RegId) (v : Nat) : (setReg s r v).arrived = s.arrived := rfl
@[simp] theorem setReg_inbox (s : State) (r : RegId) (v : Nat) : (setReg s r v).inbox = s.inbox := rfl
@[simp] theorem setReg_remotes (s : State) (r : RegId) (v : Nat) : (setReg s r v).remotes = s.remotes := rfl
@[simp] theorem setReg_answered (s : State) (r : RegId) (v : Nat) : (setReg s r v).answered = s.answered := rfl
@[simp] theorem setReg_buckets (s : State) (r : RegId) (v : Nat) : (setReg s r v).buckets = s.buckets := rfl
@[simp] theorem setReg_colGroups (s : State) (r : RegId) (v : Nat) : (setReg s r v).colGroups = s.colGroups := rfl
@[simp] theorem setReg_recs (s : State) (r : RegId) (v : Nat) : (setReg s r v).recs = s.recs := rfl
@[simp] theorem setReg_recGen (s : State) (r : RegId) (v : Nat) : (setReg s r v).recGen = s.recGen := rfl
@[simp] theorem setReg_failStop (s : State) (r : RegId) (v : Nat) : (setReg s r v).failStop = s.failStop := rfl
@[simp] theorem setReg_leaseAt (s : State) (r : RegId) (v : Nat) : (setReg s r v).leaseAt = s.leaseAt := rfl
@[simp] theorem setReg_noticeAt (s : State) (r : RegId) (v : Nat) : (setReg s r v).noticeAt = s.noticeAt := rfl
@[simp] theorem setReg_power (s : State) (r : RegId) (v : Nat) : (setReg s r v).power = s.power := rfl
@[simp] theorem setReg_tadcs (s : State) (r : RegId) (v : Nat) : (setReg s r v).tadcs = s.tadcs := rfl
@[simp] theorem setReg_sec (s : State) (r : RegId) (v : Nat) : (setReg s r v).sec = s.sec := rfl
@[simp] theorem setReg_tap (s : State) (r : RegId) (v : Nat) : (setReg s r v).tap = s.tap := rfl

/-! ## `setFld` -/

@[simp] theorem setFld_pending (s : State) (r : RegId) (lo w v : Nat) : (setFld s r lo w v).pending = s.pending := rfl
@[simp] theorem setFld_time (s : State) (r : RegId) (lo w v : Nat) : (setFld s r lo w v).time = s.time := rfl
@[simp] theorem setFld_free (s : State) (r : RegId) (lo w v : Nat) : (setFld s r lo w v).free = s.free := rfl
@[simp] theorem setFld_out (s : State) (r : RegId) (lo w v : Nat) : (setFld s r lo w v).out = s.out := rfl
@[simp] theorem setFld_heldLow (s : State) (r : RegId) (lo w v : Nat) : (setFld s r lo w v).heldLow = s.heldLow := rfl
@[simp] theorem setFld_shadow (s : State) (r : RegId) (lo w v : Nat) : (setFld s r lo w v).shadow = s.shadow := rfl
@[simp] theorem setFld_heldAccess (s : State) (r : RegId) (lo w v : Nat) : (setFld s r lo w v).heldAccess = s.heldAccess := rfl
@[simp] theorem setFld_start (s : State) (r : RegId) (lo w v : Nat) : (setFld s r lo w v).start = s.start := rfl
@[simp] theorem setFld_nv (s : State) (r : RegId) (lo w v : Nat) : (setFld s r lo w v).nv = s.nv := rfl
@[simp] theorem setFld_transom (s : State) (r : RegId) (lo w v : Nat) : (setFld s r lo w v).transom = s.transom := rfl
@[simp] theorem setFld_startLog (s : State) (r : RegId) (lo w v : Nat) : (setFld s r lo w v).startLog = s.startLog := rfl
@[simp] theorem setFld_startLost (s : State) (r : RegId) (lo w v : Nat) : (setFld s r lo w v).startLost = s.startLost := rfl
@[simp] theorem setFld_startLostFirst (s : State) (r : RegId) (lo w v : Nat) : (setFld s r lo w v).startLostFirst = s.startLostFirst := rfl
@[simp] theorem setFld_startLostLast (s : State) (r : RegId) (lo w v : Nat) : (setFld s r lo w v).startLostLast = s.startLostLast := rfl
@[simp] theorem setFld_alarmWin (s : State) (r : RegId) (lo w v : Nat) : (setFld s r lo w v).alarmWin = s.alarmWin := rfl
@[simp] theorem setFld_msixOpen (s : State) (r : RegId) (lo w v : Nat) : (setFld s r lo w v).msixOpen = s.msixOpen := rfl
@[simp] theorem setFld_msixPending (s : State) (r : RegId) (lo w v : Nat) : (setFld s r lo w v).msixPending = s.msixPending := rfl
@[simp] theorem setFld_numVfs (s : State) (r : RegId) (lo w v : Nat) : (setFld s r lo w v).numVfs = s.numVfs := rfl
@[simp] theorem setFld_bar4Log (s : State) (r : RegId) (lo w v : Nat) : (setFld s r lo w v).bar4Log = s.bar4Log := rfl
@[simp] theorem setFld_fns (s : State) (r : RegId) (lo w v : Nat) : (setFld s r lo w v).fns = s.fns := rfl
@[simp] theorem setFld_rings (s : State) (r : RegId) (lo w v : Nat) : (setFld s r lo w v).rings = s.rings := rfl
@[simp] theorem setFld_counters (s : State) (r : RegId) (lo w v : Nat) : (setFld s r lo w v).counters = s.counters := rfl
@[simp] theorem setFld_groupPtr (s : State) (r : RegId) (lo w v : Nat) : (setFld s r lo w v).groupPtr = s.groupPtr := rfl
@[simp] theorem setFld_credits (s : State) (r : RegId) (lo w v : Nat) : (setFld s r lo w v).credits = s.credits := rfl
@[simp] theorem setFld_ringPtrs (s : State) (r : RegId) (lo w v : Nat) : (setFld s r lo w v).ringPtrs = s.ringPtrs := rfl
@[simp] theorem setFld_vecPlacePtr (s : State) (r : RegId) (lo w v : Nat) : (setFld s r lo w v).vecPlacePtr = s.vecPlacePtr := rfl
@[simp] theorem setFld_work (s : State) (r : RegId) (lo w v : Nat) : (setFld s r lo w v).work = s.work := rfl
@[simp] theorem setFld_nextOrder (s : State) (r : RegId) (lo w v : Nat) : (setFld s r lo w v).nextOrder = s.nextOrder := rfl
@[simp] theorem setFld_mem (s : State) (r : RegId) (lo w v : Nat) : (setFld s r lo w v).mem = s.mem := rfl
@[simp] theorem setFld_hostMem (s : State) (r : RegId) (lo w v : Nat) : (setFld s r lo w v).hostMem = s.hostMem := rfl
@[simp] theorem setFld_detect (s : State) (r : RegId) (lo w v : Nat) : (setFld s r lo w v).detect = s.detect := rfl
@[simp] theorem setFld_bad (s : State) (r : RegId) (lo w v : Nat) : (setFld s r lo w v).bad = s.bad := rfl
@[simp] theorem setFld_writers (s : State) (r : RegId) (lo w v : Nat) : (setFld s r lo w v).writers = s.writers := rfl
@[simp] theorem setFld_upsets (s : State) (r : RegId) (lo w v : Nat) : (setFld s r lo w v).upsets = s.upsets := rfl
@[simp] theorem setFld_lines (s : State) (r : RegId) (lo w v : Nat) : (setFld s r lo w v).lines = s.lines := rfl
@[simp] theorem setFld_useClock (s : State) (r : RegId) (lo w v : Nat) : (setFld s r lo w v).useClock = s.useClock := rfl
@[simp] theorem setFld_tlbs (s : State) (r : RegId) (lo w v : Nat) : (setFld s r lo w v).tlbs = s.tlbs := rfl
@[simp] theorem setFld_atsOn (s : State) (r : RegId) (lo w v : Nat) : (setFld s r lo w v).atsOn = s.atsOn := rfl
@[simp] theorem setFld_ats (s : State) (r : RegId) (lo w v : Nat) : (setFld s r lo w v).ats = s.ats := rfl
@[simp] theorem setFld_hostErr (s : State) (r : RegId) (lo w v : Nat) : (setFld s r lo w v).hostErr = s.hostErr := rfl
@[simp] theorem setFld_inval (s : State) (r : RegId) (lo w v : Nat) : (setFld s r lo w v).inval = s.inval := rfl
@[simp] theorem setFld_mapBusy (s : State) (r : RegId) (lo w v : Nat) : (setFld s r lo w v).mapBusy = s.mapBusy := rfl
@[simp] theorem setFld_oasis (s : State) (r : RegId) (lo w v : Nat) : (setFld s r lo w v).oasis = s.oasis := rfl
@[simp] theorem setFld_oasisPtr (s : State) (r : RegId) (lo w v : Nat) : (setFld s r lo w v).oasisPtr = s.oasisPtr := rfl
@[simp] theorem setFld_tags (s : State) (r : RegId) (lo w v : Nat) : (setFld s r lo w v).tags = s.tags := rfl
@[simp] theorem setFld_hbm (s : State) (r : RegId) (lo w v : Nat) : (setFld s r lo w v).hbm = s.hbm := rfl
@[simp] theorem setFld_cells (s : State) (r : RegId) (lo w v : Nat) : (setFld s r lo w v).cells = s.cells := rfl
@[simp] theorem setFld_blocks (s : State) (r : RegId) (lo w v : Nat) : (setFld s r lo w v).blocks = s.blocks := rfl
@[simp] theorem setFld_regions (s : State) (r : RegId) (lo w v : Nat) : (setFld s r lo w v).regions = s.regions := rfl
@[simp] theorem setFld_ports (s : State) (r : RegId) (lo w v : Nat) : (setFld s r lo w v).ports = s.ports := rfl
@[simp] theorem setFld_fabricPtr (s : State) (r : RegId) (lo w v : Nat) : (setFld s r lo w v).fabricPtr = s.fabricPtr := rfl
@[simp] theorem setFld_routes (s : State) (r : RegId) (lo w v : Nat) : (setFld s r lo w v).routes = s.routes := rfl
@[simp] theorem setFld_fabRecs (s : State) (r : RegId) (lo w v : Nat) : (setFld s r lo w v).fabRecs = s.fabRecs := rfl
@[simp] theorem setFld_arrived (s : State) (r : RegId) (lo w v : Nat) : (setFld s r lo w v).arrived = s.arrived := rfl
@[simp] theorem setFld_inbox (s : State) (r : RegId) (lo w v : Nat) : (setFld s r lo w v).inbox = s.inbox := rfl
@[simp] theorem setFld_remotes (s : State) (r : RegId) (lo w v : Nat) : (setFld s r lo w v).remotes = s.remotes := rfl
@[simp] theorem setFld_answered (s : State) (r : RegId) (lo w v : Nat) : (setFld s r lo w v).answered = s.answered := rfl
@[simp] theorem setFld_buckets (s : State) (r : RegId) (lo w v : Nat) : (setFld s r lo w v).buckets = s.buckets := rfl
@[simp] theorem setFld_colGroups (s : State) (r : RegId) (lo w v : Nat) : (setFld s r lo w v).colGroups = s.colGroups := rfl
@[simp] theorem setFld_recs (s : State) (r : RegId) (lo w v : Nat) : (setFld s r lo w v).recs = s.recs := rfl
@[simp] theorem setFld_recGen (s : State) (r : RegId) (lo w v : Nat) : (setFld s r lo w v).recGen = s.recGen := rfl
@[simp] theorem setFld_failStop (s : State) (r : RegId) (lo w v : Nat) : (setFld s r lo w v).failStop = s.failStop := rfl
@[simp] theorem setFld_leaseAt (s : State) (r : RegId) (lo w v : Nat) : (setFld s r lo w v).leaseAt = s.leaseAt := rfl
@[simp] theorem setFld_noticeAt (s : State) (r : RegId) (lo w v : Nat) : (setFld s r lo w v).noticeAt = s.noticeAt := rfl
@[simp] theorem setFld_power (s : State) (r : RegId) (lo w v : Nat) : (setFld s r lo w v).power = s.power := rfl
@[simp] theorem setFld_tadcs (s : State) (r : RegId) (lo w v : Nat) : (setFld s r lo w v).tadcs = s.tadcs := rfl
@[simp] theorem setFld_sec (s : State) (r : RegId) (lo w v : Nat) : (setFld s r lo w v).sec = s.sec := rfl
@[simp] theorem setFld_tap (s : State) (r : RegId) (lo w v : Nat) : (setFld s r lo w v).tap = s.tap := rfl

/-! ## `addFld` -/

@[simp] theorem addFld_pending (s : State) (r : RegId) (lo w n : Nat) : (addFld s r lo w n).pending = s.pending := rfl
@[simp] theorem addFld_time (s : State) (r : RegId) (lo w n : Nat) : (addFld s r lo w n).time = s.time := rfl
@[simp] theorem addFld_free (s : State) (r : RegId) (lo w n : Nat) : (addFld s r lo w n).free = s.free := rfl
@[simp] theorem addFld_out (s : State) (r : RegId) (lo w n : Nat) : (addFld s r lo w n).out = s.out := rfl
@[simp] theorem addFld_heldLow (s : State) (r : RegId) (lo w n : Nat) : (addFld s r lo w n).heldLow = s.heldLow := rfl
@[simp] theorem addFld_shadow (s : State) (r : RegId) (lo w n : Nat) : (addFld s r lo w n).shadow = s.shadow := rfl
@[simp] theorem addFld_heldAccess (s : State) (r : RegId) (lo w n : Nat) : (addFld s r lo w n).heldAccess = s.heldAccess := rfl
@[simp] theorem addFld_start (s : State) (r : RegId) (lo w n : Nat) : (addFld s r lo w n).start = s.start := rfl
@[simp] theorem addFld_nv (s : State) (r : RegId) (lo w n : Nat) : (addFld s r lo w n).nv = s.nv := rfl
@[simp] theorem addFld_transom (s : State) (r : RegId) (lo w n : Nat) : (addFld s r lo w n).transom = s.transom := rfl
@[simp] theorem addFld_startLog (s : State) (r : RegId) (lo w n : Nat) : (addFld s r lo w n).startLog = s.startLog := rfl
@[simp] theorem addFld_startLost (s : State) (r : RegId) (lo w n : Nat) : (addFld s r lo w n).startLost = s.startLost := rfl
@[simp] theorem addFld_startLostFirst (s : State) (r : RegId) (lo w n : Nat) : (addFld s r lo w n).startLostFirst = s.startLostFirst := rfl
@[simp] theorem addFld_startLostLast (s : State) (r : RegId) (lo w n : Nat) : (addFld s r lo w n).startLostLast = s.startLostLast := rfl
@[simp] theorem addFld_alarmWin (s : State) (r : RegId) (lo w n : Nat) : (addFld s r lo w n).alarmWin = s.alarmWin := rfl
@[simp] theorem addFld_msixOpen (s : State) (r : RegId) (lo w n : Nat) : (addFld s r lo w n).msixOpen = s.msixOpen := rfl
@[simp] theorem addFld_msixPending (s : State) (r : RegId) (lo w n : Nat) : (addFld s r lo w n).msixPending = s.msixPending := rfl
@[simp] theorem addFld_numVfs (s : State) (r : RegId) (lo w n : Nat) : (addFld s r lo w n).numVfs = s.numVfs := rfl
@[simp] theorem addFld_bar4Log (s : State) (r : RegId) (lo w n : Nat) : (addFld s r lo w n).bar4Log = s.bar4Log := rfl
@[simp] theorem addFld_fns (s : State) (r : RegId) (lo w n : Nat) : (addFld s r lo w n).fns = s.fns := rfl
@[simp] theorem addFld_rings (s : State) (r : RegId) (lo w n : Nat) : (addFld s r lo w n).rings = s.rings := rfl
@[simp] theorem addFld_counters (s : State) (r : RegId) (lo w n : Nat) : (addFld s r lo w n).counters = s.counters := rfl
@[simp] theorem addFld_groupPtr (s : State) (r : RegId) (lo w n : Nat) : (addFld s r lo w n).groupPtr = s.groupPtr := rfl
@[simp] theorem addFld_credits (s : State) (r : RegId) (lo w n : Nat) : (addFld s r lo w n).credits = s.credits := rfl
@[simp] theorem addFld_ringPtrs (s : State) (r : RegId) (lo w n : Nat) : (addFld s r lo w n).ringPtrs = s.ringPtrs := rfl
@[simp] theorem addFld_vecPlacePtr (s : State) (r : RegId) (lo w n : Nat) : (addFld s r lo w n).vecPlacePtr = s.vecPlacePtr := rfl
@[simp] theorem addFld_work (s : State) (r : RegId) (lo w n : Nat) : (addFld s r lo w n).work = s.work := rfl
@[simp] theorem addFld_nextOrder (s : State) (r : RegId) (lo w n : Nat) : (addFld s r lo w n).nextOrder = s.nextOrder := rfl
@[simp] theorem addFld_mem (s : State) (r : RegId) (lo w n : Nat) : (addFld s r lo w n).mem = s.mem := rfl
@[simp] theorem addFld_hostMem (s : State) (r : RegId) (lo w n : Nat) : (addFld s r lo w n).hostMem = s.hostMem := rfl
@[simp] theorem addFld_detect (s : State) (r : RegId) (lo w n : Nat) : (addFld s r lo w n).detect = s.detect := rfl
@[simp] theorem addFld_bad (s : State) (r : RegId) (lo w n : Nat) : (addFld s r lo w n).bad = s.bad := rfl
@[simp] theorem addFld_writers (s : State) (r : RegId) (lo w n : Nat) : (addFld s r lo w n).writers = s.writers := rfl
@[simp] theorem addFld_upsets (s : State) (r : RegId) (lo w n : Nat) : (addFld s r lo w n).upsets = s.upsets := rfl
@[simp] theorem addFld_lines (s : State) (r : RegId) (lo w n : Nat) : (addFld s r lo w n).lines = s.lines := rfl
@[simp] theorem addFld_useClock (s : State) (r : RegId) (lo w n : Nat) : (addFld s r lo w n).useClock = s.useClock := rfl
@[simp] theorem addFld_tlbs (s : State) (r : RegId) (lo w n : Nat) : (addFld s r lo w n).tlbs = s.tlbs := rfl
@[simp] theorem addFld_atsOn (s : State) (r : RegId) (lo w n : Nat) : (addFld s r lo w n).atsOn = s.atsOn := rfl
@[simp] theorem addFld_ats (s : State) (r : RegId) (lo w n : Nat) : (addFld s r lo w n).ats = s.ats := rfl
@[simp] theorem addFld_hostErr (s : State) (r : RegId) (lo w n : Nat) : (addFld s r lo w n).hostErr = s.hostErr := rfl
@[simp] theorem addFld_inval (s : State) (r : RegId) (lo w n : Nat) : (addFld s r lo w n).inval = s.inval := rfl
@[simp] theorem addFld_mapBusy (s : State) (r : RegId) (lo w n : Nat) : (addFld s r lo w n).mapBusy = s.mapBusy := rfl
@[simp] theorem addFld_oasis (s : State) (r : RegId) (lo w n : Nat) : (addFld s r lo w n).oasis = s.oasis := rfl
@[simp] theorem addFld_oasisPtr (s : State) (r : RegId) (lo w n : Nat) : (addFld s r lo w n).oasisPtr = s.oasisPtr := rfl
@[simp] theorem addFld_tags (s : State) (r : RegId) (lo w n : Nat) : (addFld s r lo w n).tags = s.tags := rfl
@[simp] theorem addFld_hbm (s : State) (r : RegId) (lo w n : Nat) : (addFld s r lo w n).hbm = s.hbm := rfl
@[simp] theorem addFld_cells (s : State) (r : RegId) (lo w n : Nat) : (addFld s r lo w n).cells = s.cells := rfl
@[simp] theorem addFld_blocks (s : State) (r : RegId) (lo w n : Nat) : (addFld s r lo w n).blocks = s.blocks := rfl
@[simp] theorem addFld_regions (s : State) (r : RegId) (lo w n : Nat) : (addFld s r lo w n).regions = s.regions := rfl
@[simp] theorem addFld_ports (s : State) (r : RegId) (lo w n : Nat) : (addFld s r lo w n).ports = s.ports := rfl
@[simp] theorem addFld_fabricPtr (s : State) (r : RegId) (lo w n : Nat) : (addFld s r lo w n).fabricPtr = s.fabricPtr := rfl
@[simp] theorem addFld_routes (s : State) (r : RegId) (lo w n : Nat) : (addFld s r lo w n).routes = s.routes := rfl
@[simp] theorem addFld_fabRecs (s : State) (r : RegId) (lo w n : Nat) : (addFld s r lo w n).fabRecs = s.fabRecs := rfl
@[simp] theorem addFld_arrived (s : State) (r : RegId) (lo w n : Nat) : (addFld s r lo w n).arrived = s.arrived := rfl
@[simp] theorem addFld_inbox (s : State) (r : RegId) (lo w n : Nat) : (addFld s r lo w n).inbox = s.inbox := rfl
@[simp] theorem addFld_remotes (s : State) (r : RegId) (lo w n : Nat) : (addFld s r lo w n).remotes = s.remotes := rfl
@[simp] theorem addFld_answered (s : State) (r : RegId) (lo w n : Nat) : (addFld s r lo w n).answered = s.answered := rfl
@[simp] theorem addFld_buckets (s : State) (r : RegId) (lo w n : Nat) : (addFld s r lo w n).buckets = s.buckets := rfl
@[simp] theorem addFld_colGroups (s : State) (r : RegId) (lo w n : Nat) : (addFld s r lo w n).colGroups = s.colGroups := rfl
@[simp] theorem addFld_recs (s : State) (r : RegId) (lo w n : Nat) : (addFld s r lo w n).recs = s.recs := rfl
@[simp] theorem addFld_recGen (s : State) (r : RegId) (lo w n : Nat) : (addFld s r lo w n).recGen = s.recGen := rfl
@[simp] theorem addFld_failStop (s : State) (r : RegId) (lo w n : Nat) : (addFld s r lo w n).failStop = s.failStop := rfl
@[simp] theorem addFld_leaseAt (s : State) (r : RegId) (lo w n : Nat) : (addFld s r lo w n).leaseAt = s.leaseAt := rfl
@[simp] theorem addFld_noticeAt (s : State) (r : RegId) (lo w n : Nat) : (addFld s r lo w n).noticeAt = s.noticeAt := rfl
@[simp] theorem addFld_power (s : State) (r : RegId) (lo w n : Nat) : (addFld s r lo w n).power = s.power := rfl
@[simp] theorem addFld_tadcs (s : State) (r : RegId) (lo w n : Nat) : (addFld s r lo w n).tadcs = s.tadcs := rfl
@[simp] theorem addFld_sec (s : State) (r : RegId) (lo w n : Nat) : (addFld s r lo w n).sec = s.sec := rfl
@[simp] theorem addFld_tap (s : State) (r : RegId) (lo w n : Nat) : (addFld s r lo w n).tap = s.tap := rfl

/-! ## `setBit` -/

@[simp] theorem setBit_pending (s : State) (r : RegId) (b : Nat) (v : Bool) : (setBit s r b v).pending = s.pending := rfl
@[simp] theorem setBit_time (s : State) (r : RegId) (b : Nat) (v : Bool) : (setBit s r b v).time = s.time := rfl
@[simp] theorem setBit_free (s : State) (r : RegId) (b : Nat) (v : Bool) : (setBit s r b v).free = s.free := rfl
@[simp] theorem setBit_out (s : State) (r : RegId) (b : Nat) (v : Bool) : (setBit s r b v).out = s.out := rfl
@[simp] theorem setBit_heldLow (s : State) (r : RegId) (b : Nat) (v : Bool) : (setBit s r b v).heldLow = s.heldLow := rfl
@[simp] theorem setBit_shadow (s : State) (r : RegId) (b : Nat) (v : Bool) : (setBit s r b v).shadow = s.shadow := rfl
@[simp] theorem setBit_heldAccess (s : State) (r : RegId) (b : Nat) (v : Bool) : (setBit s r b v).heldAccess = s.heldAccess := rfl
@[simp] theorem setBit_start (s : State) (r : RegId) (b : Nat) (v : Bool) : (setBit s r b v).start = s.start := rfl
@[simp] theorem setBit_nv (s : State) (r : RegId) (b : Nat) (v : Bool) : (setBit s r b v).nv = s.nv := rfl
@[simp] theorem setBit_transom (s : State) (r : RegId) (b : Nat) (v : Bool) : (setBit s r b v).transom = s.transom := rfl
@[simp] theorem setBit_startLog (s : State) (r : RegId) (b : Nat) (v : Bool) : (setBit s r b v).startLog = s.startLog := rfl
@[simp] theorem setBit_startLost (s : State) (r : RegId) (b : Nat) (v : Bool) : (setBit s r b v).startLost = s.startLost := rfl
@[simp] theorem setBit_startLostFirst (s : State) (r : RegId) (b : Nat) (v : Bool) : (setBit s r b v).startLostFirst = s.startLostFirst := rfl
@[simp] theorem setBit_startLostLast (s : State) (r : RegId) (b : Nat) (v : Bool) : (setBit s r b v).startLostLast = s.startLostLast := rfl
@[simp] theorem setBit_alarmWin (s : State) (r : RegId) (b : Nat) (v : Bool) : (setBit s r b v).alarmWin = s.alarmWin := rfl
@[simp] theorem setBit_msixOpen (s : State) (r : RegId) (b : Nat) (v : Bool) : (setBit s r b v).msixOpen = s.msixOpen := rfl
@[simp] theorem setBit_msixPending (s : State) (r : RegId) (b : Nat) (v : Bool) : (setBit s r b v).msixPending = s.msixPending := rfl
@[simp] theorem setBit_numVfs (s : State) (r : RegId) (b : Nat) (v : Bool) : (setBit s r b v).numVfs = s.numVfs := rfl
@[simp] theorem setBit_bar4Log (s : State) (r : RegId) (b : Nat) (v : Bool) : (setBit s r b v).bar4Log = s.bar4Log := rfl
@[simp] theorem setBit_fns (s : State) (r : RegId) (b : Nat) (v : Bool) : (setBit s r b v).fns = s.fns := rfl
@[simp] theorem setBit_rings (s : State) (r : RegId) (b : Nat) (v : Bool) : (setBit s r b v).rings = s.rings := rfl
@[simp] theorem setBit_counters (s : State) (r : RegId) (b : Nat) (v : Bool) : (setBit s r b v).counters = s.counters := rfl
@[simp] theorem setBit_groupPtr (s : State) (r : RegId) (b : Nat) (v : Bool) : (setBit s r b v).groupPtr = s.groupPtr := rfl
@[simp] theorem setBit_credits (s : State) (r : RegId) (b : Nat) (v : Bool) : (setBit s r b v).credits = s.credits := rfl
@[simp] theorem setBit_ringPtrs (s : State) (r : RegId) (b : Nat) (v : Bool) : (setBit s r b v).ringPtrs = s.ringPtrs := rfl
@[simp] theorem setBit_vecPlacePtr (s : State) (r : RegId) (b : Nat) (v : Bool) : (setBit s r b v).vecPlacePtr = s.vecPlacePtr := rfl
@[simp] theorem setBit_work (s : State) (r : RegId) (b : Nat) (v : Bool) : (setBit s r b v).work = s.work := rfl
@[simp] theorem setBit_nextOrder (s : State) (r : RegId) (b : Nat) (v : Bool) : (setBit s r b v).nextOrder = s.nextOrder := rfl
@[simp] theorem setBit_mem (s : State) (r : RegId) (b : Nat) (v : Bool) : (setBit s r b v).mem = s.mem := rfl
@[simp] theorem setBit_hostMem (s : State) (r : RegId) (b : Nat) (v : Bool) : (setBit s r b v).hostMem = s.hostMem := rfl
@[simp] theorem setBit_detect (s : State) (r : RegId) (b : Nat) (v : Bool) : (setBit s r b v).detect = s.detect := rfl
@[simp] theorem setBit_bad (s : State) (r : RegId) (b : Nat) (v : Bool) : (setBit s r b v).bad = s.bad := rfl
@[simp] theorem setBit_writers (s : State) (r : RegId) (b : Nat) (v : Bool) : (setBit s r b v).writers = s.writers := rfl
@[simp] theorem setBit_upsets (s : State) (r : RegId) (b : Nat) (v : Bool) : (setBit s r b v).upsets = s.upsets := rfl
@[simp] theorem setBit_lines (s : State) (r : RegId) (b : Nat) (v : Bool) : (setBit s r b v).lines = s.lines := rfl
@[simp] theorem setBit_useClock (s : State) (r : RegId) (b : Nat) (v : Bool) : (setBit s r b v).useClock = s.useClock := rfl
@[simp] theorem setBit_tlbs (s : State) (r : RegId) (b : Nat) (v : Bool) : (setBit s r b v).tlbs = s.tlbs := rfl
@[simp] theorem setBit_atsOn (s : State) (r : RegId) (b : Nat) (v : Bool) : (setBit s r b v).atsOn = s.atsOn := rfl
@[simp] theorem setBit_ats (s : State) (r : RegId) (b : Nat) (v : Bool) : (setBit s r b v).ats = s.ats := rfl
@[simp] theorem setBit_hostErr (s : State) (r : RegId) (b : Nat) (v : Bool) : (setBit s r b v).hostErr = s.hostErr := rfl
@[simp] theorem setBit_inval (s : State) (r : RegId) (b : Nat) (v : Bool) : (setBit s r b v).inval = s.inval := rfl
@[simp] theorem setBit_mapBusy (s : State) (r : RegId) (b : Nat) (v : Bool) : (setBit s r b v).mapBusy = s.mapBusy := rfl
@[simp] theorem setBit_oasis (s : State) (r : RegId) (b : Nat) (v : Bool) : (setBit s r b v).oasis = s.oasis := rfl
@[simp] theorem setBit_oasisPtr (s : State) (r : RegId) (b : Nat) (v : Bool) : (setBit s r b v).oasisPtr = s.oasisPtr := rfl
@[simp] theorem setBit_tags (s : State) (r : RegId) (b : Nat) (v : Bool) : (setBit s r b v).tags = s.tags := rfl
@[simp] theorem setBit_hbm (s : State) (r : RegId) (b : Nat) (v : Bool) : (setBit s r b v).hbm = s.hbm := rfl
@[simp] theorem setBit_cells (s : State) (r : RegId) (b : Nat) (v : Bool) : (setBit s r b v).cells = s.cells := rfl
@[simp] theorem setBit_blocks (s : State) (r : RegId) (b : Nat) (v : Bool) : (setBit s r b v).blocks = s.blocks := rfl
@[simp] theorem setBit_regions (s : State) (r : RegId) (b : Nat) (v : Bool) : (setBit s r b v).regions = s.regions := rfl
@[simp] theorem setBit_ports (s : State) (r : RegId) (b : Nat) (v : Bool) : (setBit s r b v).ports = s.ports := rfl
@[simp] theorem setBit_fabricPtr (s : State) (r : RegId) (b : Nat) (v : Bool) : (setBit s r b v).fabricPtr = s.fabricPtr := rfl
@[simp] theorem setBit_routes (s : State) (r : RegId) (b : Nat) (v : Bool) : (setBit s r b v).routes = s.routes := rfl
@[simp] theorem setBit_fabRecs (s : State) (r : RegId) (b : Nat) (v : Bool) : (setBit s r b v).fabRecs = s.fabRecs := rfl
@[simp] theorem setBit_arrived (s : State) (r : RegId) (b : Nat) (v : Bool) : (setBit s r b v).arrived = s.arrived := rfl
@[simp] theorem setBit_inbox (s : State) (r : RegId) (b : Nat) (v : Bool) : (setBit s r b v).inbox = s.inbox := rfl
@[simp] theorem setBit_remotes (s : State) (r : RegId) (b : Nat) (v : Bool) : (setBit s r b v).remotes = s.remotes := rfl
@[simp] theorem setBit_answered (s : State) (r : RegId) (b : Nat) (v : Bool) : (setBit s r b v).answered = s.answered := rfl
@[simp] theorem setBit_buckets (s : State) (r : RegId) (b : Nat) (v : Bool) : (setBit s r b v).buckets = s.buckets := rfl
@[simp] theorem setBit_colGroups (s : State) (r : RegId) (b : Nat) (v : Bool) : (setBit s r b v).colGroups = s.colGroups := rfl
@[simp] theorem setBit_recs (s : State) (r : RegId) (b : Nat) (v : Bool) : (setBit s r b v).recs = s.recs := rfl
@[simp] theorem setBit_recGen (s : State) (r : RegId) (b : Nat) (v : Bool) : (setBit s r b v).recGen = s.recGen := rfl
@[simp] theorem setBit_failStop (s : State) (r : RegId) (b : Nat) (v : Bool) : (setBit s r b v).failStop = s.failStop := rfl
@[simp] theorem setBit_leaseAt (s : State) (r : RegId) (b : Nat) (v : Bool) : (setBit s r b v).leaseAt = s.leaseAt := rfl
@[simp] theorem setBit_noticeAt (s : State) (r : RegId) (b : Nat) (v : Bool) : (setBit s r b v).noticeAt = s.noticeAt := rfl
@[simp] theorem setBit_power (s : State) (r : RegId) (b : Nat) (v : Bool) : (setBit s r b v).power = s.power := rfl
@[simp] theorem setBit_tadcs (s : State) (r : RegId) (b : Nat) (v : Bool) : (setBit s r b v).tadcs = s.tadcs := rfl
@[simp] theorem setBit_sec (s : State) (r : RegId) (b : Nat) (v : Bool) : (setBit s r b v).sec = s.sec := rfl
@[simp] theorem setBit_tap (s : State) (r : RegId) (b : Nat) (v : Bool) : (setBit s r b v).tap = s.tap := rfl

/-! ## `updRing` -/

@[simp] theorem updRing_pending (s : State) (n : Nat) (f : Ring → Ring) : (updRing s n f).pending = s.pending := rfl
@[simp] theorem updRing_time (s : State) (n : Nat) (f : Ring → Ring) : (updRing s n f).time = s.time := rfl
@[simp] theorem updRing_free (s : State) (n : Nat) (f : Ring → Ring) : (updRing s n f).free = s.free := rfl
@[simp] theorem updRing_out (s : State) (n : Nat) (f : Ring → Ring) : (updRing s n f).out = s.out := rfl
@[simp] theorem updRing_regs (s : State) (n : Nat) (f : Ring → Ring) : (updRing s n f).regs = s.regs := rfl
@[simp] theorem updRing_heldLow (s : State) (n : Nat) (f : Ring → Ring) : (updRing s n f).heldLow = s.heldLow := rfl
@[simp] theorem updRing_shadow (s : State) (n : Nat) (f : Ring → Ring) : (updRing s n f).shadow = s.shadow := rfl
@[simp] theorem updRing_heldAccess (s : State) (n : Nat) (f : Ring → Ring) : (updRing s n f).heldAccess = s.heldAccess := rfl
@[simp] theorem updRing_start (s : State) (n : Nat) (f : Ring → Ring) : (updRing s n f).start = s.start := rfl
@[simp] theorem updRing_nv (s : State) (n : Nat) (f : Ring → Ring) : (updRing s n f).nv = s.nv := rfl
@[simp] theorem updRing_transom (s : State) (n : Nat) (f : Ring → Ring) : (updRing s n f).transom = s.transom := rfl
@[simp] theorem updRing_startLog (s : State) (n : Nat) (f : Ring → Ring) : (updRing s n f).startLog = s.startLog := rfl
@[simp] theorem updRing_startLost (s : State) (n : Nat) (f : Ring → Ring) : (updRing s n f).startLost = s.startLost := rfl
@[simp] theorem updRing_startLostFirst (s : State) (n : Nat) (f : Ring → Ring) : (updRing s n f).startLostFirst = s.startLostFirst := rfl
@[simp] theorem updRing_startLostLast (s : State) (n : Nat) (f : Ring → Ring) : (updRing s n f).startLostLast = s.startLostLast := rfl
@[simp] theorem updRing_alarmWin (s : State) (n : Nat) (f : Ring → Ring) : (updRing s n f).alarmWin = s.alarmWin := rfl
@[simp] theorem updRing_msixOpen (s : State) (n : Nat) (f : Ring → Ring) : (updRing s n f).msixOpen = s.msixOpen := rfl
@[simp] theorem updRing_msixPending (s : State) (n : Nat) (f : Ring → Ring) : (updRing s n f).msixPending = s.msixPending := rfl
@[simp] theorem updRing_numVfs (s : State) (n : Nat) (f : Ring → Ring) : (updRing s n f).numVfs = s.numVfs := rfl
@[simp] theorem updRing_bar4Log (s : State) (n : Nat) (f : Ring → Ring) : (updRing s n f).bar4Log = s.bar4Log := rfl
@[simp] theorem updRing_fns (s : State) (n : Nat) (f : Ring → Ring) : (updRing s n f).fns = s.fns := rfl
@[simp] theorem updRing_counters (s : State) (n : Nat) (f : Ring → Ring) : (updRing s n f).counters = s.counters := rfl
@[simp] theorem updRing_groupPtr (s : State) (n : Nat) (f : Ring → Ring) : (updRing s n f).groupPtr = s.groupPtr := rfl
@[simp] theorem updRing_credits (s : State) (n : Nat) (f : Ring → Ring) : (updRing s n f).credits = s.credits := rfl
@[simp] theorem updRing_ringPtrs (s : State) (n : Nat) (f : Ring → Ring) : (updRing s n f).ringPtrs = s.ringPtrs := rfl
@[simp] theorem updRing_vecPlacePtr (s : State) (n : Nat) (f : Ring → Ring) : (updRing s n f).vecPlacePtr = s.vecPlacePtr := rfl
@[simp] theorem updRing_work (s : State) (n : Nat) (f : Ring → Ring) : (updRing s n f).work = s.work := rfl
@[simp] theorem updRing_nextOrder (s : State) (n : Nat) (f : Ring → Ring) : (updRing s n f).nextOrder = s.nextOrder := rfl
@[simp] theorem updRing_mem (s : State) (n : Nat) (f : Ring → Ring) : (updRing s n f).mem = s.mem := rfl
@[simp] theorem updRing_hostMem (s : State) (n : Nat) (f : Ring → Ring) : (updRing s n f).hostMem = s.hostMem := rfl
@[simp] theorem updRing_detect (s : State) (n : Nat) (f : Ring → Ring) : (updRing s n f).detect = s.detect := rfl
@[simp] theorem updRing_bad (s : State) (n : Nat) (f : Ring → Ring) : (updRing s n f).bad = s.bad := rfl
@[simp] theorem updRing_writers (s : State) (n : Nat) (f : Ring → Ring) : (updRing s n f).writers = s.writers := rfl
@[simp] theorem updRing_upsets (s : State) (n : Nat) (f : Ring → Ring) : (updRing s n f).upsets = s.upsets := rfl
@[simp] theorem updRing_lines (s : State) (n : Nat) (f : Ring → Ring) : (updRing s n f).lines = s.lines := rfl
@[simp] theorem updRing_useClock (s : State) (n : Nat) (f : Ring → Ring) : (updRing s n f).useClock = s.useClock := rfl
@[simp] theorem updRing_tlbs (s : State) (n : Nat) (f : Ring → Ring) : (updRing s n f).tlbs = s.tlbs := rfl
@[simp] theorem updRing_atsOn (s : State) (n : Nat) (f : Ring → Ring) : (updRing s n f).atsOn = s.atsOn := rfl
@[simp] theorem updRing_ats (s : State) (n : Nat) (f : Ring → Ring) : (updRing s n f).ats = s.ats := rfl
@[simp] theorem updRing_hostErr (s : State) (n : Nat) (f : Ring → Ring) : (updRing s n f).hostErr = s.hostErr := rfl
@[simp] theorem updRing_inval (s : State) (n : Nat) (f : Ring → Ring) : (updRing s n f).inval = s.inval := rfl
@[simp] theorem updRing_mapBusy (s : State) (n : Nat) (f : Ring → Ring) : (updRing s n f).mapBusy = s.mapBusy := rfl
@[simp] theorem updRing_oasis (s : State) (n : Nat) (f : Ring → Ring) : (updRing s n f).oasis = s.oasis := rfl
@[simp] theorem updRing_oasisPtr (s : State) (n : Nat) (f : Ring → Ring) : (updRing s n f).oasisPtr = s.oasisPtr := rfl
@[simp] theorem updRing_tags (s : State) (n : Nat) (f : Ring → Ring) : (updRing s n f).tags = s.tags := rfl
@[simp] theorem updRing_hbm (s : State) (n : Nat) (f : Ring → Ring) : (updRing s n f).hbm = s.hbm := rfl
@[simp] theorem updRing_cells (s : State) (n : Nat) (f : Ring → Ring) : (updRing s n f).cells = s.cells := rfl
@[simp] theorem updRing_blocks (s : State) (n : Nat) (f : Ring → Ring) : (updRing s n f).blocks = s.blocks := rfl
@[simp] theorem updRing_regions (s : State) (n : Nat) (f : Ring → Ring) : (updRing s n f).regions = s.regions := rfl
@[simp] theorem updRing_ports (s : State) (n : Nat) (f : Ring → Ring) : (updRing s n f).ports = s.ports := rfl
@[simp] theorem updRing_fabricPtr (s : State) (n : Nat) (f : Ring → Ring) : (updRing s n f).fabricPtr = s.fabricPtr := rfl
@[simp] theorem updRing_routes (s : State) (n : Nat) (f : Ring → Ring) : (updRing s n f).routes = s.routes := rfl
@[simp] theorem updRing_fabRecs (s : State) (n : Nat) (f : Ring → Ring) : (updRing s n f).fabRecs = s.fabRecs := rfl
@[simp] theorem updRing_arrived (s : State) (n : Nat) (f : Ring → Ring) : (updRing s n f).arrived = s.arrived := rfl
@[simp] theorem updRing_inbox (s : State) (n : Nat) (f : Ring → Ring) : (updRing s n f).inbox = s.inbox := rfl
@[simp] theorem updRing_remotes (s : State) (n : Nat) (f : Ring → Ring) : (updRing s n f).remotes = s.remotes := rfl
@[simp] theorem updRing_answered (s : State) (n : Nat) (f : Ring → Ring) : (updRing s n f).answered = s.answered := rfl
@[simp] theorem updRing_buckets (s : State) (n : Nat) (f : Ring → Ring) : (updRing s n f).buckets = s.buckets := rfl
@[simp] theorem updRing_colGroups (s : State) (n : Nat) (f : Ring → Ring) : (updRing s n f).colGroups = s.colGroups := rfl
@[simp] theorem updRing_recs (s : State) (n : Nat) (f : Ring → Ring) : (updRing s n f).recs = s.recs := rfl
@[simp] theorem updRing_recGen (s : State) (n : Nat) (f : Ring → Ring) : (updRing s n f).recGen = s.recGen := rfl
@[simp] theorem updRing_failStop (s : State) (n : Nat) (f : Ring → Ring) : (updRing s n f).failStop = s.failStop := rfl
@[simp] theorem updRing_leaseAt (s : State) (n : Nat) (f : Ring → Ring) : (updRing s n f).leaseAt = s.leaseAt := rfl
@[simp] theorem updRing_noticeAt (s : State) (n : Nat) (f : Ring → Ring) : (updRing s n f).noticeAt = s.noticeAt := rfl
@[simp] theorem updRing_power (s : State) (n : Nat) (f : Ring → Ring) : (updRing s n f).power = s.power := rfl
@[simp] theorem updRing_tadcs (s : State) (n : Nat) (f : Ring → Ring) : (updRing s n f).tadcs = s.tadcs := rfl
@[simp] theorem updRing_sec (s : State) (n : Nat) (f : Ring → Ring) : (updRing s n f).sec = s.sec := rfl
@[simp] theorem updRing_tap (s : State) (n : Nat) (f : Ring → Ring) : (updRing s n f).tap = s.tap := rfl

/-! ## `updFn` -/

@[simp] theorem updFn_pending (s : State) (n : Nat) (f : FnState → FnState) : (updFn s n f).pending = s.pending := rfl
@[simp] theorem updFn_time (s : State) (n : Nat) (f : FnState → FnState) : (updFn s n f).time = s.time := rfl
@[simp] theorem updFn_free (s : State) (n : Nat) (f : FnState → FnState) : (updFn s n f).free = s.free := rfl
@[simp] theorem updFn_out (s : State) (n : Nat) (f : FnState → FnState) : (updFn s n f).out = s.out := rfl
@[simp] theorem updFn_regs (s : State) (n : Nat) (f : FnState → FnState) : (updFn s n f).regs = s.regs := rfl
@[simp] theorem updFn_heldLow (s : State) (n : Nat) (f : FnState → FnState) : (updFn s n f).heldLow = s.heldLow := rfl
@[simp] theorem updFn_shadow (s : State) (n : Nat) (f : FnState → FnState) : (updFn s n f).shadow = s.shadow := rfl
@[simp] theorem updFn_heldAccess (s : State) (n : Nat) (f : FnState → FnState) : (updFn s n f).heldAccess = s.heldAccess := rfl
@[simp] theorem updFn_start (s : State) (n : Nat) (f : FnState → FnState) : (updFn s n f).start = s.start := rfl
@[simp] theorem updFn_nv (s : State) (n : Nat) (f : FnState → FnState) : (updFn s n f).nv = s.nv := rfl
@[simp] theorem updFn_transom (s : State) (n : Nat) (f : FnState → FnState) : (updFn s n f).transom = s.transom := rfl
@[simp] theorem updFn_startLog (s : State) (n : Nat) (f : FnState → FnState) : (updFn s n f).startLog = s.startLog := rfl
@[simp] theorem updFn_startLost (s : State) (n : Nat) (f : FnState → FnState) : (updFn s n f).startLost = s.startLost := rfl
@[simp] theorem updFn_startLostFirst (s : State) (n : Nat) (f : FnState → FnState) : (updFn s n f).startLostFirst = s.startLostFirst := rfl
@[simp] theorem updFn_startLostLast (s : State) (n : Nat) (f : FnState → FnState) : (updFn s n f).startLostLast = s.startLostLast := rfl
@[simp] theorem updFn_alarmWin (s : State) (n : Nat) (f : FnState → FnState) : (updFn s n f).alarmWin = s.alarmWin := rfl
@[simp] theorem updFn_msixOpen (s : State) (n : Nat) (f : FnState → FnState) : (updFn s n f).msixOpen = s.msixOpen := rfl
@[simp] theorem updFn_msixPending (s : State) (n : Nat) (f : FnState → FnState) : (updFn s n f).msixPending = s.msixPending := rfl
@[simp] theorem updFn_numVfs (s : State) (n : Nat) (f : FnState → FnState) : (updFn s n f).numVfs = s.numVfs := rfl
@[simp] theorem updFn_bar4Log (s : State) (n : Nat) (f : FnState → FnState) : (updFn s n f).bar4Log = s.bar4Log := rfl
@[simp] theorem updFn_rings (s : State) (n : Nat) (f : FnState → FnState) : (updFn s n f).rings = s.rings := rfl
@[simp] theorem updFn_counters (s : State) (n : Nat) (f : FnState → FnState) : (updFn s n f).counters = s.counters := rfl
@[simp] theorem updFn_groupPtr (s : State) (n : Nat) (f : FnState → FnState) : (updFn s n f).groupPtr = s.groupPtr := rfl
@[simp] theorem updFn_credits (s : State) (n : Nat) (f : FnState → FnState) : (updFn s n f).credits = s.credits := rfl
@[simp] theorem updFn_ringPtrs (s : State) (n : Nat) (f : FnState → FnState) : (updFn s n f).ringPtrs = s.ringPtrs := rfl
@[simp] theorem updFn_vecPlacePtr (s : State) (n : Nat) (f : FnState → FnState) : (updFn s n f).vecPlacePtr = s.vecPlacePtr := rfl
@[simp] theorem updFn_work (s : State) (n : Nat) (f : FnState → FnState) : (updFn s n f).work = s.work := rfl
@[simp] theorem updFn_nextOrder (s : State) (n : Nat) (f : FnState → FnState) : (updFn s n f).nextOrder = s.nextOrder := rfl
@[simp] theorem updFn_mem (s : State) (n : Nat) (f : FnState → FnState) : (updFn s n f).mem = s.mem := rfl
@[simp] theorem updFn_hostMem (s : State) (n : Nat) (f : FnState → FnState) : (updFn s n f).hostMem = s.hostMem := rfl
@[simp] theorem updFn_detect (s : State) (n : Nat) (f : FnState → FnState) : (updFn s n f).detect = s.detect := rfl
@[simp] theorem updFn_bad (s : State) (n : Nat) (f : FnState → FnState) : (updFn s n f).bad = s.bad := rfl
@[simp] theorem updFn_writers (s : State) (n : Nat) (f : FnState → FnState) : (updFn s n f).writers = s.writers := rfl
@[simp] theorem updFn_upsets (s : State) (n : Nat) (f : FnState → FnState) : (updFn s n f).upsets = s.upsets := rfl
@[simp] theorem updFn_lines (s : State) (n : Nat) (f : FnState → FnState) : (updFn s n f).lines = s.lines := rfl
@[simp] theorem updFn_useClock (s : State) (n : Nat) (f : FnState → FnState) : (updFn s n f).useClock = s.useClock := rfl
@[simp] theorem updFn_tlbs (s : State) (n : Nat) (f : FnState → FnState) : (updFn s n f).tlbs = s.tlbs := rfl
@[simp] theorem updFn_atsOn (s : State) (n : Nat) (f : FnState → FnState) : (updFn s n f).atsOn = s.atsOn := rfl
@[simp] theorem updFn_ats (s : State) (n : Nat) (f : FnState → FnState) : (updFn s n f).ats = s.ats := rfl
@[simp] theorem updFn_hostErr (s : State) (n : Nat) (f : FnState → FnState) : (updFn s n f).hostErr = s.hostErr := rfl
@[simp] theorem updFn_inval (s : State) (n : Nat) (f : FnState → FnState) : (updFn s n f).inval = s.inval := rfl
@[simp] theorem updFn_mapBusy (s : State) (n : Nat) (f : FnState → FnState) : (updFn s n f).mapBusy = s.mapBusy := rfl
@[simp] theorem updFn_oasis (s : State) (n : Nat) (f : FnState → FnState) : (updFn s n f).oasis = s.oasis := rfl
@[simp] theorem updFn_oasisPtr (s : State) (n : Nat) (f : FnState → FnState) : (updFn s n f).oasisPtr = s.oasisPtr := rfl
@[simp] theorem updFn_tags (s : State) (n : Nat) (f : FnState → FnState) : (updFn s n f).tags = s.tags := rfl
@[simp] theorem updFn_hbm (s : State) (n : Nat) (f : FnState → FnState) : (updFn s n f).hbm = s.hbm := rfl
@[simp] theorem updFn_cells (s : State) (n : Nat) (f : FnState → FnState) : (updFn s n f).cells = s.cells := rfl
@[simp] theorem updFn_blocks (s : State) (n : Nat) (f : FnState → FnState) : (updFn s n f).blocks = s.blocks := rfl
@[simp] theorem updFn_regions (s : State) (n : Nat) (f : FnState → FnState) : (updFn s n f).regions = s.regions := rfl
@[simp] theorem updFn_ports (s : State) (n : Nat) (f : FnState → FnState) : (updFn s n f).ports = s.ports := rfl
@[simp] theorem updFn_fabricPtr (s : State) (n : Nat) (f : FnState → FnState) : (updFn s n f).fabricPtr = s.fabricPtr := rfl
@[simp] theorem updFn_routes (s : State) (n : Nat) (f : FnState → FnState) : (updFn s n f).routes = s.routes := rfl
@[simp] theorem updFn_fabRecs (s : State) (n : Nat) (f : FnState → FnState) : (updFn s n f).fabRecs = s.fabRecs := rfl
@[simp] theorem updFn_arrived (s : State) (n : Nat) (f : FnState → FnState) : (updFn s n f).arrived = s.arrived := rfl
@[simp] theorem updFn_inbox (s : State) (n : Nat) (f : FnState → FnState) : (updFn s n f).inbox = s.inbox := rfl
@[simp] theorem updFn_remotes (s : State) (n : Nat) (f : FnState → FnState) : (updFn s n f).remotes = s.remotes := rfl
@[simp] theorem updFn_answered (s : State) (n : Nat) (f : FnState → FnState) : (updFn s n f).answered = s.answered := rfl
@[simp] theorem updFn_buckets (s : State) (n : Nat) (f : FnState → FnState) : (updFn s n f).buckets = s.buckets := rfl
@[simp] theorem updFn_colGroups (s : State) (n : Nat) (f : FnState → FnState) : (updFn s n f).colGroups = s.colGroups := rfl
@[simp] theorem updFn_recs (s : State) (n : Nat) (f : FnState → FnState) : (updFn s n f).recs = s.recs := rfl
@[simp] theorem updFn_recGen (s : State) (n : Nat) (f : FnState → FnState) : (updFn s n f).recGen = s.recGen := rfl
@[simp] theorem updFn_failStop (s : State) (n : Nat) (f : FnState → FnState) : (updFn s n f).failStop = s.failStop := rfl
@[simp] theorem updFn_leaseAt (s : State) (n : Nat) (f : FnState → FnState) : (updFn s n f).leaseAt = s.leaseAt := rfl
@[simp] theorem updFn_noticeAt (s : State) (n : Nat) (f : FnState → FnState) : (updFn s n f).noticeAt = s.noticeAt := rfl
@[simp] theorem updFn_power (s : State) (n : Nat) (f : FnState → FnState) : (updFn s n f).power = s.power := rfl
@[simp] theorem updFn_tadcs (s : State) (n : Nat) (f : FnState → FnState) : (updFn s n f).tadcs = s.tadcs := rfl
@[simp] theorem updFn_sec (s : State) (n : Nat) (f : FnState → FnState) : (updFn s n f).sec = s.sec := rfl
@[simp] theorem updFn_tap (s : State) (n : Nat) (f : FnState → FnState) : (updFn s n f).tap = s.tap := rfl

/-! ## `setCtr` -/

@[simp] theorem setCtr_pending (s : State) (n : Nat) (c : Counter) : (setCtr s n c).pending = s.pending := rfl
@[simp] theorem setCtr_time (s : State) (n : Nat) (c : Counter) : (setCtr s n c).time = s.time := rfl
@[simp] theorem setCtr_free (s : State) (n : Nat) (c : Counter) : (setCtr s n c).free = s.free := rfl
@[simp] theorem setCtr_out (s : State) (n : Nat) (c : Counter) : (setCtr s n c).out = s.out := rfl
@[simp] theorem setCtr_regs (s : State) (n : Nat) (c : Counter) : (setCtr s n c).regs = s.regs := rfl
@[simp] theorem setCtr_heldLow (s : State) (n : Nat) (c : Counter) : (setCtr s n c).heldLow = s.heldLow := rfl
@[simp] theorem setCtr_shadow (s : State) (n : Nat) (c : Counter) : (setCtr s n c).shadow = s.shadow := rfl
@[simp] theorem setCtr_heldAccess (s : State) (n : Nat) (c : Counter) : (setCtr s n c).heldAccess = s.heldAccess := rfl
@[simp] theorem setCtr_start (s : State) (n : Nat) (c : Counter) : (setCtr s n c).start = s.start := rfl
@[simp] theorem setCtr_nv (s : State) (n : Nat) (c : Counter) : (setCtr s n c).nv = s.nv := rfl
@[simp] theorem setCtr_transom (s : State) (n : Nat) (c : Counter) : (setCtr s n c).transom = s.transom := rfl
@[simp] theorem setCtr_startLog (s : State) (n : Nat) (c : Counter) : (setCtr s n c).startLog = s.startLog := rfl
@[simp] theorem setCtr_startLost (s : State) (n : Nat) (c : Counter) : (setCtr s n c).startLost = s.startLost := rfl
@[simp] theorem setCtr_startLostFirst (s : State) (n : Nat) (c : Counter) : (setCtr s n c).startLostFirst = s.startLostFirst := rfl
@[simp] theorem setCtr_startLostLast (s : State) (n : Nat) (c : Counter) : (setCtr s n c).startLostLast = s.startLostLast := rfl
@[simp] theorem setCtr_alarmWin (s : State) (n : Nat) (c : Counter) : (setCtr s n c).alarmWin = s.alarmWin := rfl
@[simp] theorem setCtr_msixOpen (s : State) (n : Nat) (c : Counter) : (setCtr s n c).msixOpen = s.msixOpen := rfl
@[simp] theorem setCtr_msixPending (s : State) (n : Nat) (c : Counter) : (setCtr s n c).msixPending = s.msixPending := rfl
@[simp] theorem setCtr_numVfs (s : State) (n : Nat) (c : Counter) : (setCtr s n c).numVfs = s.numVfs := rfl
@[simp] theorem setCtr_bar4Log (s : State) (n : Nat) (c : Counter) : (setCtr s n c).bar4Log = s.bar4Log := rfl
@[simp] theorem setCtr_fns (s : State) (n : Nat) (c : Counter) : (setCtr s n c).fns = s.fns := rfl
@[simp] theorem setCtr_rings (s : State) (n : Nat) (c : Counter) : (setCtr s n c).rings = s.rings := rfl
@[simp] theorem setCtr_groupPtr (s : State) (n : Nat) (c : Counter) : (setCtr s n c).groupPtr = s.groupPtr := rfl
@[simp] theorem setCtr_credits (s : State) (n : Nat) (c : Counter) : (setCtr s n c).credits = s.credits := rfl
@[simp] theorem setCtr_ringPtrs (s : State) (n : Nat) (c : Counter) : (setCtr s n c).ringPtrs = s.ringPtrs := rfl
@[simp] theorem setCtr_vecPlacePtr (s : State) (n : Nat) (c : Counter) : (setCtr s n c).vecPlacePtr = s.vecPlacePtr := rfl
@[simp] theorem setCtr_work (s : State) (n : Nat) (c : Counter) : (setCtr s n c).work = s.work := rfl
@[simp] theorem setCtr_nextOrder (s : State) (n : Nat) (c : Counter) : (setCtr s n c).nextOrder = s.nextOrder := rfl
@[simp] theorem setCtr_mem (s : State) (n : Nat) (c : Counter) : (setCtr s n c).mem = s.mem := rfl
@[simp] theorem setCtr_hostMem (s : State) (n : Nat) (c : Counter) : (setCtr s n c).hostMem = s.hostMem := rfl
@[simp] theorem setCtr_detect (s : State) (n : Nat) (c : Counter) : (setCtr s n c).detect = s.detect := rfl
@[simp] theorem setCtr_bad (s : State) (n : Nat) (c : Counter) : (setCtr s n c).bad = s.bad := rfl
@[simp] theorem setCtr_writers (s : State) (n : Nat) (c : Counter) : (setCtr s n c).writers = s.writers := rfl
@[simp] theorem setCtr_upsets (s : State) (n : Nat) (c : Counter) : (setCtr s n c).upsets = s.upsets := rfl
@[simp] theorem setCtr_lines (s : State) (n : Nat) (c : Counter) : (setCtr s n c).lines = s.lines := rfl
@[simp] theorem setCtr_useClock (s : State) (n : Nat) (c : Counter) : (setCtr s n c).useClock = s.useClock := rfl
@[simp] theorem setCtr_tlbs (s : State) (n : Nat) (c : Counter) : (setCtr s n c).tlbs = s.tlbs := rfl
@[simp] theorem setCtr_atsOn (s : State) (n : Nat) (c : Counter) : (setCtr s n c).atsOn = s.atsOn := rfl
@[simp] theorem setCtr_ats (s : State) (n : Nat) (c : Counter) : (setCtr s n c).ats = s.ats := rfl
@[simp] theorem setCtr_hostErr (s : State) (n : Nat) (c : Counter) : (setCtr s n c).hostErr = s.hostErr := rfl
@[simp] theorem setCtr_inval (s : State) (n : Nat) (c : Counter) : (setCtr s n c).inval = s.inval := rfl
@[simp] theorem setCtr_mapBusy (s : State) (n : Nat) (c : Counter) : (setCtr s n c).mapBusy = s.mapBusy := rfl
@[simp] theorem setCtr_oasis (s : State) (n : Nat) (c : Counter) : (setCtr s n c).oasis = s.oasis := rfl
@[simp] theorem setCtr_oasisPtr (s : State) (n : Nat) (c : Counter) : (setCtr s n c).oasisPtr = s.oasisPtr := rfl
@[simp] theorem setCtr_tags (s : State) (n : Nat) (c : Counter) : (setCtr s n c).tags = s.tags := rfl
@[simp] theorem setCtr_hbm (s : State) (n : Nat) (c : Counter) : (setCtr s n c).hbm = s.hbm := rfl
@[simp] theorem setCtr_cells (s : State) (n : Nat) (c : Counter) : (setCtr s n c).cells = s.cells := rfl
@[simp] theorem setCtr_blocks (s : State) (n : Nat) (c : Counter) : (setCtr s n c).blocks = s.blocks := rfl
@[simp] theorem setCtr_regions (s : State) (n : Nat) (c : Counter) : (setCtr s n c).regions = s.regions := rfl
@[simp] theorem setCtr_ports (s : State) (n : Nat) (c : Counter) : (setCtr s n c).ports = s.ports := rfl
@[simp] theorem setCtr_fabricPtr (s : State) (n : Nat) (c : Counter) : (setCtr s n c).fabricPtr = s.fabricPtr := rfl
@[simp] theorem setCtr_routes (s : State) (n : Nat) (c : Counter) : (setCtr s n c).routes = s.routes := rfl
@[simp] theorem setCtr_fabRecs (s : State) (n : Nat) (c : Counter) : (setCtr s n c).fabRecs = s.fabRecs := rfl
@[simp] theorem setCtr_arrived (s : State) (n : Nat) (c : Counter) : (setCtr s n c).arrived = s.arrived := rfl
@[simp] theorem setCtr_inbox (s : State) (n : Nat) (c : Counter) : (setCtr s n c).inbox = s.inbox := rfl
@[simp] theorem setCtr_remotes (s : State) (n : Nat) (c : Counter) : (setCtr s n c).remotes = s.remotes := rfl
@[simp] theorem setCtr_answered (s : State) (n : Nat) (c : Counter) : (setCtr s n c).answered = s.answered := rfl
@[simp] theorem setCtr_buckets (s : State) (n : Nat) (c : Counter) : (setCtr s n c).buckets = s.buckets := rfl
@[simp] theorem setCtr_colGroups (s : State) (n : Nat) (c : Counter) : (setCtr s n c).colGroups = s.colGroups := rfl
@[simp] theorem setCtr_recs (s : State) (n : Nat) (c : Counter) : (setCtr s n c).recs = s.recs := rfl
@[simp] theorem setCtr_recGen (s : State) (n : Nat) (c : Counter) : (setCtr s n c).recGen = s.recGen := rfl
@[simp] theorem setCtr_failStop (s : State) (n : Nat) (c : Counter) : (setCtr s n c).failStop = s.failStop := rfl
@[simp] theorem setCtr_leaseAt (s : State) (n : Nat) (c : Counter) : (setCtr s n c).leaseAt = s.leaseAt := rfl
@[simp] theorem setCtr_noticeAt (s : State) (n : Nat) (c : Counter) : (setCtr s n c).noticeAt = s.noticeAt := rfl
@[simp] theorem setCtr_power (s : State) (n : Nat) (c : Counter) : (setCtr s n c).power = s.power := rfl
@[simp] theorem setCtr_tadcs (s : State) (n : Nat) (c : Counter) : (setCtr s n c).tadcs = s.tadcs := rfl
@[simp] theorem setCtr_sec (s : State) (n : Nat) (c : Counter) : (setCtr s n c).sec = s.sec := rfl
@[simp] theorem setCtr_tap (s : State) (n : Nat) (c : Counter) : (setCtr s n c).tap = s.tap := rfl

/-! ## `updCell` -/

@[simp] theorem updCell_pending (s : State) (n : Nat) (f : Cell → Cell) : (updCell s n f).pending = s.pending := rfl
@[simp] theorem updCell_time (s : State) (n : Nat) (f : Cell → Cell) : (updCell s n f).time = s.time := rfl
@[simp] theorem updCell_free (s : State) (n : Nat) (f : Cell → Cell) : (updCell s n f).free = s.free := rfl
@[simp] theorem updCell_out (s : State) (n : Nat) (f : Cell → Cell) : (updCell s n f).out = s.out := rfl
@[simp] theorem updCell_regs (s : State) (n : Nat) (f : Cell → Cell) : (updCell s n f).regs = s.regs := rfl
@[simp] theorem updCell_heldLow (s : State) (n : Nat) (f : Cell → Cell) : (updCell s n f).heldLow = s.heldLow := rfl
@[simp] theorem updCell_shadow (s : State) (n : Nat) (f : Cell → Cell) : (updCell s n f).shadow = s.shadow := rfl
@[simp] theorem updCell_heldAccess (s : State) (n : Nat) (f : Cell → Cell) : (updCell s n f).heldAccess = s.heldAccess := rfl
@[simp] theorem updCell_start (s : State) (n : Nat) (f : Cell → Cell) : (updCell s n f).start = s.start := rfl
@[simp] theorem updCell_nv (s : State) (n : Nat) (f : Cell → Cell) : (updCell s n f).nv = s.nv := rfl
@[simp] theorem updCell_transom (s : State) (n : Nat) (f : Cell → Cell) : (updCell s n f).transom = s.transom := rfl
@[simp] theorem updCell_startLog (s : State) (n : Nat) (f : Cell → Cell) : (updCell s n f).startLog = s.startLog := rfl
@[simp] theorem updCell_startLost (s : State) (n : Nat) (f : Cell → Cell) : (updCell s n f).startLost = s.startLost := rfl
@[simp] theorem updCell_startLostFirst (s : State) (n : Nat) (f : Cell → Cell) : (updCell s n f).startLostFirst = s.startLostFirst := rfl
@[simp] theorem updCell_startLostLast (s : State) (n : Nat) (f : Cell → Cell) : (updCell s n f).startLostLast = s.startLostLast := rfl
@[simp] theorem updCell_alarmWin (s : State) (n : Nat) (f : Cell → Cell) : (updCell s n f).alarmWin = s.alarmWin := rfl
@[simp] theorem updCell_msixOpen (s : State) (n : Nat) (f : Cell → Cell) : (updCell s n f).msixOpen = s.msixOpen := rfl
@[simp] theorem updCell_msixPending (s : State) (n : Nat) (f : Cell → Cell) : (updCell s n f).msixPending = s.msixPending := rfl
@[simp] theorem updCell_numVfs (s : State) (n : Nat) (f : Cell → Cell) : (updCell s n f).numVfs = s.numVfs := rfl
@[simp] theorem updCell_bar4Log (s : State) (n : Nat) (f : Cell → Cell) : (updCell s n f).bar4Log = s.bar4Log := rfl
@[simp] theorem updCell_fns (s : State) (n : Nat) (f : Cell → Cell) : (updCell s n f).fns = s.fns := rfl
@[simp] theorem updCell_rings (s : State) (n : Nat) (f : Cell → Cell) : (updCell s n f).rings = s.rings := rfl
@[simp] theorem updCell_counters (s : State) (n : Nat) (f : Cell → Cell) : (updCell s n f).counters = s.counters := rfl
@[simp] theorem updCell_groupPtr (s : State) (n : Nat) (f : Cell → Cell) : (updCell s n f).groupPtr = s.groupPtr := rfl
@[simp] theorem updCell_credits (s : State) (n : Nat) (f : Cell → Cell) : (updCell s n f).credits = s.credits := rfl
@[simp] theorem updCell_ringPtrs (s : State) (n : Nat) (f : Cell → Cell) : (updCell s n f).ringPtrs = s.ringPtrs := rfl
@[simp] theorem updCell_vecPlacePtr (s : State) (n : Nat) (f : Cell → Cell) : (updCell s n f).vecPlacePtr = s.vecPlacePtr := rfl
@[simp] theorem updCell_work (s : State) (n : Nat) (f : Cell → Cell) : (updCell s n f).work = s.work := rfl
@[simp] theorem updCell_nextOrder (s : State) (n : Nat) (f : Cell → Cell) : (updCell s n f).nextOrder = s.nextOrder := rfl
@[simp] theorem updCell_mem (s : State) (n : Nat) (f : Cell → Cell) : (updCell s n f).mem = s.mem := rfl
@[simp] theorem updCell_hostMem (s : State) (n : Nat) (f : Cell → Cell) : (updCell s n f).hostMem = s.hostMem := rfl
@[simp] theorem updCell_detect (s : State) (n : Nat) (f : Cell → Cell) : (updCell s n f).detect = s.detect := rfl
@[simp] theorem updCell_bad (s : State) (n : Nat) (f : Cell → Cell) : (updCell s n f).bad = s.bad := rfl
@[simp] theorem updCell_writers (s : State) (n : Nat) (f : Cell → Cell) : (updCell s n f).writers = s.writers := rfl
@[simp] theorem updCell_upsets (s : State) (n : Nat) (f : Cell → Cell) : (updCell s n f).upsets = s.upsets := rfl
@[simp] theorem updCell_lines (s : State) (n : Nat) (f : Cell → Cell) : (updCell s n f).lines = s.lines := rfl
@[simp] theorem updCell_useClock (s : State) (n : Nat) (f : Cell → Cell) : (updCell s n f).useClock = s.useClock := rfl
@[simp] theorem updCell_tlbs (s : State) (n : Nat) (f : Cell → Cell) : (updCell s n f).tlbs = s.tlbs := rfl
@[simp] theorem updCell_atsOn (s : State) (n : Nat) (f : Cell → Cell) : (updCell s n f).atsOn = s.atsOn := rfl
@[simp] theorem updCell_ats (s : State) (n : Nat) (f : Cell → Cell) : (updCell s n f).ats = s.ats := rfl
@[simp] theorem updCell_hostErr (s : State) (n : Nat) (f : Cell → Cell) : (updCell s n f).hostErr = s.hostErr := rfl
@[simp] theorem updCell_inval (s : State) (n : Nat) (f : Cell → Cell) : (updCell s n f).inval = s.inval := rfl
@[simp] theorem updCell_mapBusy (s : State) (n : Nat) (f : Cell → Cell) : (updCell s n f).mapBusy = s.mapBusy := rfl
@[simp] theorem updCell_oasis (s : State) (n : Nat) (f : Cell → Cell) : (updCell s n f).oasis = s.oasis := rfl
@[simp] theorem updCell_oasisPtr (s : State) (n : Nat) (f : Cell → Cell) : (updCell s n f).oasisPtr = s.oasisPtr := rfl
@[simp] theorem updCell_tags (s : State) (n : Nat) (f : Cell → Cell) : (updCell s n f).tags = s.tags := rfl
@[simp] theorem updCell_hbm (s : State) (n : Nat) (f : Cell → Cell) : (updCell s n f).hbm = s.hbm := rfl
@[simp] theorem updCell_blocks (s : State) (n : Nat) (f : Cell → Cell) : (updCell s n f).blocks = s.blocks := rfl
@[simp] theorem updCell_regions (s : State) (n : Nat) (f : Cell → Cell) : (updCell s n f).regions = s.regions := rfl
@[simp] theorem updCell_ports (s : State) (n : Nat) (f : Cell → Cell) : (updCell s n f).ports = s.ports := rfl
@[simp] theorem updCell_fabricPtr (s : State) (n : Nat) (f : Cell → Cell) : (updCell s n f).fabricPtr = s.fabricPtr := rfl
@[simp] theorem updCell_routes (s : State) (n : Nat) (f : Cell → Cell) : (updCell s n f).routes = s.routes := rfl
@[simp] theorem updCell_fabRecs (s : State) (n : Nat) (f : Cell → Cell) : (updCell s n f).fabRecs = s.fabRecs := rfl
@[simp] theorem updCell_arrived (s : State) (n : Nat) (f : Cell → Cell) : (updCell s n f).arrived = s.arrived := rfl
@[simp] theorem updCell_inbox (s : State) (n : Nat) (f : Cell → Cell) : (updCell s n f).inbox = s.inbox := rfl
@[simp] theorem updCell_remotes (s : State) (n : Nat) (f : Cell → Cell) : (updCell s n f).remotes = s.remotes := rfl
@[simp] theorem updCell_answered (s : State) (n : Nat) (f : Cell → Cell) : (updCell s n f).answered = s.answered := rfl
@[simp] theorem updCell_buckets (s : State) (n : Nat) (f : Cell → Cell) : (updCell s n f).buckets = s.buckets := rfl
@[simp] theorem updCell_colGroups (s : State) (n : Nat) (f : Cell → Cell) : (updCell s n f).colGroups = s.colGroups := rfl
@[simp] theorem updCell_recs (s : State) (n : Nat) (f : Cell → Cell) : (updCell s n f).recs = s.recs := rfl
@[simp] theorem updCell_recGen (s : State) (n : Nat) (f : Cell → Cell) : (updCell s n f).recGen = s.recGen := rfl
@[simp] theorem updCell_failStop (s : State) (n : Nat) (f : Cell → Cell) : (updCell s n f).failStop = s.failStop := rfl
@[simp] theorem updCell_leaseAt (s : State) (n : Nat) (f : Cell → Cell) : (updCell s n f).leaseAt = s.leaseAt := rfl
@[simp] theorem updCell_noticeAt (s : State) (n : Nat) (f : Cell → Cell) : (updCell s n f).noticeAt = s.noticeAt := rfl
@[simp] theorem updCell_power (s : State) (n : Nat) (f : Cell → Cell) : (updCell s n f).power = s.power := rfl
@[simp] theorem updCell_tadcs (s : State) (n : Nat) (f : Cell → Cell) : (updCell s n f).tadcs = s.tadcs := rfl
@[simp] theorem updCell_sec (s : State) (n : Nat) (f : Cell → Cell) : (updCell s n f).sec = s.sec := rfl
@[simp] theorem updCell_tap (s : State) (n : Nat) (f : Cell → Cell) : (updCell s n f).tap = s.tap := rfl

/-! ## `updBlock` -/

@[simp] theorem updBlock_pending (s : State) (n : Nat) (f : Block → Block) : (updBlock s n f).pending = s.pending := rfl
@[simp] theorem updBlock_time (s : State) (n : Nat) (f : Block → Block) : (updBlock s n f).time = s.time := rfl
@[simp] theorem updBlock_free (s : State) (n : Nat) (f : Block → Block) : (updBlock s n f).free = s.free := rfl
@[simp] theorem updBlock_out (s : State) (n : Nat) (f : Block → Block) : (updBlock s n f).out = s.out := rfl
@[simp] theorem updBlock_regs (s : State) (n : Nat) (f : Block → Block) : (updBlock s n f).regs = s.regs := rfl
@[simp] theorem updBlock_heldLow (s : State) (n : Nat) (f : Block → Block) : (updBlock s n f).heldLow = s.heldLow := rfl
@[simp] theorem updBlock_shadow (s : State) (n : Nat) (f : Block → Block) : (updBlock s n f).shadow = s.shadow := rfl
@[simp] theorem updBlock_heldAccess (s : State) (n : Nat) (f : Block → Block) : (updBlock s n f).heldAccess = s.heldAccess := rfl
@[simp] theorem updBlock_start (s : State) (n : Nat) (f : Block → Block) : (updBlock s n f).start = s.start := rfl
@[simp] theorem updBlock_nv (s : State) (n : Nat) (f : Block → Block) : (updBlock s n f).nv = s.nv := rfl
@[simp] theorem updBlock_transom (s : State) (n : Nat) (f : Block → Block) : (updBlock s n f).transom = s.transom := rfl
@[simp] theorem updBlock_startLog (s : State) (n : Nat) (f : Block → Block) : (updBlock s n f).startLog = s.startLog := rfl
@[simp] theorem updBlock_startLost (s : State) (n : Nat) (f : Block → Block) : (updBlock s n f).startLost = s.startLost := rfl
@[simp] theorem updBlock_startLostFirst (s : State) (n : Nat) (f : Block → Block) : (updBlock s n f).startLostFirst = s.startLostFirst := rfl
@[simp] theorem updBlock_startLostLast (s : State) (n : Nat) (f : Block → Block) : (updBlock s n f).startLostLast = s.startLostLast := rfl
@[simp] theorem updBlock_alarmWin (s : State) (n : Nat) (f : Block → Block) : (updBlock s n f).alarmWin = s.alarmWin := rfl
@[simp] theorem updBlock_msixOpen (s : State) (n : Nat) (f : Block → Block) : (updBlock s n f).msixOpen = s.msixOpen := rfl
@[simp] theorem updBlock_msixPending (s : State) (n : Nat) (f : Block → Block) : (updBlock s n f).msixPending = s.msixPending := rfl
@[simp] theorem updBlock_numVfs (s : State) (n : Nat) (f : Block → Block) : (updBlock s n f).numVfs = s.numVfs := rfl
@[simp] theorem updBlock_bar4Log (s : State) (n : Nat) (f : Block → Block) : (updBlock s n f).bar4Log = s.bar4Log := rfl
@[simp] theorem updBlock_fns (s : State) (n : Nat) (f : Block → Block) : (updBlock s n f).fns = s.fns := rfl
@[simp] theorem updBlock_rings (s : State) (n : Nat) (f : Block → Block) : (updBlock s n f).rings = s.rings := rfl
@[simp] theorem updBlock_counters (s : State) (n : Nat) (f : Block → Block) : (updBlock s n f).counters = s.counters := rfl
@[simp] theorem updBlock_groupPtr (s : State) (n : Nat) (f : Block → Block) : (updBlock s n f).groupPtr = s.groupPtr := rfl
@[simp] theorem updBlock_credits (s : State) (n : Nat) (f : Block → Block) : (updBlock s n f).credits = s.credits := rfl
@[simp] theorem updBlock_ringPtrs (s : State) (n : Nat) (f : Block → Block) : (updBlock s n f).ringPtrs = s.ringPtrs := rfl
@[simp] theorem updBlock_vecPlacePtr (s : State) (n : Nat) (f : Block → Block) : (updBlock s n f).vecPlacePtr = s.vecPlacePtr := rfl
@[simp] theorem updBlock_work (s : State) (n : Nat) (f : Block → Block) : (updBlock s n f).work = s.work := rfl
@[simp] theorem updBlock_nextOrder (s : State) (n : Nat) (f : Block → Block) : (updBlock s n f).nextOrder = s.nextOrder := rfl
@[simp] theorem updBlock_mem (s : State) (n : Nat) (f : Block → Block) : (updBlock s n f).mem = s.mem := rfl
@[simp] theorem updBlock_hostMem (s : State) (n : Nat) (f : Block → Block) : (updBlock s n f).hostMem = s.hostMem := rfl
@[simp] theorem updBlock_detect (s : State) (n : Nat) (f : Block → Block) : (updBlock s n f).detect = s.detect := rfl
@[simp] theorem updBlock_bad (s : State) (n : Nat) (f : Block → Block) : (updBlock s n f).bad = s.bad := rfl
@[simp] theorem updBlock_writers (s : State) (n : Nat) (f : Block → Block) : (updBlock s n f).writers = s.writers := rfl
@[simp] theorem updBlock_upsets (s : State) (n : Nat) (f : Block → Block) : (updBlock s n f).upsets = s.upsets := rfl
@[simp] theorem updBlock_lines (s : State) (n : Nat) (f : Block → Block) : (updBlock s n f).lines = s.lines := rfl
@[simp] theorem updBlock_useClock (s : State) (n : Nat) (f : Block → Block) : (updBlock s n f).useClock = s.useClock := rfl
@[simp] theorem updBlock_tlbs (s : State) (n : Nat) (f : Block → Block) : (updBlock s n f).tlbs = s.tlbs := rfl
@[simp] theorem updBlock_atsOn (s : State) (n : Nat) (f : Block → Block) : (updBlock s n f).atsOn = s.atsOn := rfl
@[simp] theorem updBlock_ats (s : State) (n : Nat) (f : Block → Block) : (updBlock s n f).ats = s.ats := rfl
@[simp] theorem updBlock_hostErr (s : State) (n : Nat) (f : Block → Block) : (updBlock s n f).hostErr = s.hostErr := rfl
@[simp] theorem updBlock_inval (s : State) (n : Nat) (f : Block → Block) : (updBlock s n f).inval = s.inval := rfl
@[simp] theorem updBlock_mapBusy (s : State) (n : Nat) (f : Block → Block) : (updBlock s n f).mapBusy = s.mapBusy := rfl
@[simp] theorem updBlock_oasis (s : State) (n : Nat) (f : Block → Block) : (updBlock s n f).oasis = s.oasis := rfl
@[simp] theorem updBlock_oasisPtr (s : State) (n : Nat) (f : Block → Block) : (updBlock s n f).oasisPtr = s.oasisPtr := rfl
@[simp] theorem updBlock_tags (s : State) (n : Nat) (f : Block → Block) : (updBlock s n f).tags = s.tags := rfl
@[simp] theorem updBlock_hbm (s : State) (n : Nat) (f : Block → Block) : (updBlock s n f).hbm = s.hbm := rfl
@[simp] theorem updBlock_cells (s : State) (n : Nat) (f : Block → Block) : (updBlock s n f).cells = s.cells := rfl
@[simp] theorem updBlock_regions (s : State) (n : Nat) (f : Block → Block) : (updBlock s n f).regions = s.regions := rfl
@[simp] theorem updBlock_ports (s : State) (n : Nat) (f : Block → Block) : (updBlock s n f).ports = s.ports := rfl
@[simp] theorem updBlock_fabricPtr (s : State) (n : Nat) (f : Block → Block) : (updBlock s n f).fabricPtr = s.fabricPtr := rfl
@[simp] theorem updBlock_routes (s : State) (n : Nat) (f : Block → Block) : (updBlock s n f).routes = s.routes := rfl
@[simp] theorem updBlock_fabRecs (s : State) (n : Nat) (f : Block → Block) : (updBlock s n f).fabRecs = s.fabRecs := rfl
@[simp] theorem updBlock_arrived (s : State) (n : Nat) (f : Block → Block) : (updBlock s n f).arrived = s.arrived := rfl
@[simp] theorem updBlock_inbox (s : State) (n : Nat) (f : Block → Block) : (updBlock s n f).inbox = s.inbox := rfl
@[simp] theorem updBlock_remotes (s : State) (n : Nat) (f : Block → Block) : (updBlock s n f).remotes = s.remotes := rfl
@[simp] theorem updBlock_answered (s : State) (n : Nat) (f : Block → Block) : (updBlock s n f).answered = s.answered := rfl
@[simp] theorem updBlock_buckets (s : State) (n : Nat) (f : Block → Block) : (updBlock s n f).buckets = s.buckets := rfl
@[simp] theorem updBlock_colGroups (s : State) (n : Nat) (f : Block → Block) : (updBlock s n f).colGroups = s.colGroups := rfl
@[simp] theorem updBlock_recs (s : State) (n : Nat) (f : Block → Block) : (updBlock s n f).recs = s.recs := rfl
@[simp] theorem updBlock_recGen (s : State) (n : Nat) (f : Block → Block) : (updBlock s n f).recGen = s.recGen := rfl
@[simp] theorem updBlock_failStop (s : State) (n : Nat) (f : Block → Block) : (updBlock s n f).failStop = s.failStop := rfl
@[simp] theorem updBlock_leaseAt (s : State) (n : Nat) (f : Block → Block) : (updBlock s n f).leaseAt = s.leaseAt := rfl
@[simp] theorem updBlock_noticeAt (s : State) (n : Nat) (f : Block → Block) : (updBlock s n f).noticeAt = s.noticeAt := rfl
@[simp] theorem updBlock_power (s : State) (n : Nat) (f : Block → Block) : (updBlock s n f).power = s.power := rfl
@[simp] theorem updBlock_tadcs (s : State) (n : Nat) (f : Block → Block) : (updBlock s n f).tadcs = s.tadcs := rfl
@[simp] theorem updBlock_sec (s : State) (n : Nat) (f : Block → Block) : (updBlock s n f).sec = s.sec := rfl
@[simp] theorem updBlock_tap (s : State) (n : Nat) (f : Block → Block) : (updBlock s n f).tap = s.tap := rfl

/-! ## `updRegion` -/

@[simp] theorem updRegion_pending (s : State) (n : Nat) (f : Region → Region) : (updRegion s n f).pending = s.pending := rfl
@[simp] theorem updRegion_time (s : State) (n : Nat) (f : Region → Region) : (updRegion s n f).time = s.time := rfl
@[simp] theorem updRegion_free (s : State) (n : Nat) (f : Region → Region) : (updRegion s n f).free = s.free := rfl
@[simp] theorem updRegion_out (s : State) (n : Nat) (f : Region → Region) : (updRegion s n f).out = s.out := rfl
@[simp] theorem updRegion_regs (s : State) (n : Nat) (f : Region → Region) : (updRegion s n f).regs = s.regs := rfl
@[simp] theorem updRegion_heldLow (s : State) (n : Nat) (f : Region → Region) : (updRegion s n f).heldLow = s.heldLow := rfl
@[simp] theorem updRegion_shadow (s : State) (n : Nat) (f : Region → Region) : (updRegion s n f).shadow = s.shadow := rfl
@[simp] theorem updRegion_heldAccess (s : State) (n : Nat) (f : Region → Region) : (updRegion s n f).heldAccess = s.heldAccess := rfl
@[simp] theorem updRegion_start (s : State) (n : Nat) (f : Region → Region) : (updRegion s n f).start = s.start := rfl
@[simp] theorem updRegion_nv (s : State) (n : Nat) (f : Region → Region) : (updRegion s n f).nv = s.nv := rfl
@[simp] theorem updRegion_transom (s : State) (n : Nat) (f : Region → Region) : (updRegion s n f).transom = s.transom := rfl
@[simp] theorem updRegion_startLog (s : State) (n : Nat) (f : Region → Region) : (updRegion s n f).startLog = s.startLog := rfl
@[simp] theorem updRegion_startLost (s : State) (n : Nat) (f : Region → Region) : (updRegion s n f).startLost = s.startLost := rfl
@[simp] theorem updRegion_startLostFirst (s : State) (n : Nat) (f : Region → Region) : (updRegion s n f).startLostFirst = s.startLostFirst := rfl
@[simp] theorem updRegion_startLostLast (s : State) (n : Nat) (f : Region → Region) : (updRegion s n f).startLostLast = s.startLostLast := rfl
@[simp] theorem updRegion_alarmWin (s : State) (n : Nat) (f : Region → Region) : (updRegion s n f).alarmWin = s.alarmWin := rfl
@[simp] theorem updRegion_msixOpen (s : State) (n : Nat) (f : Region → Region) : (updRegion s n f).msixOpen = s.msixOpen := rfl
@[simp] theorem updRegion_msixPending (s : State) (n : Nat) (f : Region → Region) : (updRegion s n f).msixPending = s.msixPending := rfl
@[simp] theorem updRegion_numVfs (s : State) (n : Nat) (f : Region → Region) : (updRegion s n f).numVfs = s.numVfs := rfl
@[simp] theorem updRegion_bar4Log (s : State) (n : Nat) (f : Region → Region) : (updRegion s n f).bar4Log = s.bar4Log := rfl
@[simp] theorem updRegion_fns (s : State) (n : Nat) (f : Region → Region) : (updRegion s n f).fns = s.fns := rfl
@[simp] theorem updRegion_rings (s : State) (n : Nat) (f : Region → Region) : (updRegion s n f).rings = s.rings := rfl
@[simp] theorem updRegion_counters (s : State) (n : Nat) (f : Region → Region) : (updRegion s n f).counters = s.counters := rfl
@[simp] theorem updRegion_groupPtr (s : State) (n : Nat) (f : Region → Region) : (updRegion s n f).groupPtr = s.groupPtr := rfl
@[simp] theorem updRegion_credits (s : State) (n : Nat) (f : Region → Region) : (updRegion s n f).credits = s.credits := rfl
@[simp] theorem updRegion_ringPtrs (s : State) (n : Nat) (f : Region → Region) : (updRegion s n f).ringPtrs = s.ringPtrs := rfl
@[simp] theorem updRegion_vecPlacePtr (s : State) (n : Nat) (f : Region → Region) : (updRegion s n f).vecPlacePtr = s.vecPlacePtr := rfl
@[simp] theorem updRegion_work (s : State) (n : Nat) (f : Region → Region) : (updRegion s n f).work = s.work := rfl
@[simp] theorem updRegion_nextOrder (s : State) (n : Nat) (f : Region → Region) : (updRegion s n f).nextOrder = s.nextOrder := rfl
@[simp] theorem updRegion_mem (s : State) (n : Nat) (f : Region → Region) : (updRegion s n f).mem = s.mem := rfl
@[simp] theorem updRegion_hostMem (s : State) (n : Nat) (f : Region → Region) : (updRegion s n f).hostMem = s.hostMem := rfl
@[simp] theorem updRegion_detect (s : State) (n : Nat) (f : Region → Region) : (updRegion s n f).detect = s.detect := rfl
@[simp] theorem updRegion_bad (s : State) (n : Nat) (f : Region → Region) : (updRegion s n f).bad = s.bad := rfl
@[simp] theorem updRegion_writers (s : State) (n : Nat) (f : Region → Region) : (updRegion s n f).writers = s.writers := rfl
@[simp] theorem updRegion_upsets (s : State) (n : Nat) (f : Region → Region) : (updRegion s n f).upsets = s.upsets := rfl
@[simp] theorem updRegion_lines (s : State) (n : Nat) (f : Region → Region) : (updRegion s n f).lines = s.lines := rfl
@[simp] theorem updRegion_useClock (s : State) (n : Nat) (f : Region → Region) : (updRegion s n f).useClock = s.useClock := rfl
@[simp] theorem updRegion_tlbs (s : State) (n : Nat) (f : Region → Region) : (updRegion s n f).tlbs = s.tlbs := rfl
@[simp] theorem updRegion_atsOn (s : State) (n : Nat) (f : Region → Region) : (updRegion s n f).atsOn = s.atsOn := rfl
@[simp] theorem updRegion_ats (s : State) (n : Nat) (f : Region → Region) : (updRegion s n f).ats = s.ats := rfl
@[simp] theorem updRegion_hostErr (s : State) (n : Nat) (f : Region → Region) : (updRegion s n f).hostErr = s.hostErr := rfl
@[simp] theorem updRegion_inval (s : State) (n : Nat) (f : Region → Region) : (updRegion s n f).inval = s.inval := rfl
@[simp] theorem updRegion_mapBusy (s : State) (n : Nat) (f : Region → Region) : (updRegion s n f).mapBusy = s.mapBusy := rfl
@[simp] theorem updRegion_oasis (s : State) (n : Nat) (f : Region → Region) : (updRegion s n f).oasis = s.oasis := rfl
@[simp] theorem updRegion_oasisPtr (s : State) (n : Nat) (f : Region → Region) : (updRegion s n f).oasisPtr = s.oasisPtr := rfl
@[simp] theorem updRegion_tags (s : State) (n : Nat) (f : Region → Region) : (updRegion s n f).tags = s.tags := rfl
@[simp] theorem updRegion_hbm (s : State) (n : Nat) (f : Region → Region) : (updRegion s n f).hbm = s.hbm := rfl
@[simp] theorem updRegion_cells (s : State) (n : Nat) (f : Region → Region) : (updRegion s n f).cells = s.cells := rfl
@[simp] theorem updRegion_blocks (s : State) (n : Nat) (f : Region → Region) : (updRegion s n f).blocks = s.blocks := rfl
@[simp] theorem updRegion_ports (s : State) (n : Nat) (f : Region → Region) : (updRegion s n f).ports = s.ports := rfl
@[simp] theorem updRegion_fabricPtr (s : State) (n : Nat) (f : Region → Region) : (updRegion s n f).fabricPtr = s.fabricPtr := rfl
@[simp] theorem updRegion_routes (s : State) (n : Nat) (f : Region → Region) : (updRegion s n f).routes = s.routes := rfl
@[simp] theorem updRegion_fabRecs (s : State) (n : Nat) (f : Region → Region) : (updRegion s n f).fabRecs = s.fabRecs := rfl
@[simp] theorem updRegion_arrived (s : State) (n : Nat) (f : Region → Region) : (updRegion s n f).arrived = s.arrived := rfl
@[simp] theorem updRegion_inbox (s : State) (n : Nat) (f : Region → Region) : (updRegion s n f).inbox = s.inbox := rfl
@[simp] theorem updRegion_remotes (s : State) (n : Nat) (f : Region → Region) : (updRegion s n f).remotes = s.remotes := rfl
@[simp] theorem updRegion_answered (s : State) (n : Nat) (f : Region → Region) : (updRegion s n f).answered = s.answered := rfl
@[simp] theorem updRegion_buckets (s : State) (n : Nat) (f : Region → Region) : (updRegion s n f).buckets = s.buckets := rfl
@[simp] theorem updRegion_colGroups (s : State) (n : Nat) (f : Region → Region) : (updRegion s n f).colGroups = s.colGroups := rfl
@[simp] theorem updRegion_recs (s : State) (n : Nat) (f : Region → Region) : (updRegion s n f).recs = s.recs := rfl
@[simp] theorem updRegion_recGen (s : State) (n : Nat) (f : Region → Region) : (updRegion s n f).recGen = s.recGen := rfl
@[simp] theorem updRegion_failStop (s : State) (n : Nat) (f : Region → Region) : (updRegion s n f).failStop = s.failStop := rfl
@[simp] theorem updRegion_leaseAt (s : State) (n : Nat) (f : Region → Region) : (updRegion s n f).leaseAt = s.leaseAt := rfl
@[simp] theorem updRegion_noticeAt (s : State) (n : Nat) (f : Region → Region) : (updRegion s n f).noticeAt = s.noticeAt := rfl
@[simp] theorem updRegion_power (s : State) (n : Nat) (f : Region → Region) : (updRegion s n f).power = s.power := rfl
@[simp] theorem updRegion_tadcs (s : State) (n : Nat) (f : Region → Region) : (updRegion s n f).tadcs = s.tadcs := rfl
@[simp] theorem updRegion_sec (s : State) (n : Nat) (f : Region → Region) : (updRegion s n f).sec = s.sec := rfl
@[simp] theorem updRegion_tap (s : State) (n : Nat) (f : Region → Region) : (updRegion s n f).tap = s.tap := rfl

/-! ## `updStack` -/

@[simp] theorem updStack_pending (s : State) (n : Nat) (f : Stack → Stack) : (updStack s n f).pending = s.pending := rfl
@[simp] theorem updStack_time (s : State) (n : Nat) (f : Stack → Stack) : (updStack s n f).time = s.time := rfl
@[simp] theorem updStack_free (s : State) (n : Nat) (f : Stack → Stack) : (updStack s n f).free = s.free := rfl
@[simp] theorem updStack_out (s : State) (n : Nat) (f : Stack → Stack) : (updStack s n f).out = s.out := rfl
@[simp] theorem updStack_regs (s : State) (n : Nat) (f : Stack → Stack) : (updStack s n f).regs = s.regs := rfl
@[simp] theorem updStack_heldLow (s : State) (n : Nat) (f : Stack → Stack) : (updStack s n f).heldLow = s.heldLow := rfl
@[simp] theorem updStack_shadow (s : State) (n : Nat) (f : Stack → Stack) : (updStack s n f).shadow = s.shadow := rfl
@[simp] theorem updStack_heldAccess (s : State) (n : Nat) (f : Stack → Stack) : (updStack s n f).heldAccess = s.heldAccess := rfl
@[simp] theorem updStack_start (s : State) (n : Nat) (f : Stack → Stack) : (updStack s n f).start = s.start := rfl
@[simp] theorem updStack_nv (s : State) (n : Nat) (f : Stack → Stack) : (updStack s n f).nv = s.nv := rfl
@[simp] theorem updStack_transom (s : State) (n : Nat) (f : Stack → Stack) : (updStack s n f).transom = s.transom := rfl
@[simp] theorem updStack_startLog (s : State) (n : Nat) (f : Stack → Stack) : (updStack s n f).startLog = s.startLog := rfl
@[simp] theorem updStack_startLost (s : State) (n : Nat) (f : Stack → Stack) : (updStack s n f).startLost = s.startLost := rfl
@[simp] theorem updStack_startLostFirst (s : State) (n : Nat) (f : Stack → Stack) : (updStack s n f).startLostFirst = s.startLostFirst := rfl
@[simp] theorem updStack_startLostLast (s : State) (n : Nat) (f : Stack → Stack) : (updStack s n f).startLostLast = s.startLostLast := rfl
@[simp] theorem updStack_alarmWin (s : State) (n : Nat) (f : Stack → Stack) : (updStack s n f).alarmWin = s.alarmWin := rfl
@[simp] theorem updStack_msixOpen (s : State) (n : Nat) (f : Stack → Stack) : (updStack s n f).msixOpen = s.msixOpen := rfl
@[simp] theorem updStack_msixPending (s : State) (n : Nat) (f : Stack → Stack) : (updStack s n f).msixPending = s.msixPending := rfl
@[simp] theorem updStack_numVfs (s : State) (n : Nat) (f : Stack → Stack) : (updStack s n f).numVfs = s.numVfs := rfl
@[simp] theorem updStack_bar4Log (s : State) (n : Nat) (f : Stack → Stack) : (updStack s n f).bar4Log = s.bar4Log := rfl
@[simp] theorem updStack_fns (s : State) (n : Nat) (f : Stack → Stack) : (updStack s n f).fns = s.fns := rfl
@[simp] theorem updStack_rings (s : State) (n : Nat) (f : Stack → Stack) : (updStack s n f).rings = s.rings := rfl
@[simp] theorem updStack_counters (s : State) (n : Nat) (f : Stack → Stack) : (updStack s n f).counters = s.counters := rfl
@[simp] theorem updStack_groupPtr (s : State) (n : Nat) (f : Stack → Stack) : (updStack s n f).groupPtr = s.groupPtr := rfl
@[simp] theorem updStack_credits (s : State) (n : Nat) (f : Stack → Stack) : (updStack s n f).credits = s.credits := rfl
@[simp] theorem updStack_ringPtrs (s : State) (n : Nat) (f : Stack → Stack) : (updStack s n f).ringPtrs = s.ringPtrs := rfl
@[simp] theorem updStack_vecPlacePtr (s : State) (n : Nat) (f : Stack → Stack) : (updStack s n f).vecPlacePtr = s.vecPlacePtr := rfl
@[simp] theorem updStack_work (s : State) (n : Nat) (f : Stack → Stack) : (updStack s n f).work = s.work := rfl
@[simp] theorem updStack_nextOrder (s : State) (n : Nat) (f : Stack → Stack) : (updStack s n f).nextOrder = s.nextOrder := rfl
@[simp] theorem updStack_mem (s : State) (n : Nat) (f : Stack → Stack) : (updStack s n f).mem = s.mem := rfl
@[simp] theorem updStack_hostMem (s : State) (n : Nat) (f : Stack → Stack) : (updStack s n f).hostMem = s.hostMem := rfl
@[simp] theorem updStack_detect (s : State) (n : Nat) (f : Stack → Stack) : (updStack s n f).detect = s.detect := rfl
@[simp] theorem updStack_bad (s : State) (n : Nat) (f : Stack → Stack) : (updStack s n f).bad = s.bad := rfl
@[simp] theorem updStack_writers (s : State) (n : Nat) (f : Stack → Stack) : (updStack s n f).writers = s.writers := rfl
@[simp] theorem updStack_upsets (s : State) (n : Nat) (f : Stack → Stack) : (updStack s n f).upsets = s.upsets := rfl
@[simp] theorem updStack_lines (s : State) (n : Nat) (f : Stack → Stack) : (updStack s n f).lines = s.lines := rfl
@[simp] theorem updStack_useClock (s : State) (n : Nat) (f : Stack → Stack) : (updStack s n f).useClock = s.useClock := rfl
@[simp] theorem updStack_tlbs (s : State) (n : Nat) (f : Stack → Stack) : (updStack s n f).tlbs = s.tlbs := rfl
@[simp] theorem updStack_atsOn (s : State) (n : Nat) (f : Stack → Stack) : (updStack s n f).atsOn = s.atsOn := rfl
@[simp] theorem updStack_ats (s : State) (n : Nat) (f : Stack → Stack) : (updStack s n f).ats = s.ats := rfl
@[simp] theorem updStack_hostErr (s : State) (n : Nat) (f : Stack → Stack) : (updStack s n f).hostErr = s.hostErr := rfl
@[simp] theorem updStack_inval (s : State) (n : Nat) (f : Stack → Stack) : (updStack s n f).inval = s.inval := rfl
@[simp] theorem updStack_mapBusy (s : State) (n : Nat) (f : Stack → Stack) : (updStack s n f).mapBusy = s.mapBusy := rfl
@[simp] theorem updStack_oasis (s : State) (n : Nat) (f : Stack → Stack) : (updStack s n f).oasis = s.oasis := rfl
@[simp] theorem updStack_oasisPtr (s : State) (n : Nat) (f : Stack → Stack) : (updStack s n f).oasisPtr = s.oasisPtr := rfl
@[simp] theorem updStack_tags (s : State) (n : Nat) (f : Stack → Stack) : (updStack s n f).tags = s.tags := rfl
@[simp] theorem updStack_cells (s : State) (n : Nat) (f : Stack → Stack) : (updStack s n f).cells = s.cells := rfl
@[simp] theorem updStack_blocks (s : State) (n : Nat) (f : Stack → Stack) : (updStack s n f).blocks = s.blocks := rfl
@[simp] theorem updStack_regions (s : State) (n : Nat) (f : Stack → Stack) : (updStack s n f).regions = s.regions := rfl
@[simp] theorem updStack_ports (s : State) (n : Nat) (f : Stack → Stack) : (updStack s n f).ports = s.ports := rfl
@[simp] theorem updStack_fabricPtr (s : State) (n : Nat) (f : Stack → Stack) : (updStack s n f).fabricPtr = s.fabricPtr := rfl
@[simp] theorem updStack_routes (s : State) (n : Nat) (f : Stack → Stack) : (updStack s n f).routes = s.routes := rfl
@[simp] theorem updStack_fabRecs (s : State) (n : Nat) (f : Stack → Stack) : (updStack s n f).fabRecs = s.fabRecs := rfl
@[simp] theorem updStack_arrived (s : State) (n : Nat) (f : Stack → Stack) : (updStack s n f).arrived = s.arrived := rfl
@[simp] theorem updStack_inbox (s : State) (n : Nat) (f : Stack → Stack) : (updStack s n f).inbox = s.inbox := rfl
@[simp] theorem updStack_remotes (s : State) (n : Nat) (f : Stack → Stack) : (updStack s n f).remotes = s.remotes := rfl
@[simp] theorem updStack_answered (s : State) (n : Nat) (f : Stack → Stack) : (updStack s n f).answered = s.answered := rfl
@[simp] theorem updStack_buckets (s : State) (n : Nat) (f : Stack → Stack) : (updStack s n f).buckets = s.buckets := rfl
@[simp] theorem updStack_colGroups (s : State) (n : Nat) (f : Stack → Stack) : (updStack s n f).colGroups = s.colGroups := rfl
@[simp] theorem updStack_recs (s : State) (n : Nat) (f : Stack → Stack) : (updStack s n f).recs = s.recs := rfl
@[simp] theorem updStack_recGen (s : State) (n : Nat) (f : Stack → Stack) : (updStack s n f).recGen = s.recGen := rfl
@[simp] theorem updStack_failStop (s : State) (n : Nat) (f : Stack → Stack) : (updStack s n f).failStop = s.failStop := rfl
@[simp] theorem updStack_leaseAt (s : State) (n : Nat) (f : Stack → Stack) : (updStack s n f).leaseAt = s.leaseAt := rfl
@[simp] theorem updStack_noticeAt (s : State) (n : Nat) (f : Stack → Stack) : (updStack s n f).noticeAt = s.noticeAt := rfl
@[simp] theorem updStack_power (s : State) (n : Nat) (f : Stack → Stack) : (updStack s n f).power = s.power := rfl
@[simp] theorem updStack_tadcs (s : State) (n : Nat) (f : Stack → Stack) : (updStack s n f).tadcs = s.tadcs := rfl
@[simp] theorem updStack_sec (s : State) (n : Nat) (f : Stack → Stack) : (updStack s n f).sec = s.sec := rfl
@[simp] theorem updStack_tap (s : State) (n : Nat) (f : Stack → Stack) : (updStack s n f).tap = s.tap := rfl

/-! ## `updPort` -/

@[simp] theorem updPort_pending (s : State) (n : Nat) (f : Port → Port) : (updPort s n f).pending = s.pending := rfl
@[simp] theorem updPort_time (s : State) (n : Nat) (f : Port → Port) : (updPort s n f).time = s.time := rfl
@[simp] theorem updPort_free (s : State) (n : Nat) (f : Port → Port) : (updPort s n f).free = s.free := rfl
@[simp] theorem updPort_out (s : State) (n : Nat) (f : Port → Port) : (updPort s n f).out = s.out := rfl
@[simp] theorem updPort_regs (s : State) (n : Nat) (f : Port → Port) : (updPort s n f).regs = s.regs := rfl
@[simp] theorem updPort_heldLow (s : State) (n : Nat) (f : Port → Port) : (updPort s n f).heldLow = s.heldLow := rfl
@[simp] theorem updPort_shadow (s : State) (n : Nat) (f : Port → Port) : (updPort s n f).shadow = s.shadow := rfl
@[simp] theorem updPort_heldAccess (s : State) (n : Nat) (f : Port → Port) : (updPort s n f).heldAccess = s.heldAccess := rfl
@[simp] theorem updPort_start (s : State) (n : Nat) (f : Port → Port) : (updPort s n f).start = s.start := rfl
@[simp] theorem updPort_nv (s : State) (n : Nat) (f : Port → Port) : (updPort s n f).nv = s.nv := rfl
@[simp] theorem updPort_transom (s : State) (n : Nat) (f : Port → Port) : (updPort s n f).transom = s.transom := rfl
@[simp] theorem updPort_startLog (s : State) (n : Nat) (f : Port → Port) : (updPort s n f).startLog = s.startLog := rfl
@[simp] theorem updPort_startLost (s : State) (n : Nat) (f : Port → Port) : (updPort s n f).startLost = s.startLost := rfl
@[simp] theorem updPort_startLostFirst (s : State) (n : Nat) (f : Port → Port) : (updPort s n f).startLostFirst = s.startLostFirst := rfl
@[simp] theorem updPort_startLostLast (s : State) (n : Nat) (f : Port → Port) : (updPort s n f).startLostLast = s.startLostLast := rfl
@[simp] theorem updPort_alarmWin (s : State) (n : Nat) (f : Port → Port) : (updPort s n f).alarmWin = s.alarmWin := rfl
@[simp] theorem updPort_msixOpen (s : State) (n : Nat) (f : Port → Port) : (updPort s n f).msixOpen = s.msixOpen := rfl
@[simp] theorem updPort_msixPending (s : State) (n : Nat) (f : Port → Port) : (updPort s n f).msixPending = s.msixPending := rfl
@[simp] theorem updPort_numVfs (s : State) (n : Nat) (f : Port → Port) : (updPort s n f).numVfs = s.numVfs := rfl
@[simp] theorem updPort_bar4Log (s : State) (n : Nat) (f : Port → Port) : (updPort s n f).bar4Log = s.bar4Log := rfl
@[simp] theorem updPort_fns (s : State) (n : Nat) (f : Port → Port) : (updPort s n f).fns = s.fns := rfl
@[simp] theorem updPort_rings (s : State) (n : Nat) (f : Port → Port) : (updPort s n f).rings = s.rings := rfl
@[simp] theorem updPort_counters (s : State) (n : Nat) (f : Port → Port) : (updPort s n f).counters = s.counters := rfl
@[simp] theorem updPort_groupPtr (s : State) (n : Nat) (f : Port → Port) : (updPort s n f).groupPtr = s.groupPtr := rfl
@[simp] theorem updPort_credits (s : State) (n : Nat) (f : Port → Port) : (updPort s n f).credits = s.credits := rfl
@[simp] theorem updPort_ringPtrs (s : State) (n : Nat) (f : Port → Port) : (updPort s n f).ringPtrs = s.ringPtrs := rfl
@[simp] theorem updPort_vecPlacePtr (s : State) (n : Nat) (f : Port → Port) : (updPort s n f).vecPlacePtr = s.vecPlacePtr := rfl
@[simp] theorem updPort_work (s : State) (n : Nat) (f : Port → Port) : (updPort s n f).work = s.work := rfl
@[simp] theorem updPort_nextOrder (s : State) (n : Nat) (f : Port → Port) : (updPort s n f).nextOrder = s.nextOrder := rfl
@[simp] theorem updPort_mem (s : State) (n : Nat) (f : Port → Port) : (updPort s n f).mem = s.mem := rfl
@[simp] theorem updPort_hostMem (s : State) (n : Nat) (f : Port → Port) : (updPort s n f).hostMem = s.hostMem := rfl
@[simp] theorem updPort_detect (s : State) (n : Nat) (f : Port → Port) : (updPort s n f).detect = s.detect := rfl
@[simp] theorem updPort_bad (s : State) (n : Nat) (f : Port → Port) : (updPort s n f).bad = s.bad := rfl
@[simp] theorem updPort_writers (s : State) (n : Nat) (f : Port → Port) : (updPort s n f).writers = s.writers := rfl
@[simp] theorem updPort_upsets (s : State) (n : Nat) (f : Port → Port) : (updPort s n f).upsets = s.upsets := rfl
@[simp] theorem updPort_lines (s : State) (n : Nat) (f : Port → Port) : (updPort s n f).lines = s.lines := rfl
@[simp] theorem updPort_useClock (s : State) (n : Nat) (f : Port → Port) : (updPort s n f).useClock = s.useClock := rfl
@[simp] theorem updPort_tlbs (s : State) (n : Nat) (f : Port → Port) : (updPort s n f).tlbs = s.tlbs := rfl
@[simp] theorem updPort_atsOn (s : State) (n : Nat) (f : Port → Port) : (updPort s n f).atsOn = s.atsOn := rfl
@[simp] theorem updPort_ats (s : State) (n : Nat) (f : Port → Port) : (updPort s n f).ats = s.ats := rfl
@[simp] theorem updPort_hostErr (s : State) (n : Nat) (f : Port → Port) : (updPort s n f).hostErr = s.hostErr := rfl
@[simp] theorem updPort_inval (s : State) (n : Nat) (f : Port → Port) : (updPort s n f).inval = s.inval := rfl
@[simp] theorem updPort_mapBusy (s : State) (n : Nat) (f : Port → Port) : (updPort s n f).mapBusy = s.mapBusy := rfl
@[simp] theorem updPort_oasis (s : State) (n : Nat) (f : Port → Port) : (updPort s n f).oasis = s.oasis := rfl
@[simp] theorem updPort_oasisPtr (s : State) (n : Nat) (f : Port → Port) : (updPort s n f).oasisPtr = s.oasisPtr := rfl
@[simp] theorem updPort_tags (s : State) (n : Nat) (f : Port → Port) : (updPort s n f).tags = s.tags := rfl
@[simp] theorem updPort_hbm (s : State) (n : Nat) (f : Port → Port) : (updPort s n f).hbm = s.hbm := rfl
@[simp] theorem updPort_cells (s : State) (n : Nat) (f : Port → Port) : (updPort s n f).cells = s.cells := rfl
@[simp] theorem updPort_blocks (s : State) (n : Nat) (f : Port → Port) : (updPort s n f).blocks = s.blocks := rfl
@[simp] theorem updPort_regions (s : State) (n : Nat) (f : Port → Port) : (updPort s n f).regions = s.regions := rfl
@[simp] theorem updPort_fabricPtr (s : State) (n : Nat) (f : Port → Port) : (updPort s n f).fabricPtr = s.fabricPtr := rfl
@[simp] theorem updPort_routes (s : State) (n : Nat) (f : Port → Port) : (updPort s n f).routes = s.routes := rfl
@[simp] theorem updPort_fabRecs (s : State) (n : Nat) (f : Port → Port) : (updPort s n f).fabRecs = s.fabRecs := rfl
@[simp] theorem updPort_arrived (s : State) (n : Nat) (f : Port → Port) : (updPort s n f).arrived = s.arrived := rfl
@[simp] theorem updPort_inbox (s : State) (n : Nat) (f : Port → Port) : (updPort s n f).inbox = s.inbox := rfl
@[simp] theorem updPort_remotes (s : State) (n : Nat) (f : Port → Port) : (updPort s n f).remotes = s.remotes := rfl
@[simp] theorem updPort_answered (s : State) (n : Nat) (f : Port → Port) : (updPort s n f).answered = s.answered := rfl
@[simp] theorem updPort_buckets (s : State) (n : Nat) (f : Port → Port) : (updPort s n f).buckets = s.buckets := rfl
@[simp] theorem updPort_colGroups (s : State) (n : Nat) (f : Port → Port) : (updPort s n f).colGroups = s.colGroups := rfl
@[simp] theorem updPort_recs (s : State) (n : Nat) (f : Port → Port) : (updPort s n f).recs = s.recs := rfl
@[simp] theorem updPort_recGen (s : State) (n : Nat) (f : Port → Port) : (updPort s n f).recGen = s.recGen := rfl
@[simp] theorem updPort_failStop (s : State) (n : Nat) (f : Port → Port) : (updPort s n f).failStop = s.failStop := rfl
@[simp] theorem updPort_leaseAt (s : State) (n : Nat) (f : Port → Port) : (updPort s n f).leaseAt = s.leaseAt := rfl
@[simp] theorem updPort_noticeAt (s : State) (n : Nat) (f : Port → Port) : (updPort s n f).noticeAt = s.noticeAt := rfl
@[simp] theorem updPort_power (s : State) (n : Nat) (f : Port → Port) : (updPort s n f).power = s.power := rfl
@[simp] theorem updPort_tadcs (s : State) (n : Nat) (f : Port → Port) : (updPort s n f).tadcs = s.tadcs := rfl
@[simp] theorem updPort_sec (s : State) (n : Nat) (f : Port → Port) : (updPort s n f).sec = s.sec := rfl
@[simp] theorem updPort_tap (s : State) (n : Nat) (f : Port → Port) : (updPort s n f).tap = s.tap := rfl

/-! ## `updTadc` -/

@[simp] theorem updTadc_pending (s : State) (n : Nat) (f : Tadc → Tadc) : (updTadc s n f).pending = s.pending := rfl
@[simp] theorem updTadc_time (s : State) (n : Nat) (f : Tadc → Tadc) : (updTadc s n f).time = s.time := rfl
@[simp] theorem updTadc_free (s : State) (n : Nat) (f : Tadc → Tadc) : (updTadc s n f).free = s.free := rfl
@[simp] theorem updTadc_out (s : State) (n : Nat) (f : Tadc → Tadc) : (updTadc s n f).out = s.out := rfl
@[simp] theorem updTadc_regs (s : State) (n : Nat) (f : Tadc → Tadc) : (updTadc s n f).regs = s.regs := rfl
@[simp] theorem updTadc_heldLow (s : State) (n : Nat) (f : Tadc → Tadc) : (updTadc s n f).heldLow = s.heldLow := rfl
@[simp] theorem updTadc_shadow (s : State) (n : Nat) (f : Tadc → Tadc) : (updTadc s n f).shadow = s.shadow := rfl
@[simp] theorem updTadc_heldAccess (s : State) (n : Nat) (f : Tadc → Tadc) : (updTadc s n f).heldAccess = s.heldAccess := rfl
@[simp] theorem updTadc_start (s : State) (n : Nat) (f : Tadc → Tadc) : (updTadc s n f).start = s.start := rfl
@[simp] theorem updTadc_nv (s : State) (n : Nat) (f : Tadc → Tadc) : (updTadc s n f).nv = s.nv := rfl
@[simp] theorem updTadc_transom (s : State) (n : Nat) (f : Tadc → Tadc) : (updTadc s n f).transom = s.transom := rfl
@[simp] theorem updTadc_startLog (s : State) (n : Nat) (f : Tadc → Tadc) : (updTadc s n f).startLog = s.startLog := rfl
@[simp] theorem updTadc_startLost (s : State) (n : Nat) (f : Tadc → Tadc) : (updTadc s n f).startLost = s.startLost := rfl
@[simp] theorem updTadc_startLostFirst (s : State) (n : Nat) (f : Tadc → Tadc) : (updTadc s n f).startLostFirst = s.startLostFirst := rfl
@[simp] theorem updTadc_startLostLast (s : State) (n : Nat) (f : Tadc → Tadc) : (updTadc s n f).startLostLast = s.startLostLast := rfl
@[simp] theorem updTadc_alarmWin (s : State) (n : Nat) (f : Tadc → Tadc) : (updTadc s n f).alarmWin = s.alarmWin := rfl
@[simp] theorem updTadc_msixOpen (s : State) (n : Nat) (f : Tadc → Tadc) : (updTadc s n f).msixOpen = s.msixOpen := rfl
@[simp] theorem updTadc_msixPending (s : State) (n : Nat) (f : Tadc → Tadc) : (updTadc s n f).msixPending = s.msixPending := rfl
@[simp] theorem updTadc_numVfs (s : State) (n : Nat) (f : Tadc → Tadc) : (updTadc s n f).numVfs = s.numVfs := rfl
@[simp] theorem updTadc_bar4Log (s : State) (n : Nat) (f : Tadc → Tadc) : (updTadc s n f).bar4Log = s.bar4Log := rfl
@[simp] theorem updTadc_fns (s : State) (n : Nat) (f : Tadc → Tadc) : (updTadc s n f).fns = s.fns := rfl
@[simp] theorem updTadc_rings (s : State) (n : Nat) (f : Tadc → Tadc) : (updTadc s n f).rings = s.rings := rfl
@[simp] theorem updTadc_counters (s : State) (n : Nat) (f : Tadc → Tadc) : (updTadc s n f).counters = s.counters := rfl
@[simp] theorem updTadc_groupPtr (s : State) (n : Nat) (f : Tadc → Tadc) : (updTadc s n f).groupPtr = s.groupPtr := rfl
@[simp] theorem updTadc_credits (s : State) (n : Nat) (f : Tadc → Tadc) : (updTadc s n f).credits = s.credits := rfl
@[simp] theorem updTadc_ringPtrs (s : State) (n : Nat) (f : Tadc → Tadc) : (updTadc s n f).ringPtrs = s.ringPtrs := rfl
@[simp] theorem updTadc_vecPlacePtr (s : State) (n : Nat) (f : Tadc → Tadc) : (updTadc s n f).vecPlacePtr = s.vecPlacePtr := rfl
@[simp] theorem updTadc_work (s : State) (n : Nat) (f : Tadc → Tadc) : (updTadc s n f).work = s.work := rfl
@[simp] theorem updTadc_nextOrder (s : State) (n : Nat) (f : Tadc → Tadc) : (updTadc s n f).nextOrder = s.nextOrder := rfl
@[simp] theorem updTadc_mem (s : State) (n : Nat) (f : Tadc → Tadc) : (updTadc s n f).mem = s.mem := rfl
@[simp] theorem updTadc_hostMem (s : State) (n : Nat) (f : Tadc → Tadc) : (updTadc s n f).hostMem = s.hostMem := rfl
@[simp] theorem updTadc_detect (s : State) (n : Nat) (f : Tadc → Tadc) : (updTadc s n f).detect = s.detect := rfl
@[simp] theorem updTadc_bad (s : State) (n : Nat) (f : Tadc → Tadc) : (updTadc s n f).bad = s.bad := rfl
@[simp] theorem updTadc_writers (s : State) (n : Nat) (f : Tadc → Tadc) : (updTadc s n f).writers = s.writers := rfl
@[simp] theorem updTadc_upsets (s : State) (n : Nat) (f : Tadc → Tadc) : (updTadc s n f).upsets = s.upsets := rfl
@[simp] theorem updTadc_lines (s : State) (n : Nat) (f : Tadc → Tadc) : (updTadc s n f).lines = s.lines := rfl
@[simp] theorem updTadc_useClock (s : State) (n : Nat) (f : Tadc → Tadc) : (updTadc s n f).useClock = s.useClock := rfl
@[simp] theorem updTadc_tlbs (s : State) (n : Nat) (f : Tadc → Tadc) : (updTadc s n f).tlbs = s.tlbs := rfl
@[simp] theorem updTadc_atsOn (s : State) (n : Nat) (f : Tadc → Tadc) : (updTadc s n f).atsOn = s.atsOn := rfl
@[simp] theorem updTadc_ats (s : State) (n : Nat) (f : Tadc → Tadc) : (updTadc s n f).ats = s.ats := rfl
@[simp] theorem updTadc_hostErr (s : State) (n : Nat) (f : Tadc → Tadc) : (updTadc s n f).hostErr = s.hostErr := rfl
@[simp] theorem updTadc_inval (s : State) (n : Nat) (f : Tadc → Tadc) : (updTadc s n f).inval = s.inval := rfl
@[simp] theorem updTadc_mapBusy (s : State) (n : Nat) (f : Tadc → Tadc) : (updTadc s n f).mapBusy = s.mapBusy := rfl
@[simp] theorem updTadc_oasis (s : State) (n : Nat) (f : Tadc → Tadc) : (updTadc s n f).oasis = s.oasis := rfl
@[simp] theorem updTadc_oasisPtr (s : State) (n : Nat) (f : Tadc → Tadc) : (updTadc s n f).oasisPtr = s.oasisPtr := rfl
@[simp] theorem updTadc_tags (s : State) (n : Nat) (f : Tadc → Tadc) : (updTadc s n f).tags = s.tags := rfl
@[simp] theorem updTadc_hbm (s : State) (n : Nat) (f : Tadc → Tadc) : (updTadc s n f).hbm = s.hbm := rfl
@[simp] theorem updTadc_cells (s : State) (n : Nat) (f : Tadc → Tadc) : (updTadc s n f).cells = s.cells := rfl
@[simp] theorem updTadc_blocks (s : State) (n : Nat) (f : Tadc → Tadc) : (updTadc s n f).blocks = s.blocks := rfl
@[simp] theorem updTadc_regions (s : State) (n : Nat) (f : Tadc → Tadc) : (updTadc s n f).regions = s.regions := rfl
@[simp] theorem updTadc_ports (s : State) (n : Nat) (f : Tadc → Tadc) : (updTadc s n f).ports = s.ports := rfl
@[simp] theorem updTadc_fabricPtr (s : State) (n : Nat) (f : Tadc → Tadc) : (updTadc s n f).fabricPtr = s.fabricPtr := rfl
@[simp] theorem updTadc_routes (s : State) (n : Nat) (f : Tadc → Tadc) : (updTadc s n f).routes = s.routes := rfl
@[simp] theorem updTadc_fabRecs (s : State) (n : Nat) (f : Tadc → Tadc) : (updTadc s n f).fabRecs = s.fabRecs := rfl
@[simp] theorem updTadc_arrived (s : State) (n : Nat) (f : Tadc → Tadc) : (updTadc s n f).arrived = s.arrived := rfl
@[simp] theorem updTadc_inbox (s : State) (n : Nat) (f : Tadc → Tadc) : (updTadc s n f).inbox = s.inbox := rfl
@[simp] theorem updTadc_remotes (s : State) (n : Nat) (f : Tadc → Tadc) : (updTadc s n f).remotes = s.remotes := rfl
@[simp] theorem updTadc_answered (s : State) (n : Nat) (f : Tadc → Tadc) : (updTadc s n f).answered = s.answered := rfl
@[simp] theorem updTadc_buckets (s : State) (n : Nat) (f : Tadc → Tadc) : (updTadc s n f).buckets = s.buckets := rfl
@[simp] theorem updTadc_colGroups (s : State) (n : Nat) (f : Tadc → Tadc) : (updTadc s n f).colGroups = s.colGroups := rfl
@[simp] theorem updTadc_recs (s : State) (n : Nat) (f : Tadc → Tadc) : (updTadc s n f).recs = s.recs := rfl
@[simp] theorem updTadc_recGen (s : State) (n : Nat) (f : Tadc → Tadc) : (updTadc s n f).recGen = s.recGen := rfl
@[simp] theorem updTadc_failStop (s : State) (n : Nat) (f : Tadc → Tadc) : (updTadc s n f).failStop = s.failStop := rfl
@[simp] theorem updTadc_leaseAt (s : State) (n : Nat) (f : Tadc → Tadc) : (updTadc s n f).leaseAt = s.leaseAt := rfl
@[simp] theorem updTadc_noticeAt (s : State) (n : Nat) (f : Tadc → Tadc) : (updTadc s n f).noticeAt = s.noticeAt := rfl
@[simp] theorem updTadc_power (s : State) (n : Nat) (f : Tadc → Tadc) : (updTadc s n f).power = s.power := rfl
@[simp] theorem updTadc_sec (s : State) (n : Nat) (f : Tadc → Tadc) : (updTadc s n f).sec = s.sec := rfl
@[simp] theorem updTadc_tap (s : State) (n : Nat) (f : Tadc → Tadc) : (updTadc s n f).tap = s.tap := rfl

/-! ## `updEntry` -/

@[simp] theorem updEntry_pending (s : State) (type inst : Nat) (f : Entry → Entry) : (updEntry s type inst f).pending = s.pending := rfl
@[simp] theorem updEntry_time (s : State) (type inst : Nat) (f : Entry → Entry) : (updEntry s type inst f).time = s.time := rfl
@[simp] theorem updEntry_free (s : State) (type inst : Nat) (f : Entry → Entry) : (updEntry s type inst f).free = s.free := rfl
@[simp] theorem updEntry_out (s : State) (type inst : Nat) (f : Entry → Entry) : (updEntry s type inst f).out = s.out := rfl
@[simp] theorem updEntry_regs (s : State) (type inst : Nat) (f : Entry → Entry) : (updEntry s type inst f).regs = s.regs := rfl
@[simp] theorem updEntry_heldLow (s : State) (type inst : Nat) (f : Entry → Entry) : (updEntry s type inst f).heldLow = s.heldLow := rfl
@[simp] theorem updEntry_shadow (s : State) (type inst : Nat) (f : Entry → Entry) : (updEntry s type inst f).shadow = s.shadow := rfl
@[simp] theorem updEntry_heldAccess (s : State) (type inst : Nat) (f : Entry → Entry) : (updEntry s type inst f).heldAccess = s.heldAccess := rfl
@[simp] theorem updEntry_start (s : State) (type inst : Nat) (f : Entry → Entry) : (updEntry s type inst f).start = s.start := rfl
@[simp] theorem updEntry_nv (s : State) (type inst : Nat) (f : Entry → Entry) : (updEntry s type inst f).nv = s.nv := rfl
@[simp] theorem updEntry_startLog (s : State) (type inst : Nat) (f : Entry → Entry) : (updEntry s type inst f).startLog = s.startLog := rfl
@[simp] theorem updEntry_startLost (s : State) (type inst : Nat) (f : Entry → Entry) : (updEntry s type inst f).startLost = s.startLost := rfl
@[simp] theorem updEntry_startLostFirst (s : State) (type inst : Nat) (f : Entry → Entry) : (updEntry s type inst f).startLostFirst = s.startLostFirst := rfl
@[simp] theorem updEntry_startLostLast (s : State) (type inst : Nat) (f : Entry → Entry) : (updEntry s type inst f).startLostLast = s.startLostLast := rfl
@[simp] theorem updEntry_alarmWin (s : State) (type inst : Nat) (f : Entry → Entry) : (updEntry s type inst f).alarmWin = s.alarmWin := rfl
@[simp] theorem updEntry_msixOpen (s : State) (type inst : Nat) (f : Entry → Entry) : (updEntry s type inst f).msixOpen = s.msixOpen := rfl
@[simp] theorem updEntry_msixPending (s : State) (type inst : Nat) (f : Entry → Entry) : (updEntry s type inst f).msixPending = s.msixPending := rfl
@[simp] theorem updEntry_numVfs (s : State) (type inst : Nat) (f : Entry → Entry) : (updEntry s type inst f).numVfs = s.numVfs := rfl
@[simp] theorem updEntry_bar4Log (s : State) (type inst : Nat) (f : Entry → Entry) : (updEntry s type inst f).bar4Log = s.bar4Log := rfl
@[simp] theorem updEntry_fns (s : State) (type inst : Nat) (f : Entry → Entry) : (updEntry s type inst f).fns = s.fns := rfl
@[simp] theorem updEntry_rings (s : State) (type inst : Nat) (f : Entry → Entry) : (updEntry s type inst f).rings = s.rings := rfl
@[simp] theorem updEntry_counters (s : State) (type inst : Nat) (f : Entry → Entry) : (updEntry s type inst f).counters = s.counters := rfl
@[simp] theorem updEntry_groupPtr (s : State) (type inst : Nat) (f : Entry → Entry) : (updEntry s type inst f).groupPtr = s.groupPtr := rfl
@[simp] theorem updEntry_credits (s : State) (type inst : Nat) (f : Entry → Entry) : (updEntry s type inst f).credits = s.credits := rfl
@[simp] theorem updEntry_ringPtrs (s : State) (type inst : Nat) (f : Entry → Entry) : (updEntry s type inst f).ringPtrs = s.ringPtrs := rfl
@[simp] theorem updEntry_vecPlacePtr (s : State) (type inst : Nat) (f : Entry → Entry) : (updEntry s type inst f).vecPlacePtr = s.vecPlacePtr := rfl
@[simp] theorem updEntry_work (s : State) (type inst : Nat) (f : Entry → Entry) : (updEntry s type inst f).work = s.work := rfl
@[simp] theorem updEntry_nextOrder (s : State) (type inst : Nat) (f : Entry → Entry) : (updEntry s type inst f).nextOrder = s.nextOrder := rfl
@[simp] theorem updEntry_mem (s : State) (type inst : Nat) (f : Entry → Entry) : (updEntry s type inst f).mem = s.mem := rfl
@[simp] theorem updEntry_hostMem (s : State) (type inst : Nat) (f : Entry → Entry) : (updEntry s type inst f).hostMem = s.hostMem := rfl
@[simp] theorem updEntry_detect (s : State) (type inst : Nat) (f : Entry → Entry) : (updEntry s type inst f).detect = s.detect := rfl
@[simp] theorem updEntry_bad (s : State) (type inst : Nat) (f : Entry → Entry) : (updEntry s type inst f).bad = s.bad := rfl
@[simp] theorem updEntry_writers (s : State) (type inst : Nat) (f : Entry → Entry) : (updEntry s type inst f).writers = s.writers := rfl
@[simp] theorem updEntry_upsets (s : State) (type inst : Nat) (f : Entry → Entry) : (updEntry s type inst f).upsets = s.upsets := rfl
@[simp] theorem updEntry_lines (s : State) (type inst : Nat) (f : Entry → Entry) : (updEntry s type inst f).lines = s.lines := rfl
@[simp] theorem updEntry_useClock (s : State) (type inst : Nat) (f : Entry → Entry) : (updEntry s type inst f).useClock = s.useClock := rfl
@[simp] theorem updEntry_tlbs (s : State) (type inst : Nat) (f : Entry → Entry) : (updEntry s type inst f).tlbs = s.tlbs := rfl
@[simp] theorem updEntry_atsOn (s : State) (type inst : Nat) (f : Entry → Entry) : (updEntry s type inst f).atsOn = s.atsOn := rfl
@[simp] theorem updEntry_ats (s : State) (type inst : Nat) (f : Entry → Entry) : (updEntry s type inst f).ats = s.ats := rfl
@[simp] theorem updEntry_hostErr (s : State) (type inst : Nat) (f : Entry → Entry) : (updEntry s type inst f).hostErr = s.hostErr := rfl
@[simp] theorem updEntry_inval (s : State) (type inst : Nat) (f : Entry → Entry) : (updEntry s type inst f).inval = s.inval := rfl
@[simp] theorem updEntry_mapBusy (s : State) (type inst : Nat) (f : Entry → Entry) : (updEntry s type inst f).mapBusy = s.mapBusy := rfl
@[simp] theorem updEntry_oasis (s : State) (type inst : Nat) (f : Entry → Entry) : (updEntry s type inst f).oasis = s.oasis := rfl
@[simp] theorem updEntry_oasisPtr (s : State) (type inst : Nat) (f : Entry → Entry) : (updEntry s type inst f).oasisPtr = s.oasisPtr := rfl
@[simp] theorem updEntry_tags (s : State) (type inst : Nat) (f : Entry → Entry) : (updEntry s type inst f).tags = s.tags := rfl
@[simp] theorem updEntry_hbm (s : State) (type inst : Nat) (f : Entry → Entry) : (updEntry s type inst f).hbm = s.hbm := rfl
@[simp] theorem updEntry_cells (s : State) (type inst : Nat) (f : Entry → Entry) : (updEntry s type inst f).cells = s.cells := rfl
@[simp] theorem updEntry_blocks (s : State) (type inst : Nat) (f : Entry → Entry) : (updEntry s type inst f).blocks = s.blocks := rfl
@[simp] theorem updEntry_regions (s : State) (type inst : Nat) (f : Entry → Entry) : (updEntry s type inst f).regions = s.regions := rfl
@[simp] theorem updEntry_ports (s : State) (type inst : Nat) (f : Entry → Entry) : (updEntry s type inst f).ports = s.ports := rfl
@[simp] theorem updEntry_fabricPtr (s : State) (type inst : Nat) (f : Entry → Entry) : (updEntry s type inst f).fabricPtr = s.fabricPtr := rfl
@[simp] theorem updEntry_routes (s : State) (type inst : Nat) (f : Entry → Entry) : (updEntry s type inst f).routes = s.routes := rfl
@[simp] theorem updEntry_fabRecs (s : State) (type inst : Nat) (f : Entry → Entry) : (updEntry s type inst f).fabRecs = s.fabRecs := rfl
@[simp] theorem updEntry_arrived (s : State) (type inst : Nat) (f : Entry → Entry) : (updEntry s type inst f).arrived = s.arrived := rfl
@[simp] theorem updEntry_inbox (s : State) (type inst : Nat) (f : Entry → Entry) : (updEntry s type inst f).inbox = s.inbox := rfl
@[simp] theorem updEntry_remotes (s : State) (type inst : Nat) (f : Entry → Entry) : (updEntry s type inst f).remotes = s.remotes := rfl
@[simp] theorem updEntry_answered (s : State) (type inst : Nat) (f : Entry → Entry) : (updEntry s type inst f).answered = s.answered := rfl
@[simp] theorem updEntry_buckets (s : State) (type inst : Nat) (f : Entry → Entry) : (updEntry s type inst f).buckets = s.buckets := rfl
@[simp] theorem updEntry_colGroups (s : State) (type inst : Nat) (f : Entry → Entry) : (updEntry s type inst f).colGroups = s.colGroups := rfl
@[simp] theorem updEntry_recs (s : State) (type inst : Nat) (f : Entry → Entry) : (updEntry s type inst f).recs = s.recs := rfl
@[simp] theorem updEntry_recGen (s : State) (type inst : Nat) (f : Entry → Entry) : (updEntry s type inst f).recGen = s.recGen := rfl
@[simp] theorem updEntry_failStop (s : State) (type inst : Nat) (f : Entry → Entry) : (updEntry s type inst f).failStop = s.failStop := rfl
@[simp] theorem updEntry_leaseAt (s : State) (type inst : Nat) (f : Entry → Entry) : (updEntry s type inst f).leaseAt = s.leaseAt := rfl
@[simp] theorem updEntry_noticeAt (s : State) (type inst : Nat) (f : Entry → Entry) : (updEntry s type inst f).noticeAt = s.noticeAt := rfl
@[simp] theorem updEntry_power (s : State) (type inst : Nat) (f : Entry → Entry) : (updEntry s type inst f).power = s.power := rfl
@[simp] theorem updEntry_tadcs (s : State) (type inst : Nat) (f : Entry → Entry) : (updEntry s type inst f).tadcs = s.tadcs := rfl
@[simp] theorem updEntry_sec (s : State) (type inst : Nat) (f : Entry → Entry) : (updEntry s type inst f).sec = s.sec := rfl
@[simp] theorem updEntry_tap (s : State) (type inst : Nat) (f : Entry → Entry) : (updEntry s type inst f).tap = s.tap := rfl

/-! ## `send` -/

@[simp] theorem send_pending (s : State) (o : Out) : (send s o).pending = s.pending := rfl
@[simp] theorem send_time (s : State) (o : Out) : (send s o).time = s.time := rfl
@[simp] theorem send_free (s : State) (o : Out) : (send s o).free = s.free := rfl
@[simp] theorem send_regs (s : State) (o : Out) : (send s o).regs = s.regs := rfl
@[simp] theorem send_heldLow (s : State) (o : Out) : (send s o).heldLow = s.heldLow := rfl
@[simp] theorem send_shadow (s : State) (o : Out) : (send s o).shadow = s.shadow := rfl
@[simp] theorem send_heldAccess (s : State) (o : Out) : (send s o).heldAccess = s.heldAccess := rfl
@[simp] theorem send_start (s : State) (o : Out) : (send s o).start = s.start := rfl
@[simp] theorem send_nv (s : State) (o : Out) : (send s o).nv = s.nv := rfl
@[simp] theorem send_transom (s : State) (o : Out) : (send s o).transom = s.transom := rfl
@[simp] theorem send_startLog (s : State) (o : Out) : (send s o).startLog = s.startLog := rfl
@[simp] theorem send_startLost (s : State) (o : Out) : (send s o).startLost = s.startLost := rfl
@[simp] theorem send_startLostFirst (s : State) (o : Out) : (send s o).startLostFirst = s.startLostFirst := rfl
@[simp] theorem send_startLostLast (s : State) (o : Out) : (send s o).startLostLast = s.startLostLast := rfl
@[simp] theorem send_alarmWin (s : State) (o : Out) : (send s o).alarmWin = s.alarmWin := rfl
@[simp] theorem send_msixOpen (s : State) (o : Out) : (send s o).msixOpen = s.msixOpen := rfl
@[simp] theorem send_msixPending (s : State) (o : Out) : (send s o).msixPending = s.msixPending := rfl
@[simp] theorem send_numVfs (s : State) (o : Out) : (send s o).numVfs = s.numVfs := rfl
@[simp] theorem send_bar4Log (s : State) (o : Out) : (send s o).bar4Log = s.bar4Log := rfl
@[simp] theorem send_fns (s : State) (o : Out) : (send s o).fns = s.fns := rfl
@[simp] theorem send_rings (s : State) (o : Out) : (send s o).rings = s.rings := rfl
@[simp] theorem send_counters (s : State) (o : Out) : (send s o).counters = s.counters := rfl
@[simp] theorem send_groupPtr (s : State) (o : Out) : (send s o).groupPtr = s.groupPtr := rfl
@[simp] theorem send_credits (s : State) (o : Out) : (send s o).credits = s.credits := rfl
@[simp] theorem send_ringPtrs (s : State) (o : Out) : (send s o).ringPtrs = s.ringPtrs := rfl
@[simp] theorem send_vecPlacePtr (s : State) (o : Out) : (send s o).vecPlacePtr = s.vecPlacePtr := rfl
@[simp] theorem send_work (s : State) (o : Out) : (send s o).work = s.work := rfl
@[simp] theorem send_nextOrder (s : State) (o : Out) : (send s o).nextOrder = s.nextOrder := rfl
@[simp] theorem send_mem (s : State) (o : Out) : (send s o).mem = s.mem := rfl
@[simp] theorem send_hostMem (s : State) (o : Out) : (send s o).hostMem = s.hostMem := rfl
@[simp] theorem send_detect (s : State) (o : Out) : (send s o).detect = s.detect := rfl
@[simp] theorem send_bad (s : State) (o : Out) : (send s o).bad = s.bad := rfl
@[simp] theorem send_writers (s : State) (o : Out) : (send s o).writers = s.writers := rfl
@[simp] theorem send_upsets (s : State) (o : Out) : (send s o).upsets = s.upsets := rfl
@[simp] theorem send_lines (s : State) (o : Out) : (send s o).lines = s.lines := rfl
@[simp] theorem send_useClock (s : State) (o : Out) : (send s o).useClock = s.useClock := rfl
@[simp] theorem send_tlbs (s : State) (o : Out) : (send s o).tlbs = s.tlbs := rfl
@[simp] theorem send_atsOn (s : State) (o : Out) : (send s o).atsOn = s.atsOn := rfl
@[simp] theorem send_ats (s : State) (o : Out) : (send s o).ats = s.ats := rfl
@[simp] theorem send_hostErr (s : State) (o : Out) : (send s o).hostErr = s.hostErr := rfl
@[simp] theorem send_inval (s : State) (o : Out) : (send s o).inval = s.inval := rfl
@[simp] theorem send_mapBusy (s : State) (o : Out) : (send s o).mapBusy = s.mapBusy := rfl
@[simp] theorem send_oasis (s : State) (o : Out) : (send s o).oasis = s.oasis := rfl
@[simp] theorem send_oasisPtr (s : State) (o : Out) : (send s o).oasisPtr = s.oasisPtr := rfl
@[simp] theorem send_tags (s : State) (o : Out) : (send s o).tags = s.tags := rfl
@[simp] theorem send_hbm (s : State) (o : Out) : (send s o).hbm = s.hbm := rfl
@[simp] theorem send_cells (s : State) (o : Out) : (send s o).cells = s.cells := rfl
@[simp] theorem send_blocks (s : State) (o : Out) : (send s o).blocks = s.blocks := rfl
@[simp] theorem send_regions (s : State) (o : Out) : (send s o).regions = s.regions := rfl
@[simp] theorem send_ports (s : State) (o : Out) : (send s o).ports = s.ports := rfl
@[simp] theorem send_fabricPtr (s : State) (o : Out) : (send s o).fabricPtr = s.fabricPtr := rfl
@[simp] theorem send_routes (s : State) (o : Out) : (send s o).routes = s.routes := rfl
@[simp] theorem send_fabRecs (s : State) (o : Out) : (send s o).fabRecs = s.fabRecs := rfl
@[simp] theorem send_arrived (s : State) (o : Out) : (send s o).arrived = s.arrived := rfl
@[simp] theorem send_inbox (s : State) (o : Out) : (send s o).inbox = s.inbox := rfl
@[simp] theorem send_remotes (s : State) (o : Out) : (send s o).remotes = s.remotes := rfl
@[simp] theorem send_answered (s : State) (o : Out) : (send s o).answered = s.answered := rfl
@[simp] theorem send_buckets (s : State) (o : Out) : (send s o).buckets = s.buckets := rfl
@[simp] theorem send_colGroups (s : State) (o : Out) : (send s o).colGroups = s.colGroups := rfl
@[simp] theorem send_recs (s : State) (o : Out) : (send s o).recs = s.recs := rfl
@[simp] theorem send_recGen (s : State) (o : Out) : (send s o).recGen = s.recGen := rfl
@[simp] theorem send_failStop (s : State) (o : Out) : (send s o).failStop = s.failStop := rfl
@[simp] theorem send_leaseAt (s : State) (o : Out) : (send s o).leaseAt = s.leaseAt := rfl
@[simp] theorem send_noticeAt (s : State) (o : Out) : (send s o).noticeAt = s.noticeAt := rfl
@[simp] theorem send_power (s : State) (o : Out) : (send s o).power = s.power := rfl
@[simp] theorem send_tadcs (s : State) (o : Out) : (send s o).tadcs = s.tadcs := rfl
@[simp] theorem send_sec (s : State) (o : Out) : (send s o).sec = s.sec := rfl
@[simp] theorem send_tap (s : State) (o : Out) : (send s o).tap = s.tap := rfl

end Sys2Proof.Machine
end

