-- ==== Sys2Proof/Laws/Tab.lean ====
section
/-! SUPPORT. Laws of the sparse tables: reading after writing, and the canonical form that every write keeps. -/

namespace Sys2Proof.Machine

variable {α : Type}

/-! ## Reading after a write -/

theorem Tab.get_ins (d v : α) (t : Tab α) (n m : Nat) :
    Tab.get d (Tab.ins t n v) m = if m = n then v else Tab.get d t m := by
  induction t with
  | nil => simp [Tab.ins, Tab.get]
  | cons p t ih =>
    obtain ⟨k, w⟩ := p
    simp only [Tab.ins]
    split
    · simp only [Tab.get]
    · split
      · next h => subst h; simp only [Tab.get]; split <;> rfl
      · next h1 h2 =>
        simp only [Tab.get, ih]
        by_cases hm : m = k
        · subst hm; simp; omega
        · simp [hm]

theorem Tab.get_del (d : α) (t : Tab α) (n m : Nat) :
    Tab.get d (Tab.del t n) m = if m = n then d else Tab.get d t m := by
  unfold Tab.del
  induction t with
  | nil => simp [Tab.get]
  | cons p t ih =>
    obtain ⟨k, w⟩ := p
    by_cases hk : k = n
    · subst hk
      simp only [ne_eq, not_true_eq_false, decide_false, Bool.false_eq_true, not_false_eq_true, List.filter_cons_of_neg,
        Tab.get, ih]
      split <;> simp_all
    · simp only [ne_eq, hk, not_false_eq_true, decide_true, List.filter_cons_of_pos, Tab.get, ih]
      by_cases hm : m = k
      · subst hm; simp [hk]
      · simp [hm]

/-- Reading after a write: the value written at its number, the old one elsewhere. -/
theorem Tab.get_set [DecidableEq α] (d v : α) (t : Tab α) (n m : Nat) :
    Tab.get d (Tab.set d t n v) m = if m = n then v else Tab.get d t m := by
  unfold Tab.set
  split
  · next h => subst h; exact Tab.get_del _ t n m
  · exact Tab.get_ins d v t n m

@[simp] theorem Tab.get_set_same [DecidableEq α] (d v : α) (t : Tab α) (n : Nat) :
    Tab.get d (Tab.set d t n v) n = v := by simp [Tab.get_set]

/-- A write leaves every other number, whatever an unlisted one reads as. -/
theorem Tab.get_set_ne [DecidableEq α] (d e v : α) (t : Tab α) (n m : Nat) (h : m ≠ n) :
    Tab.get d (Tab.set e t n v) m = Tab.get d t m := by
  unfold Tab.set
  split
  · rw [Tab.get_del, if_neg h]
  · rw [Tab.get_ins, if_neg h]

@[simp] theorem Tab.get_upd_same [DecidableEq α] (d : α) (t : Tab α) (n : Nat) (f : α → α) :
    Tab.get d (Tab.upd d t n f) n = f (Tab.get d t n) := by simp [Tab.upd]

theorem Tab.get_upd_ne [DecidableEq α] (d : α) (t : Tab α) (n m : Nat) (f : α → α) (h : m ≠ n) :
    Tab.get d (Tab.upd d t n f) m = Tab.get d t m := Tab.get_set_ne _ _ _ _ _ _ h

/-- Reading after a run of writes: the bytes of the run at their places, the old value elsewhere. -/
theorem Tab.get_setN [DecidableEq α] (d : α) (vs : List α) (t : Tab α) (n m : Nat) :
    Tab.get d (Tab.setN d t n vs) m = if n ≤ m ∧ m < n + vs.length then vs.getD (m - n) d else Tab.get d t m := by
  induction vs generalizing t n with
  | nil => rw [Tab.setN, if_neg (by simp only [List.length_nil]; omega)]
  | cons v vs ih =>
    simp only [Tab.setN, ih, Tab.get_set, List.length_cons]
    by_cases h1 : m = n
    · subst h1; rw [if_neg (by omega)]; simp
    · by_cases h2 : n + 1 ≤ m ∧ m < n + 1 + vs.length
      · have : m - n = (m - (n + 1)) + 1 := by omega
        rw [if_pos h2, if_pos (by omega), this]; simp
      · rw [if_neg h2, if_neg h1, if_neg (by omega)]

theorem Tab.get_setN_outside [DecidableEq α] (d : α) (vs : List α) (t : Tab α) (n m : Nat)
    (h : m < n ∨ n + vs.length ≤ m) : Tab.get d (Tab.setN d t n vs) m = Tab.get d t m := by
  rw [Tab.get_setN, if_neg (by omega)]

/-! ## The canonical form -/

/-- The first number of a table lies above a bound. -/
def Tab.above (n : Nat) : Tab α → Prop
  | [] => True
  | p :: _ => n < p.1

theorem Tab.wf_cons [DecidableEq α] (d : α) (k : Nat) (v : α) (t : Tab α) :
    Tab.wf d ((k, v) :: t) = true ↔ v ≠ d ∧ Tab.above k t ∧ Tab.wf d t = true := by
  cases t with
  | nil => simp [Tab.wf, Tab.above]
  | cons q t => obtain ⟨k', v'⟩ := q; simp [Tab.wf, Tab.above, and_assoc]

theorem Tab.above_mono {a b : Nat} (h : a ≤ b) : (t : Tab α) → Tab.above b t → Tab.above a t
  | [], _ => trivial
  | p :: _, hb => by simp only [Tab.above] at *; omega

theorem Tab.above_ins (a n : Nat) (v : α) (t : Tab α) (hn : a < n) (ht : Tab.above a t) : Tab.above a (Tab.ins t n v) := by
  cases t with
  | nil => simpa [Tab.ins, Tab.above] using hn
  | cons p t =>
    obtain ⟨k, w⟩ := p
    simp only [Tab.ins]
    split
    · simpa [Tab.above] using hn
    · split
      · simpa [Tab.above] using hn
      · simpa [Tab.above] using ht

theorem Tab.wf_ins [DecidableEq α] (d v : α) (hv : v ≠ d) (t : Tab α) (n : Nat) (h : Tab.wf d t = true) :
    Tab.wf d (Tab.ins t n v) = true := by
  induction t with
  | nil => simp [Tab.ins, Tab.wf, hv]
  | cons p t ih =>
    obtain ⟨k, w⟩ := p
    rw [Tab.wf_cons] at h
    simp only [Tab.ins]
    split
    · next hn =>
      rw [Tab.wf_cons]
      exact ⟨hv, hn, (Tab.wf_cons _ _ _ _).2 h⟩
    · split
      · next hn => subst hn; rw [Tab.wf_cons]; exact ⟨hv, h.2.1, h.2.2⟩
      · rw [Tab.wf_cons]
        exact ⟨h.1, Tab.above_ins _ _ _ _ (by omega) h.2.1, ih h.2.2⟩

theorem Tab.above_filter [DecidableEq α] (d : α) (n : Nat) (f : Nat × α → Bool) (t : Tab α) (h : Tab.wf d t = true)
    (ha : Tab.above n t) : Tab.above n (t.filter f) := by
  induction t generalizing n with
  | nil => trivial
  | cons p t ih =>
    obtain ⟨k, w⟩ := p
    rw [Tab.wf_cons] at h
    simp only [List.filter_cons]
    split
    · exact ha
    · exact ih n h.2.2 (Tab.above_mono (Nat.le_of_lt ha) t h.2.1)

/-- Dropping entries keeps the form. -/
theorem Tab.wf_filter [DecidableEq α] (d : α) (f : Nat × α → Bool) (t : Tab α) (h : Tab.wf d t = true) :
    Tab.wf d (t.filter f) = true := by
  induction t with
  | nil => rfl
  | cons p t ih =>
    obtain ⟨k, w⟩ := p
    have h' := (Tab.wf_cons _ _ _ _).1 h
    simp only [List.filter_cons]
    split
    · rw [Tab.wf_cons]
      exact ⟨h'.1, Tab.above_filter d k f t h'.2.2 h'.2.1, ih h'.2.2⟩
    · exact ih h'.2.2

/-- A write keeps the form. -/
theorem Tab.wf_set [DecidableEq α] (d v : α) (t : Tab α) (n : Nat) (h : Tab.wf d t = true) :
    Tab.wf d (Tab.set d t n v) = true := by
  unfold Tab.set
  split
  · exact Tab.wf_filter d _ t h
  · next hv => exact Tab.wf_ins d v hv t n h

theorem Tab.wf_upd [DecidableEq α] (d : α) (t : Tab α) (n : Nat) (f : α → α) (h : Tab.wf d t = true) :
    Tab.wf d (Tab.upd d t n f) = true := Tab.wf_set _ _ _ _ h

/-- A run of writes keeps the form. -/
theorem Tab.wf_setN [DecidableEq α] (d : α) (vs : List α) (t : Tab α) (n : Nat) (h : Tab.wf d t = true) :
    Tab.wf d (Tab.setN d t n vs) = true := by
  induction vs generalizing t n with
  | nil => exact h
  | cons v vs ih => exact ih _ _ (Tab.wf_set _ _ _ _ h)

/-- A fold of writes keeps the form. -/
theorem Tab.wf_foldSet [DecidableEq α] (d : α) (ps : List (Nat × α)) (t : Tab α) (h : Tab.wf d t = true) :
    Tab.wf d (ps.foldl (fun m p => Tab.set d m p.1 p.2) t) = true := by
  induction ps generalizing t with
  | nil => exact h
  | cons p ps ih => exact ih _ (Tab.wf_set _ _ _ _ h)

end Sys2Proof.Machine
end

