-- ==== Sys2Proof/Laws/Registers.lean ====
section
/-! SUPPORT. Laws of bit fields and of the register file: reading after writing. -/

namespace Sys2Proof.Machine

/-! ## Fields of numbers -/

theorem field_eq (n lo w : Nat) : field n lo w = n / 2 ^ lo % 2 ^ w := by
  simp [field, Nat.shiftRight_eq_div_pow]

theorem field_lt (n lo w : Nat) : field n lo w < 2 ^ w := by
  rw [field_eq]; exact Nat.mod_lt _ (Nat.two_pow_pos w)

/-- A number cut at a field: what lies below it, the field, and what lies above it. -/
theorem split_field (n lo w : Nat) : n = n % 2 ^ lo + 2 ^ lo * (field n lo w + 2 ^ w * (n / 2 ^ (lo + w))) := by
  have h1 := Nat.mod_add_div n (2 ^ lo)
  have h2 := Nat.mod_add_div (n / 2 ^ lo) (2 ^ w)
  rw [Nat.div_div_eq_div_mul, ← Nat.pow_add] at h2
  rw [field_eq, h2, h1]

theorem setField_eq (n lo w v : Nat) :
    setField n lo w v = n % 2 ^ lo + 2 ^ lo * (v % 2 ^ w + 2 ^ w * (n / 2 ^ (lo + w))) := by
  have h := split_field n lo w
  have e : setField n lo w v = n - field n lo w * 2 ^ lo + v % 2 ^ w * 2 ^ lo := rfl
  rw [e]
  generalize hf : field n lo w = f at *
  generalize n / 2 ^ (lo + w) = q at *
  generalize n % 2 ^ lo = a at *
  have e1 : n = a + (f * 2 ^ lo + 2 ^ lo * (2 ^ w * q)) := by
    rw [h, Nat.mul_add, Nat.mul_comm f]
  have e2 : n - f * 2 ^ lo = a + 2 ^ lo * (2 ^ w * q) := by omega
  rw [e2, Nat.mul_add, Nat.mul_comm (v % 2 ^ w)]; omega

/-- A field reads as it was set. -/
@[simp] theorem field_setField (n lo w v : Nat) : field (setField n lo w v) lo w = v % 2 ^ w := by
  have hp : 0 < 2 ^ lo := Nat.two_pow_pos lo
  rw [field_eq, setField_eq, Nat.add_mul_div_left _ _ hp, Nat.div_eq_of_lt (Nat.mod_lt _ hp), Nat.zero_add,
    Nat.add_mul_mod_self_left, Nat.mod_mod]

/-- Setting a field leaves a field below it. -/
theorem field_setField_below (n lo w v lo' w' : Nat) (h : lo' + w' ≤ lo) : field (setField n lo w v) lo' w' = field n lo' w' := by
  have key : ∀ m x : Nat, field (m % 2 ^ lo + 2 ^ lo * x) lo' w' = field m lo' w' := by
    intro m x
    obtain ⟨k, hk⟩ : ∃ k, lo = lo' + w' + k := ⟨lo - lo' - w', by omega⟩
    have e1 : 2 ^ lo * x = 2 ^ lo' * (2 ^ w' * (2 ^ k * x)) := by rw [hk, Nat.pow_add, Nat.pow_add]; simp only [Nat.mul_assoc]
    rw [field_eq, field_eq, e1, Nat.add_mul_div_left _ _ (Nat.two_pow_pos lo'), Nat.add_mul_mod_self_left]
    have e2 : m % 2 ^ lo / 2 ^ lo' = m / 2 ^ lo' % 2 ^ (w' + k) := by
      rw [hk, Nat.add_assoc, Nat.pow_add, Nat.mod_mul_right_div_self]
    rw [e2]
    exact Nat.mod_mod_of_dvd _ (Nat.pow_dvd_pow 2 (by omega))
  rw [setField_eq, key]

/-- Setting a field leaves a field above it. -/
theorem field_setField_above (n lo w v lo' w' : Nat) (h : lo + w ≤ lo') : field (setField n lo w v) lo' w' = field n lo' w' := by
  obtain ⟨k, hk⟩ : ∃ k, lo' = lo + w + k := ⟨lo' - lo - w, by omega⟩
  have up : setField n lo w v / 2 ^ (lo + w) = n / 2 ^ (lo + w) := by
    rw [setField_eq, Nat.pow_add, ← Nat.div_div_eq_div_mul, Nat.add_mul_div_left _ _ (Nat.two_pow_pos lo),
      Nat.div_eq_of_lt (Nat.mod_lt _ (Nat.two_pow_pos lo)), Nat.zero_add, Nat.add_mul_div_left _ _ (Nat.two_pow_pos w),
      Nat.div_eq_of_lt (Nat.mod_lt _ (Nat.two_pow_pos w)), Nat.zero_add, ← Nat.pow_add]
  rw [field_eq, field_eq, hk, Nat.pow_add 2 (lo + w) k, ← Nat.div_div_eq_div_mul, ← Nat.div_div_eq_div_mul, up]

theorem bit_mod (b : Bool) : bit b % 2 ^ 1 = bit b := by cases b <;> rfl

@[simp] theorem bit_eq_one (b : Bool) : (bit b = 1) = (b = true) := by cases b <;> simp [bit]

/-- One bit of a 32-bit cut of a number. -/
theorem field_mod (n lo w k : Nat) (h : lo + w ≤ k) : field (n % 2 ^ k) lo w = field n lo w := by
  obtain ⟨j, rfl⟩ : ∃ j, k = lo + (w + j) := ⟨k - lo - w, by omega⟩
  rw [field_eq, field_eq, Nat.pow_add, Nat.mod_mul_right_div_self]
  exact Nat.mod_mod_of_dvd _ (Nat.pow_dvd_pow 2 (by omega))

/-! ## The register file -/

/-- A register reads as it was set. -/
@[simp] theorem getReg_setReg_same (s : State) (r : RegId) (v : Nat) : getReg (setReg s r v) r = v % 2 ^ 32 := by
  simp [getReg, setReg]

/-- Setting a register leaves every other one. -/
theorem getReg_setReg_ne (s : State) (r q : RegId) (v : Nat) (h : regKey q ≠ regKey r) :
    getReg (setReg s r v) q = getReg s q := by
  simp only [getReg, setReg]; exact Tab.get_set_ne _ _ _ _ _ _ h

@[simp] theorem getFld_setFld_same (s : State) (r : RegId) (lo w v : Nat) (h : lo + w ≤ 32) :
    getFld (setFld s r lo w v) r lo w = v % 2 ^ w := by
  simp only [getFld, setFld, getReg_setReg_same]
  rw [field_mod _ _ _ _ h, field_setField]

theorem getFld_setFld_other (s : State) (r : RegId) (lo w v lo' w' : Nat) (h : lo' + w' ≤ lo ∨ lo + w ≤ lo') (h' : lo' + w' ≤ 32) :
    getFld (setFld s r lo w v) r lo' w' = getFld s r lo' w' := by
  simp only [getFld, setFld, getReg_setReg_same]
  rw [field_mod _ _ _ _ h']
  rcases h with h | h
  · exact field_setField_below _ _ _ _ _ _ h
  · exact field_setField_above _ _ _ _ _ _ h

theorem getFld_setFld_ne (s : State) (r q : RegId) (lo w v lo' w' : Nat) (h : regKey q ≠ regKey r) :
    getFld (setFld s r lo w v) q lo' w' = getFld s q lo' w' := by
  simp only [getFld, setFld]; rw [getReg_setReg_ne _ _ _ _ h]

theorem getFld_setReg_ne (s : State) (r q : RegId) (v lo w : Nat) (h : regKey q ≠ regKey r) :
    getFld (setReg s r v) q lo w = getFld s q lo w := by
  simp only [getFld]; rw [getReg_setReg_ne _ _ _ _ h]

@[simp] theorem getBit_setBit_same (s : State) (r : RegId) (b : Nat) (v : Bool) (h : b < 32) :
    getBit (setBit s r b v) r b = v := by
  have := getFld_setFld_same s r b 1 (bit v) (by omega)
  simp only [getFld] at this
  simp only [getBit, setBit, flag, this, bit_mod]
  cases v <;> rfl

theorem getBit_setBit_other (s : State) (r : RegId) (b c : Nat) (v : Bool) (h : c ≠ b) (hc : c < 32) :
    getBit (setBit s r b v) r c = getBit s r c := by
  have := getFld_setFld_other s r b 1 (bit v) c 1 (by omega) (by omega)
  simp only [getFld] at this
  simp only [getBit, setBit, flag, this]

theorem getBit_setBit_ne (s : State) (r q : RegId) (b c : Nat) (v : Bool) (h : regKey q ≠ regKey r) :
    getBit (setBit s r b v) q c = getBit s q c := by
  simp only [getBit, setBit, setFld]; rw [getReg_setReg_ne _ _ _ _ h]

theorem getBit_setReg_ne (s : State) (r q : RegId) (v c : Nat) (h : regKey q ≠ regKey r) :
    getBit (setReg s r v) q c = getBit s q c := by
  simp only [getBit]; rw [getReg_setReg_ne _ _ _ _ h]

/-- Registers of different names, with indices in range, are listed under different numbers. -/
theorem regKey_ne (r q : RegId) (hr : r.i < 4096 ∧ r.j < 64) (hq : q.i < 4096 ∧ q.j < 64)
    (h : r.name.ctorIdx ≠ q.name.ctorIdx ∨ r.i ≠ q.i ∨ r.j ≠ q.j) : regKey r ≠ regKey q := by
  simp only [regKey]; omega

/-! ## Tables of like things -/

@[simp] theorem getRing_updRing_same (s : State) (n : Nat) (f : Ring → Ring) : getRing (updRing s n f) n = f (getRing s n) := by
  simp [getRing, updRing]
theorem getRing_updRing_ne (s : State) (n m : Nat) (f : Ring → Ring) (h : m ≠ n) : getRing (updRing s n f) m = getRing s m := by
  simp [getRing, updRing, Tab.get_upd_ne _ _ _ _ _ h]
@[simp] theorem getFn_updFn_same (s : State) (n : Nat) (f : FnState → FnState) : getFn (updFn s n f) n = f (getFn s n) := by
  simp [getFn, updFn]
theorem getFn_updFn_ne (s : State) (n m : Nat) (f : FnState → FnState) (h : m ≠ n) : getFn (updFn s n f) m = getFn s m := by
  simp [getFn, updFn, Tab.get_upd_ne _ _ _ _ _ h]
@[simp] theorem getCtr_setCtr_same (s : State) (n : Nat) (c : Counter) : getCtr (setCtr s n c) n = c := by
  simp [getCtr, setCtr]
theorem getCtr_setCtr_ne (s : State) (n m : Nat) (c : Counter) (h : m ≠ n) : getCtr (setCtr s n c) m = getCtr s m := by
  simp [getCtr, setCtr, Tab.get_set, h]
@[simp] theorem getCell_updCell_same (s : State) (n : Nat) (f : Cell → Cell) : getCell (updCell s n f) n = f (getCell s n) := by
  simp [getCell, updCell]
theorem getCell_updCell_ne (s : State) (n m : Nat) (f : Cell → Cell) (h : m ≠ n) : getCell (updCell s n f) m = getCell s m := by
  simp [getCell, updCell, Tab.get_upd_ne _ _ _ _ _ h]
@[simp] theorem getBlock_updBlock_same (s : State) (n : Nat) (f : Block → Block) :
    getBlock (updBlock s n f) n = f (getBlock s n) := by simp [getBlock, updBlock]
theorem getBlock_updBlock_ne (s : State) (n m : Nat) (f : Block → Block) (h : m ≠ n) :
    getBlock (updBlock s n f) m = getBlock s m := by simp [getBlock, updBlock, Tab.get_upd_ne _ _ _ _ _ h]
@[simp] theorem getRegion_updRegion_same (s : State) (n : Nat) (f : Region → Region) :
    getRegion (updRegion s n f) n = f (getRegion s n) := by simp [getRegion, updRegion]
theorem getRegion_updRegion_ne (s : State) (n m : Nat) (f : Region → Region) (h : m ≠ n) :
    getRegion (updRegion s n f) m = getRegion s m := by simp [getRegion, updRegion, Tab.get_upd_ne _ _ _ _ _ h]
@[simp] theorem getStack_updStack_same (s : State) (n : Nat) (f : Stack → Stack) :
    getStack (updStack s n f) n = f (getStack s n) := by simp [getStack, updStack]
theorem getStack_updStack_ne (s : State) (n m : Nat) (f : Stack → Stack) (h : m ≠ n) :
    getStack (updStack s n f) m = getStack s m := by simp [getStack, updStack, Tab.get_upd_ne _ _ _ _ _ h]
@[simp] theorem getPort_updPort_same (s : State) (n : Nat) (f : Port → Port) : getPort (updPort s n f) n = f (getPort s n) := by
  simp [getPort, updPort]
theorem getPort_updPort_ne (s : State) (n m : Nat) (f : Port → Port) (h : m ≠ n) : getPort (updPort s n f) m = getPort s m := by
  simp [getPort, updPort, Tab.get_upd_ne _ _ _ _ _ h]
@[simp] theorem getTadc_updTadc_same (s : State) (n : Nat) (f : Tadc → Tadc) : getTadc (updTadc s n f) n = f (getTadc s n) := by
  simp [getTadc, updTadc]
@[simp] theorem getEntry_updEntry_same (s : State) (t i : Nat) (f : Entry → Entry) :
    getEntry (updEntry s t i f) t i = f (getEntry s t i) := by simp [getEntry, updEntry]

end Sys2Proof.Machine
end

