-- ==== Sys2Proof/Laws/Reports.lean ====
section
/-! SUPPORT. What reporting can do: messages, interrupts, event records and alarms change the reporting parts of the state
and nothing else. -/

namespace Sys2Proof.Machine

/-! ## What stays of a ring, of a function and of a port -/

/-- A ring but for its producer side, its lost counts and its rate windows. -/
def Ring.core (r : Ring) : Ring :=
  { r with prod := 0, unsignalled := 0, lostFull := 0, lostRate := 0, lostFirst := 0, lostLast := 0, windows := [], firstAt := 0 }

/-- A function but for its lost counts. -/
def FnState.core (f : FnState) : FnState := { f with lost := 0, lostFirst := 0, lostLast := 0 }

/-- A port but for its sending side. -/
def Port.core (p : Port) : Port :=
  { p with queue := [], clsPtr := 0, round := [], nextSeq := 0, replay := [], credits := [], freed := [], sinceAck := 0, ackAt := 0 }

/-- `t` is `s` after some reports. -/
structure Reports (s t : State) : Prop where
  rest : t = { s with
    out := t.out, hostMem := t.hostMem, rings := t.rings, fns := t.fns, msixPending := t.msixPending
    startLog := t.startLog, startLost := t.startLost, startLostFirst := t.startLostFirst, startLostLast := t.startLostLast
    regs := t.regs, alarmWin := t.alarmWin, ports := t.ports, fabricPtr := t.fabricPtr }
  rings : ∀ n, (getRing t n).core = (getRing s n).core
  fns : ∀ n, (getFn t n).core = (getFn s n).core
  ports : ∀ n, (getPort t n).core = (getPort s n).core
  regs : ∀ q : RegId, q.i < 4096 → q.j < 64 → q.name ≠ .hubAlarmStat → q.name ≠ .hubAlarmCnt → getReg t q = getReg s q

namespace Reports

theorem refl (s : State) : Reports s s :=
  ⟨rfl, fun _ => rfl, fun _ => rfl, fun _ => rfl, fun _ _ _ _ _ => rfl⟩

theorem trans {s t u : State} (h : Reports s t) (k : Reports t u) : Reports s u where
  rest := by rw [k.rest]; rw [h.rest]
  rings n := (k.rings n).trans (h.rings n)
  fns n := (k.fns n).trans (h.fns n)
  ports n := (k.ports n).trans (h.ports n)
  regs q a b h1 h2 := (k.regs q a b h1 h2).trans (h.regs q a b h1 h2)

theorem foldl {α : Type} (f : State → α → State) (hf : ∀ s a, Reports s (f s a)) (l : List α) (s : State) :
    Reports s (l.foldl f s) := by
  induction l generalizing s with
  | nil => exact refl s
  | cons a l ih => exact (hf s a).trans (ih _)

end Reports

/-! ## The single updates -/

theorem send_reports (s : State) (o : Out) : Reports s (send s o) :=
  ⟨rfl, fun _ => rfl, fun _ => rfl, fun _ => rfl, fun _ _ _ _ _ => rfl⟩

theorem hostWrite_reports (s : State) (fn a : Nat) (bs : List Byte) : Reports s (hostWrite s fn a bs) :=
  ⟨rfl, fun _ => rfl, fun _ => rfl, fun _ => rfl, fun _ _ _ _ _ => rfl⟩

theorem msix_reports (s : State) (fn v : Nat) : Reports s (msix s fn v) := by
  unfold msix
  split
  · exact send_reports _ _
  · split
    · exact Reports.refl s
    · exact ⟨rfl, fun _ => rfl, fun _ => rfl, fun _ => rfl, fun _ _ _ _ _ => rfl⟩

theorem updRing_reports (s : State) (n : Nat) (f : Ring → Ring) (h : ∀ r, (f r).core = r.core) : Reports s (updRing s n f) :=
  ⟨rfl, fun m => by
    by_cases e : m = n
    · subst e; simp [h]
    · rw [getRing_updRing_ne _ _ _ _ e], fun _ => rfl, fun _ => rfl, fun _ _ _ _ _ => rfl⟩

theorem updFn_reports (s : State) (n : Nat) (f : FnState → FnState) (h : ∀ r, (f r).core = r.core) : Reports s (updFn s n f) :=
  ⟨rfl, fun _ => rfl, fun m => by
    by_cases e : m = n
    · subst e; simp [h]
    · rw [getFn_updFn_ne _ _ _ _ e], fun _ => rfl, fun _ _ _ _ _ => rfl⟩

theorem updPort_reports (s : State) (n : Nat) (f : Port → Port) (h : ∀ r, (f r).core = r.core) : Reports s (updPort s n f) :=
  ⟨rfl, fun _ => rfl, fun _ => rfl, fun m => by
    by_cases e : m = n
    · subst e; simp [h]
    · rw [getPort_updPort_ne _ _ _ _ e], fun _ _ _ _ _ => rfl⟩

/-! ## The same after other reports -/

theorem Reports.thenSend {s t : State} (h : Reports s t) (o : Out) : Reports s (send t o) := h.trans (send_reports _ _)
theorem Reports.thenHostWrite {s t : State} (h : Reports s t) (fn a : Nat) (bs : List Byte) : Reports s (hostWrite t fn a bs) :=
  h.trans (hostWrite_reports _ _ _ _)
theorem Reports.thenRing {s t : State} (h : Reports s t) (n : Nat) (f : Ring → Ring) (hf : ∀ r, (f r).core = r.core) :
    Reports s (updRing t n f) := h.trans (updRing_reports _ _ _ hf)
theorem Reports.thenFn {s t : State} (h : Reports s t) (n : Nat) (f : FnState → FnState) (hf : ∀ r, (f r).core = r.core) :
    Reports s (updFn t n f) := h.trans (updFn_reports _ _ _ hf)
theorem Reports.thenPort {s t : State} (h : Reports s t) (n : Nat) (f : Port → Port) (hf : ∀ r, (f r).core = r.core) :
    Reports s (updPort t n f) := h.trans (updPort_reports _ _ _ hf)

/-- The number of a register tells its name, where the indices are in range. -/
theorem regKey_name (r q : RegId) (hr : r.i < 4096 ∧ r.j < 64) (hq : q.i < 4096 ∧ q.j < 64) (h : regKey q = regKey r) :
    q.name.ctorIdx = r.name.ctorIdx := by
  simp only [regKey] at h; omega

/-- Constructor numbers tell register names apart. -/
theorem RegName.ctorIdx_inj (a b : RegName) (h : a.ctorIdx = b.ctorIdx) : a = b := by
  have key : ∀ n : RegName, RegName.ofNat n.ctorIdx = n := by intro n; cases n <;> rfl
  rw [← key a, ← key b, h]

/-- Setting a register leaves those of other names. -/
theorem getReg_setReg_name (s : State) (r q : RegId) (v : Nat) (hr : r.i < 4096 ∧ r.j < 64) (hq : q.i < 4096 ∧ q.j < 64)
    (h : q.name ≠ r.name) : getReg (setReg s r v) q = getReg s q :=
  getReg_setReg_ne s r q v fun e => h (RegName.ctorIdx_inj _ _ (regKey_name r q hr hq e))

theorem setAlarmStat_reports (s : State) (i v : Nat) (hi : i < 4096) : Reports s (setReg s (rid .hubAlarmStat i) v) :=
  ⟨rfl, fun _ => rfl, fun _ => rfl, fun _ => rfl, fun q a b h1 _ =>
    getReg_setReg_name s _ q v ⟨hi, Nat.zero_lt_succ _⟩ ⟨a, b⟩ h1⟩

theorem setAlarmCnt_reports (s : State) (i v : Nat) (hi : i < 4096) : Reports s (setReg s (rid .hubAlarmCnt i) v) :=
  ⟨rfl, fun _ => rfl, fun _ => rfl, fun _ => rfl, fun q a b _ h2 =>
    getReg_setReg_name s _ q v ⟨hi, Nat.zero_lt_succ _⟩ ⟨a, b⟩ h2⟩

/-! ## Flits out of a port -/

theorem sendFlit_reports (s : State) (port type flags seq : Nat) (bs : List Byte) :
    Reports s (sendFlit s port type flags seq bs) := by
  refine Reports.thenPort ?_ _ _ fun _ => rfl
  exact send_reports s _

theorem sendPacketFlit_reports (s : State) (port : Nat) (f : TxFlit) : Reports s (sendPacketFlit s port f) := by
  refine Reports.thenPort ?_ _ _ fun _ => rfl
  exact sendFlit_reports s _ _ _ _ _

theorem pumpPort_reports (port fuel : Nat) (s : State) : Reports s (pumpPort port fuel s) := by
  induction fuel generalizing s with
  | zero => exact Reports.refl s
  | succ n ih =>
    simp only [pumpPort]
    split
    · exact Reports.refl s
    · split
      · exact Reports.refl s
      · split
        · exact Reports.refl s
        · refine .trans ?_ (ih _)
          refine .trans ?_ (sendPacketFlit_reports _ _ _)
          exact updPort_reports _ _ _ fun _ => rfl

theorem pump_reports (s : State) (port : Nat) : Reports s (pump s port) := pumpPort_reports _ _ _

theorem enqueue_reports (s : State) (port : Nat) (p : Packet) (tag : Option (Nat × Nat × Nat)) :
    Reports s (enqueue s port p tag) := by
  refine .trans ?_ (pump_reports _ _)
  exact updPort_reports _ _ _ fun _ => rfl

/-! ## Alarms -/

theorem forwardAlarm_reports (c : Nat) (s : State) (port : Nat) : Reports s (forwardAlarm c s port) := by
  unfold forwardAlarm
  split
  · exact ⟨rfl, fun _ => rfl, fun _ => rfl, fun _ => rfl, fun _ _ _ _ _ => rfl⟩
  · exact Reports.trans (t := { s with alarmWin := s.alarmWin ++ [(c, port, 0, s.time)] })
      ⟨rfl, fun _ => rfl, fun _ => rfl, fun _ => rfl, fun _ _ _ _ _ => rfl⟩ (enqueue_reports _ _ _ _)

theorem onPorts_reports (s : State) (f : State → Nat → State) (hf : ∀ s p, Reports s (f s p)) : Reports s (onPorts s f) := by
  unfold onPorts
  refine Reports.foldl _ (fun s p => ?_) _ _
  exact Reports.trans (t := { s with fabricPtr := (p + 1) % 8 })
    ⟨rfl, fun _ => rfl, fun _ => rfl, fun _ => rfl, fun _ _ _ _ _ => rfl⟩ (hf _ _)

theorem latchAlarm_reports (s : State) (c : Nat) (hc : c < 48) : Reports s (latchAlarm s c) := by
  unfold latchAlarm
  split
  · exact setAlarmCnt_reports s _ _ (by omega)
  · have h : Reports s (setFld (setBit s (rid .hubAlarmStat (c / 32)) (c % 32) true) (rid .hubAlarmCnt (c / 2))
        (16 * (c % 2)) 16 1) := by
      refine .trans ?_ (setAlarmCnt_reports _ (c / 2) _ (by omega))
      exact setAlarmStat_reports s (c / 32) _ (by omega)
    dsimp only
    split
    · exact h
    · exact h.trans (msix_reports _ _ _)

theorem raiseAlarm_reports (s : State) (c : Nat) (hc : c < 48) : Reports s (raiseAlarm s c) := by
  unfold raiseAlarm
  dsimp only
  split
  · exact (latchAlarm_reports s c hc).trans (onPorts_reports _ _ (forwardAlarm_reports c))
  · exact latchAlarm_reports s c hc

/-! ## Records and events -/

theorem postRecord_reports (s : State) (ring width : Nat) (bs : Nat → List Byte) (now : Bool) :
    Reports s (postRecord s ring width bs now) := by
  unfold postRecord
  dsimp only
  split
  · refine .trans ?_ (msix_reports _ _ _)
    refine Reports.thenRing ?_ _ _ fun _ => rfl
    exact hostWrite_reports s _ _ _
  · refine Reports.thenRing ?_ _ _ fun _ => rfl
    exact hostWrite_reports s _ _ _

theorem flushLost_reports (s : State) (ring : Nat) : Reports s (flushLost s ring) := by
  unfold flushLost
  dsimp only
  split
  · refine Reports.thenRing ?_ _ _ fun _ => rfl
    exact (raiseAlarm_reports s 13 (by decide)).trans (postRecord_reports _ _ _ _ _)
  · exact Reports.refl s

theorem placeEvent_reports (s : State) (ring : Nat) (e : EvRec) : Reports s (placeEvent s ring e) := by
  unfold placeEvent
  dsimp only
  split
  · refine Reports.thenRing ?_ _ _ fun _ => rfl
    exact flushLost_reports s ring
  · split
    · refine Reports.thenRing ?_ _ _ fun _ => rfl
      exact flushLost_reports s ring
    · refine .trans ?_ (postRecord_reports _ _ _ _ _)
      refine Reports.thenRing ?_ _ _ fun _ => rfl
      exact flushLost_reports s ring

/-- An event of a function only reports. -/
theorem emitFn_reports (s : State) (fn code type inst : Nat) (d : List Byte) : Reports s (emitFn s fn code type inst d) := by
  unfold emitFn
  dsimp only
  split
  · exact placeEvent_reports _ _ _
  · split
    · split
      · exact ⟨rfl, fun _ => rfl, fun _ => rfl, fun _ => rfl, fun _ _ _ _ _ => rfl⟩
      · exact ⟨rfl, fun _ => rfl, fun _ => rfl, fun _ => rfl, fun _ _ _ _ _ => rfl⟩
    · exact updFn_reports _ _ _ fun _ => rfl

/-- An event about a ring only reports. -/
theorem emitRing_reports (s : State) (ring code type inst : Nat) (d : List Byte) :
    Reports s (emitRing s ring code type inst d) := by
  unfold emitRing
  dsimp only
  split
  · exact placeEvent_reports _ _ _
  · exact emitFn_reports _ _ _ _ _ _

theorem emitHub_reports (s : State) (code : Nat) (d : List Byte) : Reports s (emitHub s code d) := emitFn_reports _ _ _ _ _ _

/-! ## What a report leaves, field by field -/

namespace Reports

variable {s t : State}

theorem pending (h : Reports s t) : t.pending = s.pending := by rw [h.rest]
theorem time (h : Reports s t) : t.time = s.time := by rw [h.rest]
theorem free (h : Reports s t) : t.free = s.free := by rw [h.rest]
theorem heldLow (h : Reports s t) : t.heldLow = s.heldLow := by rw [h.rest]
theorem shadow (h : Reports s t) : t.shadow = s.shadow := by rw [h.rest]
theorem heldAccess (h : Reports s t) : t.heldAccess = s.heldAccess := by rw [h.rest]
theorem start (h : Reports s t) : t.start = s.start := by rw [h.rest]
theorem nv (h : Reports s t) : t.nv = s.nv := by rw [h.rest]
theorem transom (h : Reports s t) : t.transom = s.transom := by rw [h.rest]
theorem msixOpen (h : Reports s t) : t.msixOpen = s.msixOpen := by rw [h.rest]
theorem numVfs (h : Reports s t) : t.numVfs = s.numVfs := by rw [h.rest]
theorem counters (h : Reports s t) : t.counters = s.counters := by rw [h.rest]
theorem groupPtr (h : Reports s t) : t.groupPtr = s.groupPtr := by rw [h.rest]
theorem credits (h : Reports s t) : t.credits = s.credits := by rw [h.rest]
theorem ringPtrs (h : Reports s t) : t.ringPtrs = s.ringPtrs := by rw [h.rest]
theorem vecPlacePtr (h : Reports s t) : t.vecPlacePtr = s.vecPlacePtr := by rw [h.rest]
theorem work (h : Reports s t) : t.work = s.work := by rw [h.rest]
theorem nextOrder (h : Reports s t) : t.nextOrder = s.nextOrder := by rw [h.rest]
theorem mem (h : Reports s t) : t.mem = s.mem := by rw [h.rest]
theorem detect (h : Reports s t) : t.detect = s.detect := by rw [h.rest]
theorem bad (h : Reports s t) : t.bad = s.bad := by rw [h.rest]
theorem writers (h : Reports s t) : t.writers = s.writers := by rw [h.rest]
theorem upsets (h : Reports s t) : t.upsets = s.upsets := by rw [h.rest]
theorem lines (h : Reports s t) : t.lines = s.lines := by rw [h.rest]
theorem useClock (h : Reports s t) : t.useClock = s.useClock := by rw [h.rest]
theorem tlbs (h : Reports s t) : t.tlbs = s.tlbs := by rw [h.rest]
theorem atsOn (h : Reports s t) : t.atsOn = s.atsOn := by rw [h.rest]
theorem bar4Log (h : Reports s t) : t.bar4Log = s.bar4Log := by rw [h.rest]
theorem ats (h : Reports s t) : t.ats = s.ats := by rw [h.rest]
theorem hostErr (h : Reports s t) : t.hostErr = s.hostErr := by rw [h.rest]
theorem inval (h : Reports s t) : t.inval = s.inval := by rw [h.rest]
theorem mapBusy (h : Reports s t) : t.mapBusy = s.mapBusy := by rw [h.rest]
theorem oasis (h : Reports s t) : t.oasis = s.oasis := by rw [h.rest]
theorem oasisPtr (h : Reports s t) : t.oasisPtr = s.oasisPtr := by rw [h.rest]
theorem tags (h : Reports s t) : t.tags = s.tags := by rw [h.rest]
theorem hbm (h : Reports s t) : t.hbm = s.hbm := by rw [h.rest]
theorem cells (h : Reports s t) : t.cells = s.cells := by rw [h.rest]
theorem blocks (h : Reports s t) : t.blocks = s.blocks := by rw [h.rest]
theorem regions (h : Reports s t) : t.regions = s.regions := by rw [h.rest]
theorem routes (h : Reports s t) : t.routes = s.routes := by rw [h.rest]
theorem fabRecs (h : Reports s t) : t.fabRecs = s.fabRecs := by rw [h.rest]
theorem arrived (h : Reports s t) : t.arrived = s.arrived := by rw [h.rest]
theorem inbox (h : Reports s t) : t.inbox = s.inbox := by rw [h.rest]
theorem remotes (h : Reports s t) : t.remotes = s.remotes := by rw [h.rest]
theorem answered (h : Reports s t) : t.answered = s.answered := by rw [h.rest]
theorem buckets (h : Reports s t) : t.buckets = s.buckets := by rw [h.rest]
theorem colGroups (h : Reports s t) : t.colGroups = s.colGroups := by rw [h.rest]
theorem recs (h : Reports s t) : t.recs = s.recs := by rw [h.rest]
theorem recGen (h : Reports s t) : t.recGen = s.recGen := by rw [h.rest]
theorem failStop (h : Reports s t) : t.failStop = s.failStop := by rw [h.rest]
theorem leaseAt (h : Reports s t) : t.leaseAt = s.leaseAt := by rw [h.rest]
theorem noticeAt (h : Reports s t) : t.noticeAt = s.noticeAt := by rw [h.rest]
theorem power (h : Reports s t) : t.power = s.power := by rw [h.rest]
theorem tadcs (h : Reports s t) : t.tadcs = s.tadcs := by rw [h.rest]
theorem sec (h : Reports s t) : t.sec = s.sec := by rw [h.rest]
theorem tap (h : Reports s t) : t.tap = s.tap := by rw [h.rest]

theorem ring_state (h : Reports s t) (n : Nat) : (getRing t n).state = (getRing s n).state := by
  have e := congrArg Ring.state (h.rings n)
  exact e
theorem ring_ctx (h : Reports s t) (n : Nat) : (getRing t n).ctx = (getRing s n).ctx := by
  have e := congrArg Ring.ctx (h.rings n)
  exact e
theorem ring_fn (h : Reports s t) (n : Nat) : (getRing t n).fn = (getRing s n).fn := by
  have e := congrArg Ring.fn (h.rings n)
  exact e
theorem getBit_kept (h : Reports s t) (q : RegId) (b : Nat) (hi : q.i < 4096) (hj : q.j < 64) (h1 : q.name ≠ .hubAlarmStat)
    (h2 : q.name ≠ .hubAlarmCnt) : getBit t q b = getBit s q b := by simp only [getBit, h.regs q hi hj h1 h2]
theorem getFld_kept (h : Reports s t) (q : RegId) (lo w : Nat) (hi : q.i < 4096) (hj : q.j < 64) (h1 : q.name ≠ .hubAlarmStat)
    (h2 : q.name ≠ .hubAlarmCnt) : getFld t q lo w = getFld s q lo w := by simp only [getFld, h.regs q hi hj h1 h2]

end Reports

end Sys2Proof.Machine
end

