-- ==== Sys2Proof/Laws/Engine.lean ====
section
/-! SUPPORT. Laws of the guards that meanings run under, of the engines' monad, and of the pieces of work that engines do. -/

namespace Sys2Proof.Machine

/-! ## Guards -/

theorem finish_self (s : State) : finish s s = .next s := rfl

theorem whenLive_on {s : State} (f : State → State) (h : live s = true) :
    whenLive s f = .next { f s with pending := s.pending } := by simp [whenLive, finish, h]

theorem whenLive_off {s : State} (f : State → State) (h : live s = false) : whenLive s f = .next s := by
  simp [whenLive, finish, h]

theorem live_of_hostLive {s : State} (h : hostLive s = true) : live s = true := by
  simp only [hostLive, Bool.and_eq_true] at h; exact h.1.1

theorem whenHost_on {s : State} (f : State → State) (h : hostLive s = true) :
    whenHost s f = .next { f s with pending := s.pending } := by simp [whenHost, finish, h]

theorem whenHost_off {s : State} (f : State → State) (h : hostLive s = false) : whenHost s f = .next s := by
  simp [whenHost, finish, h]

theorem whenWindow_on {s : State} (fn : Nat) (w : Nat × Nat) (f : State → State) (h : hostLive s = true) :
    whenWindow s fn w f = .next { f s with pending := s.pending } := by simp [whenWindow, finish, h]

/-- A guarded command whose effect leaves the queue needs no mention of it. -/
theorem whenLive_keep {s : State} (f : State → State) (h : live s = true) (k : (f s).pending = s.pending) :
    whenLive s f = .next (f s) := by rw [whenLive_on f h, ← k]

theorem whenHost_keep {s : State} (f : State → State) (h : hostLive s = true) (k : (f s).pending = s.pending) :
    whenHost s f = .next (f s) := by rw [whenHost_on f h, ← k]

theorem whenWindow_keep {s : State} (fn : Nat) (w : Nat × Nat) (f : State → State) (h : hostLive s = true)
    (k : (f s).pending = s.pending) : whenWindow s fn w f = .next (f s) := by rw [whenWindow_on fn w f h, ← k]

/-! ## The engines' monad -/

namespace Eng

theorem on_pure {α : Type} (a : α) (s : State) : Eng.on (pure a) s = (.ok a, s) := rfl

theorem on_bind {α β : Type} (m : Eng α) (f : α → Eng β) (s : State) :
    Eng.on (m >>= f) s = match Eng.on m s with
      | (.ok a, t) => Eng.on (f a) t
      | (.error e, t) => (.error e, t) := by
  simp only [Eng.on, ExceptT.run_bind]
  change (StateT.bind (ExceptT.run m : StateM State _) _) s = _
  simp only [StateT.bind]
  rcases (ExceptT.run m : StateM State (Except Err α)) s with ⟨_ | a, t⟩ <;> rfl

theorem on_act (f : State → State) (s : State) : Eng.on (act f) s = (.ok (), f s) := rfl
theorem on_get (s : State) : Eng.on (get : Eng State) s = (.ok s, s) := rfl
theorem on_throw {α : Type} (e : Err) (s : State) : Eng.on (throw e : Eng α) s = (.error e, s) := rfl
theorem on_failWith {α : Type} (st dc : Nat) (s : State) : Eng.on (failWith st dc : Eng α) s = (.error (.fail st dc), s) := rfl
theorem on_ensure (b : Bool) (st dc : Nat) (s : State) :
    Eng.on (ensure b st dc) s = if b then (.ok (), s) else (.error (.fail st dc), s) := by
  cases b <;> rfl

/-- A first part that goes well runs on into the second. -/
theorem on_bind_ok {α β : Type} {m : Eng α} {a : α} {s t : State} (f : α → Eng β) (h : Eng.on m s = (.ok a, t)) :
    Eng.on (m >>= f) s = Eng.on (f a) t := by rw [on_bind, h]

end Eng

/-! ## Pieces of work -/

theorem runPiece_ok {s t : State} {w : Work} {m : Eng Unit} (h : Eng.on m s = (.ok (), t)) : runPiece s w m = t := by
  simp [runPiece, h]

theorem runPiece_fail {s t : State} {w : Work} {m : Eng Unit} {st dc : Nat} (h : Eng.on m s = (.error (.fail st dc), t)) :
    runPiece s w m = endWork t (((findWork t w.ring w.index).getD w).fail st dc) := by simp [runPiece, h]

/-- The command of an opcode runs its descriptor when that has reached its engine. -/
theorem runOp_on {s : State} {op : Op} {ring index : Nat} {w : Work} (m : Work → Eng Unit)
    (hw : findWork s ring index = some w) (ho : w.op = some op) (hp : w.phase = .running) (he : engineRuns s w = true) :
    runOp s op ring index m = runPiece s w (m w) := by
  simp [runOp, hw, ho, hp, he]

/-! ## The vector engine -/

theorem updBlock_congr {s : State} {b : Nat} {f g : Block → Block} (h : f (getBlock s b) = g (getBlock s b)) :
    updBlock s b f = updBlock s b g := by
  simp only [updBlock, Tab.upd]; rw [show Tab.get {} s.blocks b = getBlock s b from rfl, h]

/-- An engine that has taken its start credit runs on. -/
theorem engineStart_paid {s : State} {w v : Work} {n : Nat} (hw : findWork s w.ring w.index = some v)
    (h : slewStep w = 0 ∨ n ≤ v.starts) : Eng.on (engineStart w n) s = (.ok true, s) := by
  unfold engineStart
  rw [Eng.on_bind_ok _ (Eng.on_get s)]
  simp only [hw, Option.getD_some, if_pos h]
  exact Eng.on_pure _ _

/-- One operation of the micro-program, once the engine may run: the registers it leaves go into the engine. -/
theorem vecStep_on {s s1 t : State} {b op : Nat} {w : Work} {r q : VecRun} (f : Work → VecRun → Nat → Eng VecRun)
    (hv : (getBlock s b).vec = some r) (hw : findWork s r.ring r.index = some w) (ho : vOp r.current = op)
    (he : engineRuns s w = true) (hs : Eng.on (engineStart w 1) s = (.ok true, s1)) (hx : r.executed < 2 ^ 24)
    (hl : Upset.lane b ∉ s.upsets)
    (hf : Eng.on (f w { r with pc := r.pc + 1, executed := r.executed + 1 } r.current) s1 = (.ok q, t)) :
    vecStep s b op f = updBlock t b fun k => { k with vec := k.vec.map fun _ => q } := by
  have hx' : ¬ 2 ^ 24 ≤ r.executed := by omega
  simp only [vecStep, hv, hw, ho, he, ne_eq, not_true_eq_false, Bool.not_true, Bool.false_eq_true, or_self, if_false]
  apply runPiece_ok
  rw [Eng.on_bind_ok _ hs]
  simp only [hx', hl, Bool.not_true, Bool.false_eq_true, if_false]
  rw [Eng.on_bind_ok _ hf, Eng.on_act]

end Sys2Proof.Machine
end

