-- ==== Sys2Proof/Laws/Memory.lean ====
section
/-! SUPPORT. What the operations over device memory and the host's memory do: which bytes they change, and that each keeps
the canonical form. -/

namespace Sys2Proof.Machine

/-! ## The place of a byte -/

/-- The bytes of a granule stand side by side. -/
theorem memKey_add (s : State) (pa i : Nat) (h : i < 256 - pa % 256) : memKey s (pa + i) = memKey s pa + i := by
  have e34 : (pa + i) / 2 ^ 34 = pa / 2 ^ 34 := by omega
  have e30 : (pa + i) / 2 ^ 30 = pa / 2 ^ 30 := by omega
  have e12 : (pa + i) / 2 ^ 12 = pa / 2 ^ 12 := by omega
  have e8 : (pa + i) / 2 ^ 8 = pa / 2 ^ 8 := by omega
  have f (w : Nat) : field (pa + i) 30 w = field pa 30 w := by rw [field_eq, field_eq, e30]
  have g (w : Nat) : field (pa + i) 34 w = field pa 34 w := by rw [field_eq, field_eq, e34]
  simp only [memKey, mapPa, e34, e12, e8, f, g]
  split <;> omega

/-- Placement depends on nothing that a write of memory changes. -/
theorem memKey_mem (s : State) (m : Tab Byte) (pa : Nat) : memKey { s with mem := m } pa = memKey s pa := rfl

/-! ## Writes of device memory -/

/-- A write of device memory changes device memory and nothing else. -/
theorem pokeFuel_only (fuel : Nat) (s : State) (pa : Nat) (bs : List Byte) :
    pokeFuel fuel s pa bs = { s with mem := (pokeFuel fuel s pa bs).mem } := by
  induction fuel generalizing s pa bs with
  | zero => rfl
  | succ n ih =>
    cases bs with
    | nil => rfl
    | cons b bs => simp only [pokeFuel]; rw [ih]

theorem poke_only (s : State) (pa : Nat) (bs : List Byte) : poke s pa bs = { s with mem := (poke s pa bs).mem } :=
  pokeFuel_only _ _ _ _

/-- A byte that is not among those written keeps its value. -/
theorem pokeFuel_outside (fuel : Nat) (s : State) (pa : Nat) (bs : List Byte) (k : Nat)
    (h : ∀ i, i < bs.length → memKey s (pa + i) ≠ k) :
    Tab.get 0#8 (pokeFuel fuel s pa bs).mem k = Tab.get 0#8 s.mem k := by
  induction fuel generalizing s pa bs with
  | zero => rfl
  | succ n ih =>
    cases bs with
    | nil => rfl
    | cons b bs =>
      simp only [pokeFuel]
      generalize hg : b :: bs = l at *
      rw [ih]
      · refine Tab.get_setN_outside _ _ _ _ _ ?_
        apply Classical.byContradiction
        intro hk
        simp only [List.length_take] at hk
        have h1 : memKey s pa ≤ k ∧ k < memKey s pa + min (256 - pa % 256) l.length := by omega
        have h2 := memKey_add s pa (k - memKey s pa) (by omega)
        exact h (k - memKey s pa) (by omega) (by omega)
      · intro i hi
        rw [memKey_mem]
        simp only [List.length_drop] at hi
        rw [Nat.add_assoc]
        exact h _ (by omega)

theorem poke_outside (s : State) (pa : Nat) (bs : List Byte) (k : Nat) (h : ∀ i, i < bs.length → memKey s (pa + i) ≠ k) :
    Tab.get 0#8 (poke s pa bs).mem k = Tab.get 0#8 s.mem k := pokeFuel_outside _ _ _ _ _ h

/-- A byte of a granule, read after a write of part of that granule, is the byte written. -/
theorem poke_inside (s : State) (pa : Nat) (bs : List Byte) (i : Nat) (hn : bs.length ≤ 256 - pa % 256) (hi : i < bs.length) :
    Tab.get 0#8 (poke s pa bs).mem (memKey s (pa + i)) = bs.getD i 0#8 := by
  obtain ⟨b, l, rfl⟩ : ∃ b l, bs = b :: l := by cases bs with | nil => simp at hi | cons b l => exact ⟨b, l, rfl⟩
  have e : poke s pa (b :: l) = { s with mem := Tab.setN 0#8 s.mem (memKey s pa) (b :: l) } := by
    simp only [poke, pokeFuel]
    rw [List.take_of_length_le hn, List.drop_of_length_le hn]
  rw [e, Tab.get_setN, memKey_add s pa i (by omega)]
  simp only [List.length_cons] at hi
  simp; omega

/-! ## The canonical form -/

theorem pokeFuel_wf (fuel : Nat) (s : State) (pa : Nat) (bs : List Byte) (h : Tab.wf 0#8 s.mem = true) :
    Tab.wf 0#8 (pokeFuel fuel s pa bs).mem = true := by
  induction fuel generalizing s pa bs with
  | zero => exact h
  | succ n ih =>
    cases bs with
    | nil => exact h
    | cons b bs => exact ih _ _ _ (Tab.wf_setN _ _ _ _ h)

theorem poke_wf (s : State) (pa : Nat) (bs : List Byte) (h : Tab.wf 0#8 s.mem = true) :
    Tab.wf 0#8 (poke s pa bs).mem = true := pokeFuel_wf _ _ _ _ h

theorem discardGranule_wf (s : State) (stack la : Nat) (h : Tab.wf 0#8 s.mem = true) :
    Tab.wf 0#8 (discardGranule s stack la).mem = true := by
  simp only [discardGranule]; exact Tab.wf_setN _ _ _ _ h

theorem zeroStack_wf (s : State) (stack : Nat) (h : Tab.wf 0#8 s.mem = true) : Tab.wf 0#8 (zeroStack s stack).mem = true :=
  Tab.wf_filter _ _ _ h

theorem restoreUnit_wf (s : State) (c : Captured) (h : Tab.wf 0#8 s.mem = true) : Tab.wf 0#8 (restoreUnit s c).mem = true :=
  Tab.wf_foldSet _ _ _ (Tab.wf_filter _ _ _ h)

theorem hostWrite_wf (s : State) (fn addr : Nat) (bs : List Byte) (h : Tab.wf 0#8 s.hostMem = true) :
    Tab.wf 0#8 (hostWrite s fn addr bs).hostMem = true := Tab.wf_setN _ _ _ _ h

/-! ## Which operations touch a memory -/

theorem poke_safe (s : State) (pa : Nat) (bs : List Byte) (h : Safe s) : Safe (poke s pa bs) := by
  refine ⟨poke_wf _ _ _ h.1, ?_⟩
  rw [poke_only]; exact h.2

theorem discardGranule_safe (s : State) (stack la : Nat) (h : Safe s) : Safe (discardGranule s stack la) :=
  ⟨discardGranule_wf _ _ _ h.1, h.2⟩

theorem zeroStack_safe (s : State) (stack : Nat) (h : Safe s) : Safe (zeroStack s stack) := ⟨zeroStack_wf _ _ h.1, h.2⟩

theorem restoreUnit_safe (s : State) (c : Captured) (h : Safe s) : Safe (restoreUnit s c) := ⟨restoreUnit_wf _ _ h.1, h.2⟩

theorem hostWrite_safe (s : State) (fn addr : Nat) (bs : List Byte) (h : Safe s) : Safe (hostWrite s fn addr bs) :=
  ⟨h.1, hostWrite_wf _ _ _ _ h.2⟩

/-- A state with the same two memories. -/
theorem safe_of_same {s t : State} (hm : t.mem = s.mem) (hh : t.hostMem = s.hostMem) (h : Safe s) : Safe t := by
  unfold Safe; rw [hm, hh]; exact h

theorem safe_reset : Safe State.reset := ⟨rfl, rfl⟩

end Sys2Proof.Machine
end

