-- ==== Sys2Proof/Laws/Work.lean ====
section
/-! SUPPORT. What the operations over the list of dispatched descriptors, the transaction records, the completion records and
the Transom do. -/

namespace Sys2Proof.Machine

/-! ## The list of dispatched descriptors -/

theorem isAt_iff (w : Work) (ring index : Nat) : w.isAt ring index = true ↔ w.ring = ring ∧ w.index = index := by
  simp [Work.isAt]

/-- A descriptor found is the one asked for, and it is on the list. -/
theorem findWork_some {s : State} {ring index : Nat} {w : Work} (h : findWork s ring index = some w) :
    w ∈ s.work ∧ w.ring = ring ∧ w.index = index :=
  ⟨List.mem_of_find?_eq_some h, (isAt_iff w ring index).1 (List.find?_some h)⟩

/-- A descriptor replaced by a value of the same ring and index is found as that value. -/
theorem findWork_putWork {s : State} {w v : Work} (h : findWork s w.ring w.index = some v) :
    findWork (putWork s w) w.ring w.index = some w := by
  simp only [findWork, putWork, updWork] at h ⊢
  generalize s.work = ws at h ⊢
  induction ws with
  | nil => simp at h
  | cons a l ih =>
    rw [List.find?_cons] at h
    rw [List.map_cons, List.find?_cons]
    cases ha : a.isAt w.ring w.index with
    | true => simp [Work.isAt]
    | false =>
      simp only [ha] at h
      simp only [Bool.false_eq_true, if_false, ha]
      exact ih h

/-- A descriptor replaced leaves every other as it is. -/
theorem findWork_putWork_ne (s : State) (w : Work) (ring index : Nat) (h : ¬ (ring = w.ring ∧ index = w.index)) :
    findWork (putWork s w) ring index = findWork s ring index := by
  simp only [findWork, putWork, updWork]
  induction s.work with
  | nil => rfl
  | cons a l ih =>
    rw [List.map_cons, List.find?_cons, List.find?_cons, ih]
    cases ha : a.isAt w.ring w.index with
    | false => rfl
    | true =>
      have hw : w.isAt ring index = false := by
        cases hb : w.isAt ring index with
        | false => rfl
        | true => exact absurd ⟨((isAt_iff _ _ _).1 hb).1.symm, ((isAt_iff _ _ _).1 hb).2.symm⟩ h
      have hc : a.isAt ring index = false := by
        cases hb : a.isAt ring index with
        | false => rfl
        | true =>
          have h1 := (isAt_iff _ _ _).1 ha
          have h2 := (isAt_iff _ _ _).1 hb
          exact absurd ⟨h2.1.symm.trans h1.1, h2.2.symm.trans h1.2⟩ h
      simp [hw, hc]

/-- A descriptor changed changes nothing but the list. -/
theorem updWork_only (s : State) (ring index : Nat) (f : Work → Work) :
    updWork s ring index f = { s with work := (updWork s ring index f).work } := rfl

/-- What is left after a descriptor is taken off the list. -/
theorem mem_dropWork (s : State) (ring index : Nat) (w : Work) :
    w ∈ (dropWork s ring index).work ↔ w ∈ s.work ∧ w.isAt ring index = false := by
  simp [dropWork, List.mem_filter]

@[simp] theorem findWork_dropWork (s : State) (ring index : Nat) : findWork (dropWork s ring index) ring index = none := by
  simp only [findWork, dropWork, List.find?_eq_none, List.mem_filter]
  intro w h; simpa using h.2

/-! ## Transaction records -/

/-- A record taken: its number goes on the list, its generation is raised, and nothing else changes. -/
theorem takeRec_some {s t : State} {region n : Nat} (h : takeRec s region = (some n, t)) :
    recsIn s region < 65536 ∧
      t = { s with recs := n :: s.recs, recGen := Tab.upd 0 s.recGen n fun g => (g + 1) % 4096 } := by
  unfold takeRec at h
  split at h
  · simp at h
  · next hr =>
    simp only [Prod.mk.injEq, Option.some.injEq] at h
    obtain ⟨rfl, rfl⟩ := h
    exact ⟨by omega, rfl⟩

/-- A region whose share is full gives none, and the wait is counted and timed. -/
theorem takeRec_none {s t : State} {region : Nat} (h : takeRec s region = (none, t)) :
    65536 ≤ recsIn s region ∧ t = recordWait s region := by
  unfold takeRec at h
  split at h
  · next hr => simp only [Prod.mk.injEq, true_and] at h; exact ⟨hr, h.symm⟩
  · simp at h

/-- A record freed is on the list no more; the others stay. -/
@[simp] theorem mem_freeRec (s : State) (n k : Nat) : k ∈ (freeRec s n).recs ↔ k ∈ s.recs ∧ k ≠ n := by
  unfold freeRec
  split <;> simp [List.mem_filter]

/-! ## Holds -/

/-- A held descriptor joins the stack's list once, and nothing else changes. -/
theorem holdAt_only (s : State) (stack ring index : Nat) :
    holdAt s stack ring index = { s with hbm := (holdAt s stack ring index).hbm } := rfl

theorem mem_holdAt (s : State) (stack ring index : Nat) : (ring, index) ∈ (getStack (holdAt s stack ring index) stack).held := by
  simp only [holdAt, getStack_updStack_same]
  split <;> simp_all

/-! ## Completion records -/

/-- A completion record is written to its ring or owed to it; nothing but reports and that ring's list of owed records
changes. -/
theorem postCpl_cases (s : State) (ring : Nat) (r : CplRec) :
    Reports s (postCpl s ring r) ∨ postCpl s ring r = updRing s ring fun c => { c with owed := c.owed ++ [r] } := by
  unfold postCpl
  dsimp only
  split
  · exact .inl (postRecord_reports _ _ _ _ _)
  · exact .inr rfl

theorem stallEvent_reports (s : State) (ring : Nat) (k : Stall) (ended : Bool) : Reports s (stallEvent s ring k ended) :=
  emitRing_reports _ _ _ _ _ _

/-- A stall noted changes that ring's stall and nothing else, but for the event of a reported stall that ends. -/
theorem noteStall_cases (s : State) (ring : Nat) :
    ∃ st, Reports (updRing s ring fun r => { r with stall := st }) (noteStall s ring) ∨ noteStall s ring = s := by
  unfold noteStall
  split
  · exact ⟨_, .inl (Reports.refl _)⟩
  · refine ⟨none, .inl ?_⟩
    dsimp only
    split
    · exact stallEvent_reports _ _ _ _
    · exact Reports.refl _
  · exact ⟨none, .inr rfl⟩

/-! ## Register writes that are refused -/

/-- A refused write draws one free value and reports; no register changes but those of alarms. -/
theorem refusedWrite_reports (s : State) (fn cause which value : Nat) :
    Reports { s with free := s.free + 1 } (refusedWrite s fn cause which value) := emitFn_reports _ _ _ _ _ _

/-! ## The Transom -/

/-- A span of the update sequence: the change, the sequence two further, and one event. -/
theorem transomSpan_reports (s : State) (f : State → State) :
    Reports { f s with transom := { (f s).transom with seq := ((f s).transom.seq + 2) % 2 ^ 32 } } (transomSpan s f) :=
  emitHub_reports _ _ _

/-- The sequence is even after a span where it was even before. -/
theorem transomSpan_seq (s : State) (f : State → State) :
    (transomSpan s f).transom.seq = ((f s).transom.seq + 2) % 2 ^ 32 := 
  congrArg Transom.seq (transomSpan_reports s f).transom

/-- Reports keep the canonical form of device memory. -/
theorem Reports.wf_mem {s t : State} (h : Reports s t) (k : Tab.wf 0#8 s.mem = true) : Tab.wf 0#8 t.mem = true := by
  rw [h.mem]; exact k

end Sys2Proof.Machine
end

