-- ==== Sys2Proof/Tests/Slice0.lean ====
section
/-! SUPPORT. Tests of the model's own: small commands on small states, with results written out from the spec, an ill-formed
term for each check of well-formedness, and for each statement for the provers states and operands that meet its hypotheses.
A witness is named after its statement. -/

namespace Sys2Proof.Tests

set_option Elab.async false

open Machine

/-! ## Helper states -/

/-- A device whose start is done. -/
def working : State :=
  { State.reset with
    start := { State.reset.start with perst := false, configReady := true, phase := .done }
    transom := { appended := 3, stageReached := 4, seq := 16 } }

/-- A working device in a phase of its start. -/
def inPhase (p : StartPhase) : State := { working with start := { working.start with phase := p } }

/-- A working device with a register at a value. -/
def withReg (r : RegId) (v : Nat) : State := setReg working r v

/-- A working device with one entry PRESENT. -/
def withEntry (s : State) (type inst : Nat) : State := updEntry s type inst fun x => { x with present := true }

/-- Whether a command answers a next state of which `p` holds. -/
def ok (c : Instr) (s : State) (p : State → Bool) : Bool :=
  match exec c s with
  | .next t => p t
  | _ => false

/-- A 32-bit word. -/
def w32 (n : Nat) : W32 := BitVec.ofNat 32 n

/-! ## The machine as a whole -/

theorem witness_StepRunsFrontCommand :
    ({ working with pending := [.perstAssert, .thermtrip] } : State).pending = .perstAssert :: [.thermtrip] := rfl

theorem witness_QueueIsFirstInFirstOut :
    working.pending = [] ∧ live working = true ∧ State.reset.pending = [] ∧ live State.reset = false := by decide +kernel

theorem witness_StoppedDeviceDoesNothing :
    live State.reset = false ∧ railMode State.reset = false ∧ actsOnStoppedDevice .descriptorDispatch = false := by
  decide +kernel

/-- A device stopped for a lost rail. -/
def railStopped : State := { working with power := { working.power with railStop := true } }

theorem witness_RailStopTouchesRegistersOnly :
    live railStopped = false ∧ railMode railStopped = true ∧ actsOnStoppedDevice (.clockEnableSet 7) = false ∧
      ok (.clockEnableSet 7) railStopped (fun _ => true) = true := by decide +kernel

theorem witness_MemoryFormIsInvariant : MemoryForm State.reset ∧ step State.reset = .next State.reset := ⟨safe_reset, rfl⟩

/-- One cycle a step while the device works (log entry 2). -/
theorem test_tick : (match step working with | .next t => t.time == 1 | _ => false) = true := by decide +kernel

/-! ## Resets and the start -/

/-- Every stack trained and every port settled. -/
def settled (s : State) : State :=
  let s := (List.range 16).foldl (fun s k => updStack s k fun x => { x with trained := true }) s
  (List.range 8).foldl (fun s p => updPort s p fun x => { x with everSettled := true }) s

def lostAll (s : State) : State := (List.range 16).foldl (fun s k => updStack s k fun x => { x with thermal := .lost }) s

def retiredDevice (p : StartPhase) : State := { inPhase p with nv := { working.nv with dbgRetired := true } }

theorem witness_ResetsAndTheStart :
    State.reset.start.perst = true ∧ State.reset.power.thermtrip = false ∧ bootSlot State.reset.nv = none ∧
    working.start.perst = false ∧
    ({ State.reset with power := { State.reset.power with thermtrip := true } } : State).power.thermtrip = true := by
  decide +kernel

/-- A device with a valid image boots it: whether an image is valid rests on the free cryptographic functions (log entry 4). -/
theorem witness_PerstReleaseBoots (nv : NonVolatile) (h : slotFault nv (firstSlot nv) = 0) :
    bootSlot nv = some (firstSlot nv, false) := by simp [bootSlot, h]

theorem witness_StartStages :
    live (inPhase .stage0) = true ∧ (inPhase .stage0).start.phase = .stage0 ∧
    ((inPhase .stage0).start.hold0 || testHold (inPhase .stage0) || (inPhase .stage0).nv.dbgRetired) = false ∧
    ((retiredDevice .stage0).start.hold0 || testHold (retiredDevice .stage0) || (retiredDevice .stage0).nv.dbgRetired) = true ∧
    hostLive (inPhase .heldAt0) = true ∧ reaches (inPhase .heldAt0) 0 (rid .hubStartCtl) = true ∧
    (recordDue (inPhase .stage1) && (inPhase .stage1).sec.staging.isSome) = false ∧ (inPhase .heldAt0).nv.dbgRetired = false ∧
    (retiredDevice .heldAt0).nv.dbgRetired = true ∧ hostLive (retiredDevice .heldAt0) = true ∧
    issueHold (inPhase .stage1) = false ∧ stackSettled (inPhase .stage2) 15 = false ∧
    (getStack (inPhase .stage2) 15).failures = 0 ∧
    (getStack (updStack (inPhase .stage2) 0 fun k => { k with failures := 1 }) 0).failures ≠ 0 ∧
    (∀ k, k < 16 → stackSettled (settled (inPhase .stage2)) k = true) ∧
    (∀ p, p < 8 → (getPort (settled (inPhase .stage2)) p).everSettled = true) := by decide +kernel

theorem witness_LaterStages :
    (∀ k, k < 16 → (getStack (inPhase .stage3) k).thermal ≠ .critical) ∧
    allLost ((List.range 16).foldl (endStackTest []) (lostAll (inPhase .stage3))) = true ∧
    allLost ((List.range 16).foldl (endStackTest []) (inPhase .stage3)) = false ∧
    runtimeGood (inPhase .stage3) = false ∧
    ((inPhase .broadcast).power.scalRunning && (inPhase .broadcast).power.scalFirst) = false ∧
    (∀ c, c < 1024 → (getCell (inPhase .stage4) c).cal = none) ∧
    calOver { updCell (inPhase .stage4) 1023 fun c => { c with cal := some 0 } with time := 2 ^ 40 } 1023 = true ∧
    live (inPhase .stage4) = true ∧ issueHold (inPhase .stage4) = false := by decide +kernel

set_option maxRecDepth 1000000 in
theorem test_perstRelease_no_image :
    ok (.perstRelease ⟨7, 3, false⟩ [1, 2, 3]) (State.atReset { State.reset.nv with dbgRetired := true }) (fun t =>
      t.time == 0 && t.transom.appended == 1 && t.start.phase == .halted && t.start.cause == 1 && t.start.recovery
        && t.sec.nonce == [1, 2, 3, 0, 0, 0, 0, 0]) = true := by decide +kernel

set_option maxRecDepth 1000000 in
theorem test_stage0Complete :
    ok .stage0Complete (inPhase .stage0) (fun t =>
      t.start.configReady && t.transom.stageReached == 0 && t.start.phase == .stage1 && t.transom.appended == 2
        && getReg t (rid .fltMaintSlot 7) == 17) = true := by decide +kernel

set_option maxRecDepth 1000000 in
theorem test_stage0Complete_held :
    ok .stage0Complete (retiredDevice .stage0) (fun t =>
      t.start.phase == .heldAt0 && getBit t (rid .hubStartStat) 3) = true := by decide +kernel

set_option maxRecDepth 1000000 in
theorem test_startGo :
    ok (.startGo 0) (inPhase .heldAt0) (fun t =>
      t.start.phase == .stage1 && t.transom.appended == 2 && getReg t (rid .fltMaintSlot 7) == 17
        && getBit t (rid .hubStartCtl) 0) = true := by decide +kernel

theorem test_startGo_retired : ok (.startGo 0) (retiredDevice .heldAt0) (fun t => t.start.phase == .heldAt0) = true := by
  decide +kernel

theorem test_stage1Complete_fuses :
    ok (.stage1Complete false true) (inPhase .stage1) (fun t => t.start.phase == .halted && t.start.cause == 2) = true := by
  decide +kernel

theorem test_stackTrainingDone_twice :
    ok (.stackTrainingDone 15 false) (updStack (inPhase .stage2) 15 fun k => { k with failures := 1 }) (fun t =>
      (getStack t 15).failures == 2 && (getStack t 15).thermal == .lost && (getEntry t 13 15).retired) = true := by
  decide +kernel

set_option maxRecDepth 1000000 in
theorem test_stage2Complete :
    ok .stage2Complete (settled (setBit (inPhase .stage2) (rid .hubStartCtl) 2 true)) (fun t =>
      t.start.phase == .stage3 && t.transom.stageReached == 2 && t.start.mtestUsed) = true := by decide +kernel

set_option maxRecDepth 1000000 in
theorem test_stage3Complete_lost :
    ok (.stage3Complete [] true) (lostAll (inPhase .stage3)) (fun t => t.start.phase == .halted && t.start.cause == 6) = true := by
  decide +kernel

set_option maxRecDepth 1000000 in
theorem test_stage3Complete_image :
    ok (.stage3Complete [] false) (inPhase .stage3) (fun t => t.start.phase == .halted && t.start.cause == 3) = true := by
  decide +kernel

set_option maxRecDepth 1000000 in
theorem test_firmwareBroadcastDone_hub :
    ok (.firmwareBroadcastDone [] [1611]) (inPhase .broadcast) (fun t => t.start.phase == .halted && t.start.cause == 4) = true := by
  decide +kernel

set_option maxRecDepth 1000000 in
theorem test_stage4Complete :
    ok (.stage4Complete []) (setReg (inPhase .stage4) (rid .fltMaintSlot 7) 17) (fun t =>
      t.start.phase == .done && t.transom.stageReached == 4 && getBit t (rid .hubStartStat) 5
        && getReg t (rid .fltMaintSlot 7) == 0) = true := by decide +kernel

/-! ## Resets of functions -/

theorem witness_FunctionResetsAndVfs :
    hostLive working = true ∧ working.numVfs = 0 ∧ (1 ≤ 16 ∧ 16 ≤ ({ working with numVfs := 16 } : State).numVfs) := by
  decide +kernel

theorem test_vfEnableSet :
    ok (.vfEnableSet 16) { setReg working (rid .hubVfRing 16) (1 + 256) with counters := [(256, ⟨7, true⟩), (600, ⟨7, true⟩)] } (fun t =>
      t.numVfs == 16 && getFld t (rid .numStepCfg 16) 0 16 == 256 && getCtr t 256 == {} && getCtr t 600 == ⟨7, true⟩)
      = true := by decide +kernel

/-! ## Host accesses -/

theorem witness_RegisterWriteByAccessCodes :
    hostLive working = true ∧ reaches working 0 (rid .clkStretchCfg) = true ∧
    plainWrite working (rid .clkStretchCfg) 0xFFFFFFFF = true ∧
    reaches { working with numVfs := 16 } 16 (rid .numStep 16) = true ∧
    plainWrite { working with numVfs := 16 } (rid .numStep 16) 5 = true := by decide +kernel

/-- Table 14-3: a W1C field is cleared by a 1 and a RO field stays. -/
theorem test_registerWrite :
    ok (.registerWrite 0 (rid .memMapStat) (w32 0xFFFFFFFF)) working (fun t =>
      getReg t (rid .memMapStat) == getReg working (rid .memMapStat) && t.mem == []) = true := by decide +kernel

/-- The pair of a function's ring context table base. -/
def pairLo : RegId := rid .hubRctBaseLo 0
def pairHi : RegId := rid .hubRctBaseHi 0

theorem witness_RegisterPairsAndReads :
    hostLive working = true ∧ highHalf pairLo = some pairHi ∧ lowHalf pairHi = some pairLo ∧ regOwned pairLo.name = false ∧
    writeIgnored working pairLo = false ∧ writeIgnored working pairHi = false ∧ windowFixed working pairLo = false ∧
    windowFixed working pairHi = false ∧ reaches working 0 pairLo = true ∧ reaches working 0 pairHi = true ∧
    highHalf (rid .memCacheHit 15) = none ∧ pairLow (rid .memCacheHit 15) = none ∧
    reaches working 0 (rid .memCacheHit 15) = true ∧ highHalf pairHi = none ∧ (pairLow pairHi).isSome = true ∧
    Tab.get 0 ({ working with shadow := [(regKey pairHi, 6)] } : State).shadow (regKey pairHi) = 5 + 1 := by decide +kernel

/-- R46: the low half waits for the high half. -/
theorem test_registerWrite_pair :
    ok (.registerWrite 0 pairLo (w32 0x12345040)) working (fun t => getReg t pairLo == 0
      && ok (.registerWrite 0 pairHi (w32 7)) t (fun u => getReg u pairHi == 7 && getReg u pairLo == 0x12345000 &&
        u.heldLow == [])) = true := by decide +kernel

/-- A read counter reads once, then 0. -/
theorem test_rcRegisterRead :
    ok (.rcRegisterRead 0 (rid .memCacheHit 15)) (withReg (rid .memCacheHit 15) 258) (fun t =>
      getReg t (rid .memCacheHit 15) == 0 && t.out == [.completion 0 .success [2#8, 1#8, 0#8, 0#8]]) = true := by decide +kernel

theorem test_reg64LowRead :
    ok (.reg64LowRead 0 pairLo) (setReg (withReg pairLo 64) pairHi 9) (fun t =>
      Tab.get 0 t.shadow (regKey pairHi) == 10 && t.out == [.completion 0 .success [64#8, 0#8, 0#8, 0#8]]) = true := by
  decide +kernel

/-- A device whose block 0 has its clock off. -/
def gatedBlock : State := withReg (rid .hubClken 1) 0xFFFFFFFE

/-- A device whose stack 0 takes BAR4 accesses, and one where it is critical. -/
def bar4Ready : State := withEntry working 13 0
def bar4Critical : State := updStack bar4Ready 0 fun k => { k with thermal := .critical }

theorem witness_OtherAccesses :
    hostLive working = true ∧ widthOk 0 4 = true ∧ widthOk 2 4 = false ∧ widthOk 4 8 = false ∧ widthOk 0 2 = false ∧
    clkIndex 8 0 = some 32 ∧ windowThere gatedBlock (8, 0) = true ∧ clkEnabled gatedBlock 32 = false ∧
    clkIndex 8 127 = some 159 ∧
    (match parts4 0 false (2 / 256 + 2) bar4Ready 0 2 with | .inl ps => ps.length == 1 | _ => false) = true ∧
    (match parts4 0 false (2 / 256 + 2) bar4Critical 0 2 with | .inr .wait => true | _ => false) = true ∧
    (match parts4 0 true (2 / 256 + 2) bar4Ready 0 2 with | .inl ps => ps.length == 1 | _ => false) = true ∧
    (match parts4 0 true (2 / 256 + 2) bar4Critical 0 2 with | .inr .wait => true | _ => false) = true ∧
    (match parts4 0 false (2 / 256 + 2) working 0 2 with | .inr (.abort u) => u.mem == [] | _ => false) = true ∧
    (match parts4 0 true (2 / 256 + 2) working 0 2 with | .inr (.abort u) => u.mem == [] | _ => false) = true := by
  decide +kernel

/-- The last byte of the BAR's first granule, and of the BAR. -/
theorem witness_BarFourOfThePf :
    hostLive bar4Ready = true ∧ bar4Ready.start.recovery = false ∧ 254 % 256 + 2 ≤ 256 ∧ barLog bar4Ready 0 = 28 ∧
    254 + 2 ≤ 2 ^ barLog bar4Ready 0 ∧ dirtyOn bar4Ready = false ∧
    (match stand4 bar4Ready 0 254 false ⟨false, bar4Base bar4Ready + 254, 2, false⟩ with | .ok => true | _ => false) = true ∧
    (match stand4 bar4Ready 0 254 true ⟨false, bar4Base bar4Ready + 254, 2, false⟩ with | .ok => true | _ => false) = true := by
  decide +kernel

theorem test_unsupportedAccessWidth :
    ok (.unsupportedAccessWidth 0 2 4 true none) working (fun t => t.out.head? == some (.completion 0 .unsupportedRequest []))
      = true := by decide +kernel

theorem test_unmappedAccess :
    ok (.unmappedAccess 0 64 false false) working (fun t =>
      t.out.head? == some (.completion 0 .success [0#8, 0#8, 0#8, 0#8])) = true := by decide +kernel

theorem test_gatedAccess :
    ok (.gatedAccess 0 64 true 8 0) gatedBlock (fun t => t.out.head? == some (.completion 0 .completerAbort [])) = true := by
  decide +kernel

/-- Bytes written through BAR4 read back; a stack that is not PRESENT aborts the access. -/
theorem test_bar4Access :
    ok (.bar4Access 0 0 (.write [5#8, 6#8])) bar4Ready (fun t =>
      ok (.bar4Access 0 0 (.read 2)) t (fun u => u.out.head? == some (.completion 0 .success [5#8, 6#8]))) = true := by
  decide +kernel

theorem test_bar4Access_absent :
    ok (.bar4Access 0 0 (.write [5#8, 6#8])) working (fun t =>
      t.mem == [] && t.out.head? == some (.completion 0 .completerAbort [])) = true := by decide +kernel

/-- A device whose block 127, index 159, is disabled while its clock runs. -/
def stopping159 : State := withReg (rid .hubClkst 4) 0x80000000

def invalRunning : State :=
  { working with inval := some { all := false, space := 3, va := 4096, pages := 1 }
                 tlbs := [⟨0, 3, 4096, 4096, 0⟩, ⟨0, 3, 73728, 4096, 0⟩] }

theorem witness_ClocksAndTranslations :
    clkWritable 2 = true ∧ clkWritable 10 = true ∧ clkWritable 32 = true ∧ clkWritable 159 = true ∧ hostLive working = true ∧
    live stopping159 = true ∧ clkEnabled stopping159 159 = false ∧ clkRuns stopping159 159 = true ∧
    clkBusy stopping159 159 = false ∧ getBit working (rid .hubMmuInvCtl) 0 = false ∧ flag (w32 1).toNat 0 = true ∧
    invalRunning.inval = some { all := false, space := 3, va := 4096, pages := 1 } := by decide +kernel

theorem test_clockEnableClear :
    ok (.clockEnableClear 2) working (fun t => !clkEnabled t 2 && clkRuns t 2 == clkRuns working 2 && clkEnabled t 3) = true := by
  decide +kernel

theorem test_clockEnableSet :
    ok (.clockEnableSet 159) stopping159 (fun t => clkEnabled t 159 && clkRuns t 159) = true := by
  decide +kernel

theorem test_clockStopped : ok (.clockStopped 159) stopping159 (fun t => !clkEnabled t 159 && !clkRuns t 159) = true := by
  decide +kernel

theorem test_mmuRootWrite :
    ok (.mmuRootWrite 3 true (w32 9)) { working with tlbs := [⟨0, 3, 0, 4096, 0⟩, ⟨1, 4, 0, 4096, 0⟩] } (fun t =>
      t.tlbs == [⟨1, 4, 0, 4096, 0⟩] && getReg t (rid .hubMmuRootHi 3) == 9) = true := by decide +kernel

theorem test_mmuInvalidate :
    ok (.mmuInvalidate (w32 (1 + 3 * 256))) working (fun t =>
      getBit t (rid .hubMmuInvCtl) 0 && t.inval == some { all := false, space := 3, va := 0, pages := 65536 }) = true := by
  decide +kernel

theorem test_mmuInvalidationComplete :
    ok .mmuInvalidationComplete invalRunning (fun t => t.tlbs == [⟨0, 3, 73728, 4096, 0⟩] && t.inval == none) = true := by
  decide +kernel

theorem test_atsInvalidationRequest :
    ok (.atsInvalidationRequest 0 8192) { working with ats := [(0, 2, 7), (0, 1, 7), (1, 2, 7)] } (fun t =>
      t.ats == [(0, 1, 7), (1, 2, 7)] && t.out == [.atsDone 0 8192]) = true := by decide +kernel

/-! ## Rings -/

/-- The PF's ring 5 in a state and of a type, over a completion ring 6 and an event ring 7 that are ACTIVE. -/
def withRing (st : RingState) (ty : RingType) : State :=
  let s := updRing working 6 fun r => { r with state := .active, ctx := { r.ctx with type := .completion, evtRing := 7 } }
  let s := updRing s 7 fun r => { r with state := .active, ctx := { r.ctx with type := .event, evtRing := 7 } }
  updRing s 5 fun r => { r with state := st, ctx := { r.ctx with type := ty, cmplRing := 6, evtRing := 7, hostIdxAddr := 4096 } }

/-- The context of an event ring 8 that reports to itself, with initial index 9. -/
def eventContext : List Byte :=
  leBytes 8 0 ++ leBytes 8 4096 ++ leBytes 8 0 ++ [4#8, 2#8, 0#8, 0#8] ++ leBytes 2 0 ++ leBytes 2 0 ++ leBytes 2 8 ++ leBytes 2 2
    ++ leBytes 6 0 ++ leBytes 4 9 ++ padTo 18 []

theorem witness_RoundRobinArbiter :
    63 < 64 ∧ grantFrom (fun j => j == 62) 64 63 = some 62 ∧ grantFrom (fun _ => false) 64 63 = none ∧
    grantFrom (fun j => j == 63) 64 63 = some 63 := by decide +kernel

theorem witness_RingSetUp :
    hostLive working = true ∧ working.numVfs = 0 ∧ reaches working 0 (rid .hubVfRing 16) = true ∧
    reaches working 0 (rid .hubRgrpCfg 63) = true ∧ reaches working 0 (rid .hubRingCmd 0) = true ∧
    reaches { working with numVfs := 1 } 0 (rid .hubVfRing 16) = true ∧ reaches (withRing .active .submission) 0 (rid .hubRgrpCfg 0) = true ∧
    (field (w32 (0xFF + 256)).toNat 8 5 ≤ 16 ∧ (vfRange (w32 (0xFF + 256)).toNat).1 + (vfRange (w32 (0xFF + 256)).toNat).2 ≤ 65536) ∧
    (∀ u, u < 17 → 1 ≤ u → u ≠ 16 → rangesMeet (vfRange 0x1FF) (vfRange (getReg working (rid .hubVfRing u))) = false) ∧
    65536 < (vfRange 0x2FF).1 + (vfRange 0x2FF).2 ∧ 16 < field 0x1100 8 5 ∧
    0 < ({ working with numVfs := 1 } : State).numVfs ∧
    rangesMeet (vfRange 0x101) (vfRange (getReg (withReg (rid .hubVfRing 1) 0x101) (rid .hubVfRing 1))) = true ∧
    ((withRing .active .submission).rings.any fun r => r.2.ctx.group == 0 && r.2.ctx.type == .submission
      && (r.2.state == .active || r.2.state == .draining)) = true ∧
    field (w32 0x100).toNat 8 5 ≠ getFld working (rid .hubRgrpCfg 0) 8 5 ∧
    (8 < 65536 ∧ ownerOf working 8 = 0 ∧ (getRing working 8).state = .disabled ∧ ctxRefused working 0 8 eventContext = none) ∧
    ctxRefused working 0 8 (eventContext.set 24 3#8) = some 24 ∧ (getRing (withRing .active .submission) 5).state ≠ .disabled := by
  decide +kernel

theorem test_vfRingRangeWrite :
    ok (.vfRingRangeWrite 16 (w32 0x1FF)) working (fun t => getReg t (rid .hubVfRing 16) == 0x1FF) = true := by decide +kernel

/-- R81: a range that meets another VF's is refused. -/
theorem test_vfRingRangeWrite_meets :
    ok (.vfRingRangeWrite 16 (w32 0x101)) (withReg (rid .hubVfRing 1) 0x101) (fun t => getReg t (rid .hubVfRing 16) == 0)
      = true := by decide +kernel

theorem test_ringGroupConfigWrite :
    ok (.ringGroupConfigWrite 0 63 (w32 0x10FF)) working (fun t => getReg t (rid .hubRgrpCfg 63) == 0x10FF) = true := by
  decide +kernel

theorem test_ringLoad :
    ok (.ringLoad 0 8 eventContext) working (fun t =>
      (getRing t 8).state == .active && (getRing t 8).ctx.type == .event && (getRing t 8).head == 9 && (getRing t 8).tail == 9
        && !getBit t (rid .hubRingCmd 0) 30) = true := by decide +kernel

theorem test_ringLoad_refused :
    ok (.ringLoad 0 8 (eventContext.set 24 3#8)) working (fun t =>
      (getRing t 8).state == .disabled && getBit t (rid .hubRingCmd 0) 30) = true := by decide +kernel

/-- Ring 5 HALTED with a log that waits, and not. -/
def haltedRing : State := withRing .halted .submission
def haltedLog : State := setBit haltedRing (rid .fltStepCtl 0) 2 true

/-- A NOP slot with its FENCE flag. -/
def fencedSlot : List Byte := padTo 64 [0#8, 4#8]

theorem witness_RingCommandsAndDrains :
    hostLive haltedRing = true ∧ reaches haltedRing 0 (rid .hubRingCmd 0) = true ∧
    reaches { haltedRing with numVfs := 1 } 1 (rid .hubRingCmd 1) = true ∧ ownerOf { haltedRing with numVfs := 1 } 5 ≠ 1 ∧ 5 < 65536 ∧ ownerOf haltedRing 5 = 0 ∧ (getRing haltedRing 5).state = .halted ∧
    getBit haltedRing (rid .fltStepCtl 0) 2 = false ∧ getBit haltedLog (rid .fltStepCtl 0) 2 = true ∧
    ownerOf haltedRing 5 ≠ 1 ∧ (getRing working 5).state = .disabled ∧
    (getRing (withRing .draining .submission) 5).state = .draining ∧ (getRing (withRing .draining .submission) 5).fetched = [] ∧
    inFlight (withRing .draining .submission) 5 = 0 ∧
    (∀ o, o ∈ (getRing (withRing .draining .submission) 6).owed → o.ring ≠ 5) ∧
    (getRing (updRing (withRing .draining .submission) 5 fun r => { r with fetched := [⟨0, fencedSlot⟩] }) 5).fetched ≠ [] ∧
    ((getRing (withRing .draining .submission) 5).ctx.devmem = false ∧
      ((getRing (withRing .draining .submission) 6).owed.any fun o => o.ring == 5) = false) ∧
    (getRing (withRing .draining .completion) 5).ctx.type ≠ .submission ∧ owedTo (withRing .draining .completion) 5 = 0 := by
  decide +kernel

theorem test_ringStop :
    ok (.ringStop 0 5) (withRing .active .event) (fun t => (getRing t 5).state == .disabled) = true := by decide +kernel

/-- Descriptors that were fetched and not dispatched complete with ABORTED, one record each. -/
theorem test_ringAbort :
    ok (.ringAbort 0 5) (updRing (withRing .active .submission) 5 fun r => { r with fetched := [⟨0, fencedSlot⟩, ⟨1, fencedSlot⟩] })
      (fun t => (getRing t 5).state == .draining && (getRing t 5).fetched == [] && (getRing t 6).prod == 2) = true := by
  decide +kernel

theorem test_ringResume :
    ok (.ringResume 0 5) haltedRing (fun t =>
      (getRing t 5).state == .active && (getRing t 5).readInFlight && t.out == [.hostRead 0 4096 4]) = true := by decide +kernel

theorem test_ringResume_log :
    ok (.ringResume 0 5) haltedLog (fun t =>
      (getRing t 5).state == .active && (getRing t 5).readAgain && (getFn t 0).replayActive
        && getFld t (rid .fltStepCtl 0) 1 2 == 1) = true := by decide +kernel

theorem test_ringQuery :
    ok (.ringQuery 0 5) (updRing haltedRing 5 fun r => { r with head := 77 }) (fun t =>
      getReg t (rid .hubRingStat 0) == 3 && getReg t (rid .hubRingHead 0) == 77) = true := by decide +kernel

theorem test_ringDrained :
    ok (.ringDrained 5) (withRing .draining .submission) (fun t => (getRing t 5).state == .disabled) = true := by decide +kernel

/-- Ring 5 ACTIVE with a shadow-tail read in flight, and with a slot read in flight. -/
def tailRead (retried : Bool) : State :=
  updRing (withRing .active .submission) 5 fun r => { r with readInFlight := true, retried := retried, head := 3 }
def slotRead (retried : Bool) : State :=
  updRing (withRing .active .submission) 5 fun r =>
    { r with slotInFlight := true, slotRetried := retried, head := 2 ^ 32 - 1, tail := 0 }

/-- A POLLED ring whose 2 µs are over. -/
def polledRing : State :=
  { updRing (withRing .active .submission) 5 (fun r => { r with ctx := { r.ctx with polled := true, pollUs := 2 } }) with time := 800 }

theorem witness_SubmissionRings :
    hostLive (withRing .active .submission) = true ∧ vfBase (withRing .active .submission) 0 + 80 / 16 = 5 ∧
    (w32 5).toNat = 5 ∧ ownerOf (withRing .active .submission) 5 = 0 ∧ 80 % 16 = 0 ∧ 82 % 4 ≠ 0 ∧ 84 % 16 ≠ 0 ∧ 84 % 4 = 0 ∧
    vfBase { working with numVfs := 1 } 1 = 0 ∧ ownerOf { working with numVfs := 1 } 5 ≠ 1 ∧ (getRing working 5).state = .disabled ∧
    (getRing (withRing .active .submission) 5).ctx.type = .submission ∧ (getRing (withRing .active .event) 5).ctx.type ≠ .submission ∧
    (getRing polledRing 5).ctx.polled = true ∧ (getRing polledRing 5).polledAt + 400 * (getRing polledRing 5).ctx.pollUs ≤ polledRing.time ∧
    0 < (getRing polledRing 5).polledAt + 400 * (getRing polledRing 5).ctx.pollUs ∧
    (getRing (tailRead false) 5).readInFlight = true ∧ (getRing (tailRead false) 5).state = .active ∧
    (getRing (tailRead false) 5).ctx.devmem = false ∧ (getRing (tailRead true) 5).retried = true ∧
    (getRing (tailRead false) 5).retried = false ∧ (getRing (tailRead false) 5).size = 16 ∧
    ((w32 19).toNat + 2 ^ 32 - (getRing (tailRead false) 5).head) % 2 ^ 32 ≤ (getRing (tailRead false) 5).size ∧
    (getRing (tailRead false) 5).size < ((w32 20).toNat + 2 ^ 32 - (getRing (tailRead false) 5).head) % 2 ^ 32 ∧
    (getRing (slotRead false) 5).slotInFlight = true ∧ (getRing (slotRead true) 5).slotRetried = true ∧
    (getRing (slotRead false) 5).slotRetried = false ∧ live (slotRead false) = true := by decide +kernel

theorem test_doorbell :
    ok (.doorbell 0 80 4 (w32 5)) (withRing .active .submission) (fun t =>
      (getRing t 5).readInFlight && t.out == [.hostRead 0 4096 4]) = true := by decide +kernel

/-- A doorbell whose value is not its ring is discarded. -/
theorem test_doorbell_value :
    ok (.doorbell 0 80 4 (w32 6)) (withRing .active .submission) (fun t => !(getRing t 5).readInFlight) = true := by decide +kernel

theorem test_ringPollTimer :
    ok (.ringPollTimer 5) polledRing (fun t => (getRing t 5).readInFlight && (getRing t 5).polledAt == 800) = true := by
  decide +kernel

theorem test_ringPollTimer_early :
    ok (.ringPollTimer 5) { polledRing with time := 799 } (fun t => !(getRing t 5).readInFlight) = true := by decide +kernel

/-- R90: a tail that is one entry too far halts the ring; a full ring does not. -/
theorem test_shadowTailReadDone_overflow :
    ok (.shadowTailReadDone 5 (some (w32 20))) (tailRead false) (fun t => (getRing t 5).state == .halted) = true := by decide +kernel

theorem test_shadowTailReadDone_full :
    ok (.shadowTailReadDone 5 (some (w32 19))) (tailRead false) (fun t =>
      (getRing t 5).state == .active && (getRing t 5).tail == 19 && (getRing t 5).slotInFlight) = true := by decide +kernel

theorem test_descriptorFetchDone_wraps :
    ok (.descriptorFetchDone 5 (some fencedSlot)) (slotRead false) (fun t =>
      (getRing t 5).head == 0 && (getRing t 5).fetched == [⟨2 ^ 32 - 1, fencedSlot⟩]) = true := by decide +kernel

theorem test_descriptorFetchDone_twice :
    ok (.descriptorFetchDone 5 none) (slotRead true) (fun t => (getRing t 5).state == .halted) = true := by decide +kernel

/-- Ring 5 as an event ring with a rate window, or as a completion ring. -/
def rateWindow (dropped : Nat) : State :=
  updRing { withRing .active .event with time := 400000 } 5 fun r =>
    { r with windows := [{ srcType := 9, srcInst := 4, since := 0, count := 64, dropped := dropped, first := 7, last := 8 }] }
def unsignalled : State :=
  updRing { withRing .active .completion with time := 400 } 5 fun r => { r with unsignalled := 1, ctx := { r.ctx with modUs := 1, vector := 3 } }

/-- A submission ring whose ready descriptor finds no room in completion ring 6, stalled since time 0. -/
def stalled : State :=
  let s := updRing (withRing .active .submission) 5 fun r => { r with fetched := [⟨0, padTo 64 []⟩] }
  updRing { s with time := 400000 } 6 fun r =>
    { r with prod := 16, stall := some { since := 0, first := 5, reported := false } }

theorem witness_RecordRingTimers :
    live unsignalled = true ∧ (getRing unsignalled 5).state ≠ .disabled ∧ (getRing unsignalled 5).ctx.type = .completion ∧
    (getRing (rateWindow 0) 5).ctx.type = .event ∧ 0 < (getRing unsignalled 5).unsignalled ∧ 0 < (getRing unsignalled 5).ctx.modUs ∧
    ((getRing (rateWindow 0) 5).windows.find? (fun x => x.isFor 9 4)).map (·.dropped) = some 0 ∧
    ((getRing (rateWindow 1) 5).windows.find? (fun x => x.isFor 9 4)).map (·.dropped) = some 1 ∧
    (getRing (rateWindow 1) 5).lostFull + (getRing (rateWindow 1) 5).lostRate = 0 ∧ 0 + 400000 ≤ (rateWindow 1).time ∧
    (getRing unsignalled 5).firstAt + 400 * (getRing unsignalled 5).ctx.modUs ≤ unsignalled.time ∧
    (getRing (noteStall stalled 6) 6).stall = some { since := 0, first := 5, reported := false } ∧ 0 + 400000 ≤ stalled.time := by
  decide +kernel

theorem test_consumerIndexReread :
    ok (.consumerIndexReread 6 (some (w32 3))) (withRing .active .submission) (fun t => (getRing t 6).cons == 3) = true := by
  decide +kernel

theorem test_interruptModerationTimer :
    ok (.interruptModerationTimer 5) { unsignalled with msixOpen := [(0, 3)] } (fun t =>
      t.out == [.msix 0 3] && (getRing t 5).unsignalled == 0) = true := by decide +kernel

theorem test_eventRateWindowEnd :
    ok (.eventRateWindowEnd 5 9 4) (rateWindow 1) (fun t =>
      (getRing t 5).windows == [] && (getRing t 5).prod == 1 && (getRing t 5).lostRate == 0) = true := by decide +kernel

theorem test_completionRingStall :
    ok (.completionRingStall 6) stalled (fun t =>
      (getRing t 6).stall == some { since := 0, first := 5, reported := true } && (getRing t 7).prod == 1) = true := by
  decide +kernel

/-! ## Dispatch and the hub's opcodes -/

/-- A descriptor of an opcode with operand words, under ring 5 and index 0, in a phase and a place. -/
def desc (opcode : Nat) (level : Nat := 0) (target : Nat := 0) (w : List Nat := [0, 0, 0, 0]) (x : List Nat := []) : Desc :=
  { opcode := opcode, flags := if x.isEmpty then 0 else 8, seq := 0, node := 0xFFFF, level := level, ndep := 0, target := target
    counter := 0, deps := [0, 0, 0, 0], aux := 0, w := w, x := x, raw := [] }
def job (d : Desc) (phase : Phase) (place : Place := .hub) : Work :=
  { ring := 5, index := 0, fn := 0, desc := d, phase := phase, place := place, record := 65536 * 4 }

/-- A device with that descriptor dispatched. -/
def withJob (w : Work) (s : State := withRing .active .submission) : State := { s with work := [w], recs := [w.record] }

/-- Ring 5 with a fenced NOP fetched, in a group of weight 1; and with none fetched. -/
def ready : State :=
  updRing (setReg (withRing .active .submission) (rid .hubRgrpCfg 0) 1) 5 fun r => { r with fetched := [⟨0, fencedSlot⟩] }

/-- A descriptor held for a token of counter 3. -/
def heldJob : Work := job { desc 0 with ndep := 1, deps := [3 + 2 ^ 16, 0, 0, 0] } .held
def freeJob : Work := job (desc 0) .held

theorem witness_DispatchAndTokens :
    live ready = true ∧ (∀ fn, fn < 17 → (getFn ready fn).oasisFail = none) ∧ grantGroup ready = some (0, true) ∧
    groupRing ready 0 = some 5 ∧ nextDesc (getRing ready 5) = some (⟨0, fencedSlot⟩, none, []) ∧
    slotFence ⟨0, fencedSlot⟩ = true ∧ canDispatch ready 5 = true ∧ 0 < groupWeight ready 0 ∧ nextDesc (getRing working 5) = none ∧
    allHeld (withJob heldJob) = false ∧ findWork (withJob heldJob) 5 0 = some heldJob ∧ heldJob.phase = .held ∧
    heldJob.desc.tokens.any (tokenFailed (withJob heldJob)) = false ∧ tokensMet (withJob heldJob) heldJob.desc = false ∧
    heldJob.desc.tokens.any (tokenFailed (setCtr (withJob heldJob) 3 ⟨0, true⟩)) = true ∧
    tokensMet (withJob freeJob) freeJob.desc = true ∧ freeJob.desc.tokens.any (tokenFailed (withJob freeJob)) = false ∧
    refusedGate (setCtr (withJob heldJob) 3 ⟨0, true⟩) 0 heldJob.desc = 0 ∧ grantGroup working = none ∧
    slotFence ⟨0, padTo 64 [0#8]⟩ = false ∧ nextDesc (getRing (withRing .active .submission) 5) = none ∧
    groupRing ready 0 ≠ some 6 ∧ freeJob.op = some .nop ∧ freeJob.desc.node = nodeId (withJob freeJob) ∧ recsIn (withJob freeJob) 4 < 65536 ∧
    (getFn (withJob freeJob) 0).recOpen = false := by decide +kernel

theorem test_descriptorDispatch :
    ok .descriptorDispatch ready (fun t =>
      t.groupPtr == 1 && Tab.get 0 t.ringPtrs 0 == 6 && (getRing t 5).fetched == [] && t.work.length == 1) = true := by
  decide +kernel

theorem test_fenceRelease : ok (.fenceRelease 5) ready (fun t => (getRing t 5).fetched == [] && t.work.length == 1) = true := by
  decide +kernel

/-- R115: a descriptor that names a FAILED counter completes with ABORTED and detail code 0x0E. -/
theorem test_dependencyMet_failed :
    ok (.dependencyMet 5 0) (setCtr (withJob heldJob) 3 ⟨0, true⟩) (fun t =>
      t.work.map (fun w => (w.phase, w.status, w.dcode)) == [(.done, 0x10, 0x0E)]) = true := by decide +kernel

/-- R112: a token of value 1 is met once the counter has reached 1. -/
theorem test_dependencyMet :
    ok (.dependencyMet 5 0) (setCtr (withJob heldJob) 3 ⟨1, false⟩) (fun t => t.work.map (·.phase) == [.running]) = true := by
  decide +kernel

/-- A descriptor at its end, as a NOP of the hub. -/
def doneJob : Work := job (desc 0) .done

def countedJob (status flags : Nat) : Work := { job { desc 0 with flags := flags, counter := 9 } .done with status := status }

theorem witness_DescriptorsComplete :
    (∀ k, k ∈ [(0, 17), (stAborted, 16), (0, 0)] →
      let w := countedJob k.1 k.2
      let s := withJob w
      live s = true ∧ findWork s 5 0 = some w ∧ w.phase = .done ∧ w.op = some .nop ∧ w.writes = [] ∧ w.place = .hub ∧
      (getFn s 0).log = [] ∧ (getFn s 0).rollWait = none ∧ (getFn s 0).oasisFail = none ∧ s.buckets = [] ∧ w.status ≠ stPool ∧
      getFld s (rid .numStepCfg (ownerOf s 9)) 0 16 ≠ 9 ∧ (getRing s 5).ctx.cmplRing = 6 ∧ (getRing s 6).state ≠ .disabled ∧
      (getRing s 6).owed = [] ∧ 0 < (getRing s 6).room ∧ (getRing s 6).stall = none) ∧
    (countedJob 0 17).desc.ctr = true ∧ (countedJob 0 17).desc.cmpl = true ∧ succeeded 0 = true ∧ succeeded stAborted = false ∧
    (countedJob 0 0).desc.cmpl = false ∧ (countedJob 0 0).desc.ctr = false := by decide +kernel

/-- R114: a status that is no success marks the counter FAILED and leaves its value. -/
theorem test_descriptorComplete_failed :
    ok (.descriptorComplete 5 0) (withJob (countedJob stAborted 16)) (fun t =>
      t.work == [] && getCtr t 9 == ⟨0, true⟩ && (getRing t 6).prod == 1) = true := by decide +kernel

/-- R114: the counter is raised, the record posted and the transaction record freed. -/
theorem test_descriptorComplete :
    ok (.descriptorComplete 5 0) (withJob (job { desc 0 with flags := 17, counter := 9 } .done)) (fun t =>
      t.work == [] && t.recs == [] && getCtr t 9 == ⟨1, false⟩ && (getRing t 6).prod == 1) = true := by decide +kernel

def nopJob : Work := job (desc 0) .running
def ctrJob (w0 w1 : Nat) : Work := job (desc 1 (w := [w0, w1, 0, 0])) .running
def markJob (code : Nat) : Work := job (desc 2 (w := [code, 0, 0, 0])) .running

/-- A RING_KICK of ring 9, and a device where ring 9 lies in device memory. -/
def kickJob : Work := job (desc 3 (w := [9, 4, 0, 0])) .running
def kickReady : State :=
  updRing (withJob kickJob) 9 fun r => { r with state := .active, ctx := { r.ctx with devmem := true, hostIdxAddr := 64 } }

theorem witness_HubCommands :
    OpReady (withJob nopJob) .nop nopJob ∧ OpReady (withJob (ctrJob 65535 7)) .ctrWrite (ctrJob 65535 7) ∧
    getFld (withJob (ctrJob 65535 7)) (rid .numStepCfg (ownerOf (withJob (ctrJob 65535 7)) 65535)) 0 16 ≠ 65535 ∧
    (findWork (ctrWritten (withJob (ctrJob 65535 7)) (ctrJob 65535 7).desc) 5 0).isSome = true ∧
    OpReady (withJob (markJob 0x8000)) .eventMark (markJob 0x8000) ∧ 0x8000 ≤ field ((markJob 0x8000).desc.W 0) 0 16 ∧
    OpReady (withJob (markJob 0x7FFF)) .eventMark (markJob 0x7FFF) ∧ field ((markJob 0x7FFF).desc.W 0) 0 16 < 0x8000 ∧
    OpReady kickReady .ringKick kickJob ∧ ownerOf kickReady 9 = kickJob.fn ∧ (getRing kickReady 9).ctx.devmem = true ∧
    (getRing kickReady 9).state ≠ .disabled ∧ OpReady (withJob kickJob) .ringKick kickJob ∧
    (getRing (withJob kickJob) 9).ctx.devmem = false ∧
    ownerOf (withReg (rid .hubVfRing 1) 0) 9 = 0 ∧
    ownerOf { setReg (withJob kickJob) (rid .hubVfRing 1) 0x100 with numVfs := 1 } 9 ≠ kickJob.fn := by
  simp only [OpReady]; decide +kernel

theorem test_nop : ok (.nop 5 0) (withJob nopJob) (fun t => t.work.map (·.phase) == [.done]) = true := by decide +kernel

/-- R112: ADD wraps modulo 2^32 and FAILED is cleared on request. -/
theorem test_ctrWrite :
    ok (.ctrWrite 5 0) (setCtr (withJob (ctrJob (9 + 3 * 2 ^ 16) 7)) 9 ⟨2 ^ 32 - 1, true⟩) (fun t => getCtr t 9 == ⟨6, false⟩)
      = true := by decide +kernel

theorem test_eventMark :
    ok (.eventMark 5 0) (withJob (markJob 0x8000)) (fun t => (getRing t 7).prod == 1 && t.work.map (·.status) == [0]) = true := by
  decide +kernel

theorem test_ringKick_denied :
    ok (.ringKick 5 0) { setReg (withJob kickJob) (rid .hubVfRing 1) 0x100 with numVfs := 1 } (fun t =>
      t.work.map (fun w => (w.status, w.dcode)) == [(stDenied, 0x0C)]) = true := by decide +kernel

theorem test_ringKick_host_ring :
    ok (.ringKick 5 0) (withJob kickJob) (fun t => t.work.map (fun w => (w.status, w.dcode)) == [(stBad, 0x0A)]) = true := by
  decide +kernel

theorem witness_EngineOutcomes :
    Eng.on (act id : Eng Unit) working = (.ok (), working) ∧
    Eng.on (failWith 0x20 3 : Eng Unit) working = (.error (.fail 0x20 3), working) ∧
    Eng.on (throw (.hold 3) : Eng Unit) working = (.error (.hold 3), working) ∧
    Eng.on (throw .wait : Eng Unit) working = (.error .wait, working) ∧
    Eng.on (throw (.noRecord 3) : Eng Unit) working = (.error (.noRecord 3), working) ∧
    Eng.on (throw (.crc 3 5) : Eng Unit) working = (.error (.crc 3 5), working) ∧
    Eng.on (throw (.escalate 3 1) : Eng Unit) working = (.error (.escalate 3 1), working) := ⟨rfl, rfl, rfl, rfl, rfl, rfl, rfl⟩

/-! ## Cells -/

/-- Ring 5 on a device whose stacks are all PRESENT, whose first block is clocked, and where region 0 and the hub map the
first GiB of function 0's space to device memory. -/
def mapped : State :=
  let s := (List.range 16).foldl (fun s k => withEntry s 13 k) (withRing .active .submission)
  let s := setReg (setReg (setReg s (rid .hubClken 1) 1) (rid .hubClkst 1) 1) (rid .hubMmuRootLo 0) 1
  { s with tlbs := [⟨0, 0, 0, 2 ^ 30, 7⟩, ⟨16, 0, 0, 2 ^ 30, 7⟩] }

/-- A LEAF_PROGRAM of leaf A of cell 0: a tile of 1 × 1 in FP4 from an FP32 master at 0; and one without rows. -/
def programJob (rows : Nat) : Work :=
  job (desc 0x10 3 0 [0, rows + 2 ^ 16 + 0x20 * 2 ^ 32, 4, 0]) .running (.block 0)
def programReady (rows : Nat := 1) : State := withJob (programJob rows) mapped
def onePoint5 (s : State) : State := poke s 0 [0#8, 0#8, 0xC0#8, 0x3F#8]
def infinite (s : State) : State := poke s 0 [0#8, 0#8, 0x80#8, 0x7F#8]

/-- A LEAF_PROGRAM once it has begun, and the rows that it reads with whether its writes may start. -/
def programBegun (s : State) : State :=
  setBit (updLeaf (leaveValid s 0 .a .programming) 0 .a fun x => { x with owner := some (5, 0), restored := false })
    (rid .cellCheckStat 0) 0 false
def masterRows (s : State) : Option (List (List Nat) × Option Bool) :=
  let f := { programFields (programJob 1).desc with masterSpace := 0 }
  match (readMaster (whoOf (programJob 1)) f 1 0).on (programBegun s) with
  | (.ok rows, t) => some (rows, match (engineStart (programJob 1) 1).on t with | (.ok b, _) => some b | _ => none)
  | _ => none
def slow : State := updRegion (programReady 1) 0 fun g => { g with credit := 0 }

theorem witness_LeafCommands :
    OpReady (programReady 1) .leafProgram (programJob 1) ∧ programRefused (programJob 1).desc = false ∧
    OpReady (programReady 0) .leafProgram (programJob 0) ∧ programRefused (programJob 0).desc = true ∧
    programRefused (programJob 513).desc = true ∧ programRefused (programJob 512).desc = false ∧
    (getCell (programReady 1) 0).cal = none ∧
    (getCell (updCell (programReady 1) 0 fun c => { c with cal := some 0 }) 0).cal.isSome = true ∧
    (getLeaf (programReady 1) 0 .a).owner ≠ some (5, 0) ∧ (getLeaf (programBegun (programReady 1)) 0 .a).owner = some (5, 0) ∧
    masterRows (onePoint5 (programReady 1)) = some ([[0x3FC00000]], some true) ∧ fp32.finite 0x3FC00000 = true ∧
    masterRows (infinite (programReady 1)) = some ([[0x7F800000]], some true) ∧ fp32.finite 0x7F800000 = false ∧
    masterRows (onePoint5 slow) = some ([[0x3FC00000]], some false) ∧ (programJob 1).op = some .leafProgram ∧ (programJob 1).place = .block 0 ∧
    (getLeaf (programBegun (programReady 1)) 0 .a).state = .programming := by
  simp only [OpReady]; decide +kernel

/-- 1.5 alone in its column stands at level 3 with column scale 0.5 (Table 5-2, R191): the tile step times the level gives it
back. -/
theorem test_leafProgram :
    ok (.leafProgram 5 0) (onePoint5 (programReady 1)) (fun t =>
      (getLeaf t 0 .a).state == .programmed && (getLeaf t 0 .a).rows == 1 && (getLeaf t 0 .a).devices != [] && (getCell t 0).leafB.state == .empty
        && t.work.map (fun w => (w.phase, w.status)) == [(.done, 0)]) = true := by decide +kernel

theorem test_leafProgram_infinite :
    ok (.leafProgram 5 0) (infinite (programReady 1)) (fun t =>
      (getLeaf t 0 .a).state == .empty && t.work.map (fun w => (w.status, w.dcode)) == [(stBad, 0x54)]) = true := by
  decide +kernel

/-- A LEAF_READBACK of leaf A of cell 0, which holds 1 × 1, into a headed image of 16 × 1 elements at 8192. -/
def readbackJob : Work := job (desc 0x11 3 0 [8192, 0, 0, 0]) .running (.block 0)
def header (fmt log2 elements : Nat) : List Byte :=
  [0x56#8, 0x54#8, 0x48#8, 0x44#8] ++ leBytes 1 fmt ++ leBytes 1 log2 ++ leBytes 10 0 ++ leBytes 8 elements ++ leBytes 40 0
def oneByOne (st : LeafState) : LeafRec :=
  { state := st, rows := 1, cols := 1, fmt := 0x20, log2Block := 4, tw := -3, codes := [254]
    image := [[7]] : LeafRec }.writeRows [[7]]
def readbackReady (st : LeafState) : State :=
  let s := setReg (withJob readbackJob mapped) (rid .numGrpBaseLo 0) 1
  poke (updLeaf s 0 .a fun _ => oneByOne st) 8192 (header 0xA0 4 16)

/-- The same with the readback in progress and so many periods left. -/
def readbackRuns (x : LeafRec) (left : Nat := 0) : State :=
  updLeaf (readbackReady .reading) 0 .a fun _ => { x with owner := some (5, 0), toRead := left }

/-- A reading that finds what was written. -/
def cleanReading : Readback := ⟨[], [], []⟩
def deadReading : Readback := ⟨[[0]], [], []⟩

def headerReads (s : State) : Option (Hdr × Grp) :=
  match (imageHeader (whoOf readbackJob) (getLeaf s 0 .a) 8192).on s with
  | (.ok hg, _) => some hg
  | _ => none

def imageWrites (s : State) : Bool :=
  let y := getLeaf s 0 .a
  match headerReads s with
  | some hg => (match (writeImage (whoOf readbackJob) { y with image := imageOf y [] } hg.1 hg.2).on s with
    | (.ok _, _) => true
    | _ => false)
  | none => false

theorem witness_LeafCommands_readback :
    OpReady (readbackReady .empty) .leafReadback readbackJob ∧ (getLeaf (readbackReady .empty) 0 .a).state = .empty ∧
    (getLeaf (readbackReady .empty) 0 .a).owner ≠ some (5, 0) ∧
    OpReady (readbackReady .programmed) .leafReadback readbackJob ∧
    (getLeaf (readbackReady .programmed) 0 .a).state ≠ .empty ∧ (headerReads (readbackReady .programmed)).isSome = true ∧
    OpReady (readbackRuns (oneByOne .reading) 528) .leafReadback readbackJob ∧
    OpReady (readbackRuns (oneByOne .reading)) .leafReadback readbackJob ∧
    (getLeaf (readbackRuns (oneByOne .reading)) 0 .a).record = none ∧ recsIn (readbackRuns (oneByOne .reading)) 0 < 65536 ∧
    (readFindings (oneByOne .reading) 0 cleanReading).none = true ∧ imageWrites (readbackRuns (oneByOne .reading)) = true := by
  simp only [OpReady]; decide +kernel

/-- A readback that finds the device of level 7 at 0: a round of repairs, the fifth round, and a leaf in use. -/
theorem witness_LeafCommands_repairs :
    (readFindings (oneByOne .reading) 0 deadReading).none = false ∧ (oneByOne .reading).rounds < 4 ∧
    (planRound (getCell (readbackRuns (oneByOne .reading)) 0) (pcellOf (readbackRuns (oneByOne .reading)) 0) .a
      (readFindings (oneByOne .reading) 0 deadReading)).stop = none ∧
    { oneByOne .reading with rounds := 4 }.rounds = 4 ∧
    (match (rereadLeaf readbackJob (whoOf readbackJob) 0 .a 8192 0 cleanReading).on
        (readbackRuns { oneByOne .reading with record := some 0 }) with
      | (.ok b, _) => some b
      | _ => none) = some true ∧
    (match (rereadLeaf readbackJob (whoOf readbackJob) 0 .a 8192 0 deadReading).on
        (readbackRuns { oneByOne .reading with record := some 0 }) with
      | (.ok b, t) => some (b, (getCell t 0).retired)
      | _ => none) = some (false, false) := by decide +kernel

/-- R200, R222: a LEAF_READBACK takes 528 periods, and ends with an image of what was read. -/
theorem test_leafReadback :
    ok (.leafReadback 5 0 cleanReading) (readbackReady .programmed) (fun t =>
      (getLeaf t 0 .a).state == .reading && (getLeaf t 0 .a).toRead == 528 && t.work.map (·.phase) == [.running]) = true ∧
    ok (.leafReadback 5 0 cleanReading) (readbackRuns (oneByOne .reading)) (fun t =>
      (getLeaf t 0 .a).state == .valid && (getLeaf t 0 .a).image == [[7]] && (getLeaf t 0 .a).imageVa == 8192) = true := by
  decide +kernel

theorem test_leafReadback_empty :
    ok (.leafReadback 5 0 cleanReading) (readbackReady .empty) (fun t =>
      t.work.map (fun w => (w.status, w.dcode)) == [(stBad, 0x51)]) = true := by decide +kernel

/-- A TILE_EVALUATE of one evaluation on leaf A of cell 0, which holds 16 × 1, from a headed input at 8192 into FP32 at
12288. -/
def evalJob : Work := job (desc 0x12 3 0 [8192 + 0xA0 * 2 ^ 52, 12288, 1, 0]) .running (.block 0)
def tile16 (st : LeafState) : LeafRec :=
  { oneByOne st with rows := 16, image := List.replicate 16 [7] }.writeRows (List.replicate 16 [7])
def evalReady (st : LeafState) : State :=
  let s := setReg (withJob evalJob mapped) (rid .numGrpBaseLo 0) 1
  poke (updLeaf s 0 .a fun _ => tile16 st) 8192 (header 0xA0 4 16)
/-- An input with scales of 1 and 7 as its first element code. -/
def evalInput (s : State) : State :=
  poke (poke (poke s (8192 + 12) [0#8, 0#8, 0x80#8, 0x3F#8]) (8192 + 64) [0x38#8]) (8192 + areaOffset 0x20 4 16) [7#8]

/-- Where the engine takes a TILE_EVALUATE of an evaluation in progress: its first input, and whether a shot of it stands ready. -/
def evalCarried (s : State) : Option (Eval × Bool × List Nat × Nat × Bool) :=
  match (evalChecks evalJob 0 (getLeaf s 0 .a)).on s with
  | (.ok table, t) =>
    let e := evalStarted s evalJob table
    let started := updCell t 0 fun c => { c with eval := some e }
    match (readInput (whoOf evalJob) 8192 0xA0 16 0).on started, (carry evalJob 0).on started with
    | (.ok i, u), (.ok (), _) =>
      some (e, engineRuns t evalJob, suspectsOf (getCell t 0) .a,
        (((getCell (prepareEval u 0 true i) 0).eval.map (·.wadiRows)).getD []).length,
        (i.vals.all (·.isFin)) && (i.steps.all (·.isSome)) && (startShot (prepareEval u 0 (mxInput evalJob.desc) i) 0
          (mxInput evalJob.desc) 0).1 && !leafFallback t 0 .a && !(getCell t 0).retired)
    | _, _ => none
  | _ => none

theorem witness_TileEvaluations :
    OpReady (evalReady .valid) .tileEvaluate evalJob ∧ (getCell (evalReady .valid) 0).eval = none ∧
    (getLeaf (evalReady .programmed) 0 (evalOps evalJob.desc).leaf).state ≠ .valid ∧ (evalOps evalJob.desc).evals = 1 ∧
    (evalCarried (evalInput (evalReady .valid))).map (fun x => (x.1.reread, x.2)) = some (false, true, [], 0, true) := by
  simp only [OpReady]; decide +kernel

theorem test_tileEvaluate_not_valid :
    ok (.tileEvaluate 5 0) (evalReady .programmed) (fun t =>
      t.work.map (fun w => (w.status, w.dcode)) == [(stBad, 0x51)]) = true := by decide +kernel

/-- An evaluation of that TILE_EVALUATE: 40 rows of code 7 that stand ready, at GAIN 0 and MARGIN 0. -/
def evalOf (codes : Nat) : Eval :=
  { ring := 5, index := 0, leaf := .a, gain := 0, margin := 0, depth := 0, fbThresh := 0, ksTol := 0, sentN := 1, evals := 1
    table := [], audited := false, codes := List.replicate codes 7, ready := true }
def evaluating (e : Eval) (s : State := evalReady .valid) : State := updCell s 0 fun c => { c with eval := some e }
def starting (s : State) : Option Bool :=
  match (engineStart evalJob 1).on s with
  | (.ok b, _) => some b
  | _ => none
def reading : State := updLeaf (readbackRuns (oneByOne .reading) 528) 0 .b fun x => { x with rows := 1 }

theorem witness_ArrayPeriodsAndChecks :
    live (evaluating (evalOf 40)) = true ∧ (getCell (evaluating (evalOf 40)) 0).eval = some (evalOf 40) ∧
    findWork (evaluating (evalOf 40)) 5 0 = some evalJob ∧ (evalOf 40).ready = true ∧
    calHolds (evaluating (evalOf 40)) (getCell (evaluating (evalOf 40)) 0) = false ∧
    calHolds (updCell working 0 fun c => { c with cal := some 0 }) (getCell (updCell working 0 fun c => { c with cal := some 0 }) 0)
      = true ∧
    engineRuns (evaluating (evalOf 40)) evalJob = true ∧ starting (evaluating (evalOf 40)) = some true ∧
    starting (updRegion (evaluating (evalOf 40)) 0 fun g => { g with credit := 0 }) = some false ∧
    (evalOf 40).sentinelDue = false ∧ (evalOf 40).shot = 0 ∧
    (evalOf 40).phase + 1 < phaseCount (evalOf 40) (mxInput evalJob.desc) (getLeaf (evaluating (evalOf 40)) 0 .a).pw 0 ∧
    (getCell working 1023).eval = none ∧ (getCell working 1023).retired = false ∧ (getCell working 1023).cal = none ∧
    (readPeriod working 1023) = none ∧ scalSettled working = true ∧
    (readPeriod reading 0).isSome = true ∧ readsNow reading (getCell reading 0).leafA = true ∧
    (getCell (updCell working 1023 fun c => { c with retired := true }) 1023).retired = true := by decide +kernel

/-- An evaluation that waits for a readback, for a check of column 0, for a clone, or for its fallback product. -/
def rereading : Eval := { evalOf 0 with ready := false, audited := true, reread := true }
def inUse : State := updLeaf (evaluating rereading) 0 .a fun x => { x with imageVa := 8192, record := some 0 }
def checking (audited : Bool) : State :=
  updCell (evaluating { evalOf 0 with ready := false, audited := audited }) 0 fun c => { c with suspects := [0] }
def cloning : State := evaluating { evalOf 0 with ready := false, waitClone := true }
def fallen : Eval := { evalOf 0 with ready := false, next := 1, fallen := [0], fallbacks := 1 }

def carried (s : State) : Bool := match (carry evalJob 0).on s with | (.ok (), _) => true | _ => false

theorem witness_ChecksAndClones :
    (match (evalReread cleanReading evalJob 0 rereading).on inUse with | (.ok (), _) => true | _ => false) = true ∧
    suspectsOf (getCell (checking true) 0) .a = 0 :: [] ∧ engineRuns (checking true) evalJob = true ∧
    ksFailed 0 (tile16 .valid).image [[100, 0]] = [0] ∧ ksFailed 0 (tile16 .valid).image [] = [] ∧
    carried (updLeaf (updCell (checking false) 0 fun c => { c with
      suspects := c.suspects.erase 0, violations := c.violations.filter fun v => v.1 != 0 }) 0 .a
        fun x => { x with sincePass := 0 }) = true ∧
    (getCell cloning 0).eval.isSome = true ∧ acceptable ⟨4096, 1, true⟩ = true ∧ acceptable ⟨4097, 1, true⟩ = false ∧
    carried (updEval cloning 0 fun e => { e with waitClone := false, clone := true }) = true ∧
    carried (updWork (updEval cloning 0 Eval.toDmu) 5 0 fun w => { w.also 3 0x5E with mask := w.mask ||| 5 }) = true ∧
    fallen.fallbackDue = true ∧ engineRuns (evaluating fallen) evalJob = true ∧ (evalOf 40).waitClone = false := by
  decide +kernel

theorem witness_ChecksAndClones_fallback :
    (match (fallbackResults evalJob (getLeaf (evaluating fallen) 0 .a) [0]).on (evaluating fallen) with
      | (.ok _, t) => (match (dmuErrors evalJob 0 (tilesOf 1 1 0)).on t with | (.ok (), _) => true | _ => false)
      | _ => false) = true := by decide +kernel

/-- R202: column 1's code of 300 is clamped to 127 and column 2's of −300 to −128, and both count as saturated. -/
theorem test_arrayPeriod :
    ok (.arrayPeriod 0 [5, 300, -300]) (evaluating (evalOf 40)) (fun t => match (getCell t 0).eval with
      | some e => e.sumsHigh.take 4 == [5, 127, -128, 0] && e.saturated == [1, 2] && e.phase == 1
      | none => false) = true := by decide +kernel

/-- R200: with no shot ready, a readback period. -/
theorem test_arrayPeriod_reads :
    ok (.arrayPeriod 0 []) reading (fun t => (getLeaf t 0 .a).toRead == 527) = true := by decide +kernel

theorem test_suspectColumnCheck :
    ok (.suspectColumnCheck 0 []) (checking false) (fun t => (getCell t 0).suspects == []) = true := by decide +kernel

theorem test_cloneReady :
    ok (.cloneReady 0 ⟨4096, 1, true⟩) cloning (fun t => match (getCell t 0).eval with
      | some e => e.clone && !e.waitClone
      | none => (t.work.map (·.status)) == [0x03]) = true := by decide +kernel

theorem test_fallbackProductStart :
    ok (.fallbackProductStart 0) (evaluating fallen) (fun t => t.work.map (fun w => (w.status, w.detail)) == [(0x01, 1)]
      && getReg t (rid .dmuTileCnt 0) == 1) = true := by decide +kernel

/-- A cell whose full calibration may start: the host holds its token. -/
def mayCalibrate : State := setReg mapped (rid .fltMaintSlot 2) (slotWord 2 0 .host)
def calibrating : State := updCell { mapped with
  time := 2393740000, power := { mapped.power with scalAtStart := true } } 0 fun c => { c with cal := some 0 }
def calibrated : State := updCell { mapped with time := 744 * 3600 * cyclesPerSecond } 0 fun c => { c with lastCal := some 0 }

theorem witness_Calibration :
    live mapped = true ∧ (getCell mapped 0).retired = false ∧ (getCell mapped 0).cal = none ∧
    (getCell mapped 0).spareConv = none ∧ scalSettled mapped = true ∧ (getCell mapped 0).onSpare ≠ (getCell mapped 0).toMove ∧
    midEvaluation (getCell (evaluating { evalOf 40 with phase := 1 }) 0) = true ∧ midEvaluation (getCell mapped 0) = false ∧
    hostLive mayCalibrate = true ∧ reaches mayCalibrate 0 (rid .cellCalCmd 0) = true ∧ calRefused mayCalibrate 0 = false ∧
    calRefused mapped 0 = true ∧ calOver calibrating 0 = true ∧ calOver mapped 0 = false ∧
    (getCell calibrated 0).lastCal.isSome = true ∧ (getCell calibrated 0).dueSaid = false ∧ 744 ≤ fullAge calibrated 0 ∧
    fullAge { calibrated with time := 0 } 0 < 744 := by decide +kernel

/-- A junction sample waits for the end of an evaluation between two phases. -/
theorem test_junctionSample :
    ok (.junctionSample 0 800) (evaluating { evalOf 40 with phase := 1 }) (fun t =>
      (getCell t 0).useTemp == 480 && (getCell t 0).nextTemp == some 800 && (getCell t 7).useTemp == 800
        && (getCell t 8).useTemp == 480) = true := by decide +kernel

theorem test_converterCalibrationSlot :
    ok (.converterCalibrationSlot 0 3) (updCell mapped 0 fun c => { c with calConv := 64 }) (fun t =>
      (getCell t 0).calConv == 0) = true := by decide +kernel

theorem test_fullCalibrationStart :
    ok (.fullCalibrationStart 0 0) mayCalibrate (fun t =>
      (getCell t 0).cal == some 0 && getBit t (rid .cellCalStat 0) 1 && getFld t (rid .cellCalCmd 0) 0 2 == 1) = true := by
  decide +kernel

theorem test_fullCalibrationStart_no_token :
    ok (.fullCalibrationStart 0 0) mapped (fun t => (getCell t 0).cal == none && getBit t (rid .cellCalCmd 0) 1) = true := by
  decide +kernel

theorem test_fullCalibrationEnd :
    ok (.fullCalibrationEnd 0 ⟨[], 0⟩) calibrating (fun t =>
      (getCell t 0).cal == none && (getCell t 0).lastCal == some 2393740000 && !getBit t (rid .cellCalStat 0) 1
        && getBit t (rid .cellCalStat 0) 0) = true := by decide +kernel

theorem test_calibrationDue : ok (.calibrationDue 0) calibrated (fun t => (getCell t 0).dueSaid) = true := by decide +kernel

/-! ## Matrix products and block scheduling -/

/-- A DMU_PRODUCT of FP32 operands at 0 and 256 into 512, M × N × K in `shape`; `hi` holds W3[63:48]. -/
def productJob (shape : Nat) (hi : Nat := 0) (w1 : Nat := 256) : Work :=
  job (desc 0x20 2 0 [0, w1, 512, shape + hi * 2 ^ 48]) .running (.block 0)
def oneByTwo : Nat := 1 + 2 ^ 16 + 2 * 2 ^ 32
def fp32Bytes (xs : List Nat) : List Byte := xs.flatMap (leBytes 4)
def turn (s : State) : State := updBlock s 0 fun k => { k with dmu0 := [(5, 0)], dmu1 := [(5, 0)] }
def productReady (w : Work) : State :=
  poke (poke (turn (withJob w mapped)) 0 (fp32Bytes [0x3FC00000, 0x40000000])) 256 (fp32Bytes [0x40000000, 0x3F800000])

/-- A DMU_PAIR of T = R = C = 1: dY 2.0 at 256, X 3.0 at 512, a weight image at 8192, dX into 1024 and dW into 1280. -/
def pairJob (shape : Nat) (aux : Nat := 0) : Work :=
  job { desc 0x21 2 0 [256, 8192 + 0xA0 * 2 ^ 52, 512, shape] [1024, 1280, 0, 0, 0, 0, 0] with aux := aux } .running (.block 0)
def oneEach : Nat := 1 + 2 ^ 16 + 2 ^ 32
def pairReady (w : Work) : State :=
  let s := setReg (turn (withJob w mapped)) (rid .numGrpBaseLo 0) 1
  poke (poke (poke s 256 (fp32Bytes [0x40000000])) 512 (fp32Bytes [0x40400000])) 8192 (header 0xA0 4 16)

def endsWell (m : Eng Unit) (s : State) : Bool := match m.on s with | (.ok (), _) => true | _ => false

/-- The DMU_PAIR after its first command. -/
def pairHalf : Work := { pairJob oneEach with half := true, starts := 1 }
def starts (w : Work) (n : Nat) (s : State) : Option Bool :=
  match (engineStart w n).on s with
  | (.ok b, _) => some b
  | _ => none

theorem witness_MatrixProducts_start :
    dmuTurn (productReady (productJob oneByTwo)) (productJob oneByTwo) 0 = true ∧
    dmuTurn (withJob (productJob oneByTwo) mapped) (productJob oneByTwo) 0 = false ∧
    starts (productJob oneByTwo) 1 (productReady (productJob oneByTwo)) = some true ∧
    starts (productJob oneByTwo) 1 (updRegion (productReady (productJob oneByTwo)) 0 fun g => { g with credit := 0 }) = some false ∧
    starts (pairJob oneEach) 1 (pairReady (pairJob oneEach)) = some true ∧
    OpReady (pairReady pairHalf) .dmuPair pairHalf ∧ dmuTurn (pairReady pairHalf) pairHalf (bit pairHalf.half) = true ∧
    starts pairHalf 2 (pairReady pairHalf) = some true ∧ endsWell (dmuPair pairHalf) (pairReady pairHalf) = true ∧
    endsWell (dmuErrors (productJob oneByTwo) 0 1) (productReady (productJob oneByTwo)) = true := by
  simp only [OpReady]; decide +kernel

theorem witness_MatrixProducts :
    OpReady (productReady (productJob oneByTwo)) .dmuProduct (productJob oneByTwo) ∧
    formatRefused .dmuProduct (productJob oneByTwo).desc = false ∧
    formatRefused .dmuProduct (productJob oneByTwo 0 (0x7F * 2 ^ 52)).desc = true ∧
    ¬ (field ((productJob (2 ^ 16 + 2 ^ 32)).desc.W 3) 0 16 ≠ 0) ∧
    4 < field ((productJob oneByTwo 0x28).desc.W 3) 51 3 ∧ field ((productJob oneByTwo 0x20).desc.W 3) 51 3 = 4 ∧
    field ((productJob oneByTwo 0xC0).desc.W 3) 54 2 = 3 ∧ field ((productJob oneByTwo 0x40).desc.W 3) 54 2 = 1 ∧
    (productJob oneByTwo 0x40).desc.ext = false ∧
    endsWell (dmuProduct (productJob oneByTwo)) (productReady (productJob oneByTwo)) = true ∧
    OpReady (pairReady (pairJob oneEach)) .dmuPair (pairJob oneEach) ∧ formatRefused .dmuPair (pairJob oneEach).desc = false ∧
    field ((pairJob (2 ^ 16 + 2 ^ 32)).desc.W 3) 0 16 = 0 ∧ (pairJob oneEach 1).desc.aux ≠ 0 ∧
    endsWell (dmuPair (pairJob oneEach)) (pairReady (pairJob oneEach)) = true := by simp only [OpReady]; decide +kernel

/-- 1.5 × 2 + 2 × 1 = 5, and one tile counted on DMU0. -/
theorem test_dmuProduct :
    ok (.dmuProduct 5 0) (productReady (productJob oneByTwo)) (fun t =>
      peek t 512 4 == fp32Bytes [0x40A00000] && getReg t (rid .dmuTileCnt 0) == 1
        && t.work.map (fun w => (w.phase, w.status)) == [(.done, 0)]) = true := by decide +kernel

/-- The first command leaves DMU0 to other work; dW = X × dY = 6 (R296). -/
theorem test_dmuPair :
    ok (.dmuPair 5 0) (pairReady (pairJob oneEach)) (fun t =>
      (getBlock t 0).dmu0 == [] && (getBlock t 0).dmu1 == [(5, 0)] && t.work.map (fun w => (w.phase, w.half)) == [(.running, true)]) = true ∧
    ok (.dmuPair 5 0) (pairReady pairHalf) (fun t => peek t 1280 4 == fp32Bytes [0x40C00000]) = true := by
  decide +kernel

/-- A descriptor in block 0's scoreboard, one that may issue. -/
def boardJob (op : Nat) : Work := { productJob oneByTwo with phase := .board, entry := 255, desc := { (productJob oneByTwo).desc with opcode := op } }
def boardReady : State := withJob (boardJob 0x20) mapped
def grantedJob : Work := { productJob oneByTwo with phase := .granted }
def grantedReady : State := withJob grantedJob mapped

/-- A region without credit, and one whose ended descriptor waits to stop. -/
def spent : State := updRegion grantedReady 0 fun g => { g with credit := 0 }
def stopping : State := updRegion (withJob { grantedJob with phase := .done } mapped) 0 fun g => { g with stops := [(5, 0, 21760)] }

theorem witness_BlockScheduling :
    blockIssues boardReady 0 = true ∧ classEntries boardReady 0 1 = [boardJob 0x20] ∧
    grantFrom (classAsks boardReady 0) 5 0 = some 1 ∧
    grantFrom (fun e => (classEntries boardReady 0 1).any fun v => v.entry == e) 256 0 = some 255 ∧
    blockIssues mapped 1 = false ∧ grantFrom (classAsks mapped 0) 5 (getBlock mapped 0).classPtr = none ∧
    (classMove (updBlock mapped 0 fun k => { k with flushing := [7] }) 0).isSome = true ∧
    grantFrom (classAsks (updBlock mapped 0 fun k => { k with flushing := [7] }) 0) 5 0 = some 4 ∧ mapped.upsets = [] ∧
    slewStep grantedJob ≠ 0 ∧ grantedJob.starts = 0 ∧
    findWork grantedReady 5 0 = some grantedJob ∧ grantedJob.phase = .granted ∧ issueHold grantedReady = false ∧
    grantedReady.failStop = false ∧ regionRuns grantedReady 0 = true ∧ slewStep grantedJob ≤ creditNow grantedReady 0 ∧
    creditNow spent 0 < slewStep grantedJob ∧
    regionRuns (updRegion grantedReady 0 fun g => { g with resetSince := some 0 }) 0 = false ∧
    (getRegion stopping 0).stops = [(5, 0, 21760)] ∧ 21760 ≤ creditNow stopping 0 ∧
    (∀ j, j < 16 → j ≠ 0 → (getRegion stopping j).stops = []) := by decide +kernel

/-- Block 127 in a rebuild, and one rebuilt at time 0. -/
def rebuilding : State := updBlock mapped 127 fun k => { k with rebuilding := true }
def rebuilt (time : Nat) : State := { updBlock mapped 127 fun k => { k with lastRebuild := some 0 } with time := time }

theorem witness_ScoreboardParity :
    live mapped = true ∧ (getBlock mapped 127).rebuilding = false ∧ (getBlock mapped 127).lastRebuild = none ∧
    (getBlock rebuilding 127).rebuilding = true ∧
    ((getBlock (rebuilt 399999) 127).lastRebuild = some 0 ∧ (rebuilt 399999).time - 0 < 400000) ∧
    ¬ ((rebuilt 400000).time - 0 < 400000) := by decide +kernel

/-- Windows of block 0: none enabled, window 7 enabled with 2047 pages, one flushing, and one whose block is full. -/
def window7 : State := setReg mapped (rid .blkResCtl 0 7) (1 + 2047 * 2 ^ 8)
def flushing7 : State := updBlock (setReg mapped (rid .blkResCtl 0 7) (2 + 2047 * 2 ^ 8)) 0 fun k => { k with flushing := [7] }
def pageAt (i : Nat) : Page := ⟨7, i, false, i, ⟨0, 0, 0, 2 ^ 30, 7⟩, 4096 * i, []⟩
def full7 : State :=
  updBlock window7 0 fun k => { k with pages := (List.range 448).map fun i => pageAt i }

theorem witness_Residency :
    hostLive mapped = true ∧ reaches mapped 0 (rid .blkResCtl 0 7) = true ∧ regExists (rid .blkResCtl 0 7) = true ∧ flag (getReg mapped (rid .blkResCtl 0 7)) 0 = false ∧
    flag (getReg mapped (rid .blkResCtl 0 7)) 1 = false ∧
    (let new := writeFields (regFields (rid .blkResCtl 0 7)) (1 + 2047 * 2 ^ 8) (getReg mapped (rid .blkResCtl 0 7));
      flag new 0 = true ∧ windowClash mapped 0 7 new = false ∧
        windowClash (setReg mapped (rid .blkResCtl 0 0) (1 + 2047 * 2 ^ 8)) 0 7 new = true) ∧
    (let old := getReg window7 (rid .blkResCtl 0 7);
      let new := writeFields (regFields (rid .blkResCtl 0 7)) (2047 * 2 ^ 8) old;
      flag old 0 = true ∧ new / 8 = old / 8 ∧ flag new 0 = false ∧ 7 ∉ (getBlock window7 0).flushing) ∧
    7 ∈ (getBlock flushing7 0).flushing ∧ windowOn window7 0 7 = true ∧ 2046 < getFld window7 (rid .blkResCtl 0 7) 8 11 ∧
    issueHold window7 = false ∧ regionRuns window7 0 = true ∧ (getBlock window7 0).pages = [] ∧
    448 ≤ (getBlock full7 0).pages.length ∧ (∀ p, p ∈ (getBlock full7 0).pages → ¬ (p.window = 7 ∧ p.page = 2046)) ∧
    evicted (getBlock full7 0).pages = some (pageAt 0) ∧
    endsWell (flushPages 0 7) flushing7 = true ∧
    (match (fillPage { hubWho 0 with mmu := 0 } 0 7 2046).on full7 with | (.ok _, _) => true | _ => false) = true := by decide +kernel

theorem test_blockIssue :
    ok (.blockIssue 0) boardReady (fun t =>
      (getBlock t 0).classPtr == (issueClass (boardJob 0x20) + 1) % 5 && (getBlock t 0).dmu0 == [(5, 0)]) = true := by
  decide +kernel

/-- R337: a DMU's start takes 3.4 A. -/
theorem test_slewCreditStart :
    ok (.slewCreditStart 5 0) grantedReady (fun t =>
      t.work.map (·.phase) == [.running] && (getRegion t 0).credit == 0) = true := by decide +kernel

theorem test_slewCreditStart_spent :
    ok (.slewCreditStart 5 0) spent (fun t => t.work.map (·.phase) == [.granted]) = true := by decide +kernel

theorem test_scoreboardParityError :
    ok (.scoreboardParityError 127) (rebuilt 400000) (fun t => (getBlock t 127).rebuilding && (getRegion t 15).resetSince == none)
      = true := by decide +kernel

theorem test_scoreboardParityError_soon :
    ok (.scoreboardParityError 127) (rebuilt 399999) (fun t => (getRegion t 15).resetSince == some 399999) = true := by
  decide +kernel

theorem test_scoreboardRebuildDone :
    ok (.scoreboardRebuildDone 127) rebuilding (fun t => !(getBlock t 127).rebuilding && (getBlock t 127).lastRebuild == some 0)
      = true := by decide +kernel

theorem test_residencyWindowWrite :
    ok (.residencyWindowWrite 0 0 7 (w32 (2047 * 2 ^ 8))) window7 (fun t =>
      getFld t (rid .blkResCtl 0 7) 0 2 == 2 && (getBlock t 0).flushing == [7]) = true := by decide +kernel

theorem test_residencyFlushDone :
    ok (.residencyFlushDone 0 7) flushing7 (fun t => getFld t (rid .blkResCtl 0 7) 0 2 == 0 && (getBlock t 0).flushing == [])
      = true := by decide +kernel

theorem test_residencyPageFill :
    ok (.residencyPageFill 0 7 2046) full7 (fun t =>
      (getBlock t 0).pages.length == 448 && getFld t (rid .blkSramStat 0) 24 8 == 1) = true := by decide +kernel

/-! ## The vector engine -/

/-- An instruction (Table 8-3). -/
def instr (op d a b c imm : Nat) : Nat := op + d * 2 ^ 8 + a * 2 ^ 13 + b * 2 ^ 18 + c * 2 ^ 23 + imm * 2 ^ 32

/-- A VECTOR_PROGRAM on block 0 whose engine is about to run one instruction: v1 = 1.5, −2 and v2 = 2, 0 in their first
lanes, v3 = 0, 1; s1 = 7, s2 = 2^32 − 1 and s3 = 0. -/
def vectorJob : Work := { job (desc 0x28 2 0) .running (.block 0) with starts := 1 }
def vectorRun (i : Nat) : VecRun :=
  { ring := 5, index := 0, prog := [i], args := [⟨512, 8, true, true, false⟩], iterations := 2
    v := [(1, [0x3FC00000, 0xC0000000]), (2, [0x40000000, 0]), (3, [0, 0x3F800000])], s := [(1, 7), (2, 2 ^ 32 - 1), (3, 0)]
    v0 := [], s0 := [] }
def vectorReady (i : Nat) : State := updBlock (withJob vectorJob mapped) 0 fun k => { k with vec := some (vectorRun i) }

/-- The engine's lanes of a vector register, and its pc, after a command. -/
def lanesAfter (c : Instr) (s : State) (d : Nat) : Option (List Nat) :=
  match exec c s with
  | .next t => (getBlock t 0).vec.map fun r => ((r.v.find? fun p => p.1 == d).map (·.2)).getD []
  | _ => none
def pcAfter (c : Instr) (s : State) : Option Nat :=
  match exec c s with
  | .next t => (getBlock t 0).vec.map (·.pc)
  | _ => none

theorem witness_VectorLanes :
    ∀ op ∈ [0x01, 0x02, 0x10, 0x11, 0x12, 0x13, 0x14, 0x15, 0x16, 0x18, 0x20, 0x21, 0x22, 0x23, 0x30, 0x31, 0x40, 0x48, 0x49, 0x50],
      VecDue (vectorReady (instr op 4 1 2 3 9)) 0 op vectorJob (vectorRun (instr op 4 1 2 3 9)) ∧
      Upset.lane 0 ∉ (vectorReady (instr op 4 1 2 3 9)).upsets ∧ (vectorRun (instr op 4 1 2 3 9)).executed < 2 ^ 24 := by
  simp only [VecDue]; decide +kernel

/-- The engine of a descriptor that has started needs no credit. -/
theorem witness_VectorLanes_start (i : Nat) :
    (engineStart vectorJob 1).on (vectorReady i) = (.ok true, vectorReady i) := by rfl

theorem witness_VectorScalarsAndStores :
    (vectorRun (instr 0x48 0 1 0 0 9)).scalar 1 ≠ 0 ∧ (vectorRun (instr 0x48 0 3 0 0 9)).scalar 3 = 0 ∧
    vD (instr 0x40 4 1 2 0 9) ≠ 0 ∧ 16384 < { vectorRun 0 with bytes := 16384 }.bytes + areaBytes 0 1 ∧
    (vectorReady 0).upsets = [] ∧ ((⟨3, 7, 0, 8, leBytes 8 5, 0⟩ : Caravan) :: [])[0]? = some ⟨3, 7, 0, 8, leBytes 8 5, 0⟩ ∧
    (vectorRun (instr 0x02 1 0 3 1 1)).bytes + min ((vectorRun (instr 0x02 1 0 3 1 1)).scalar 1) 256 * areaBytes 0 1 ≤ 16384 ∧
    (let s := setReg (vectorReady (instr 0x50 4 0 0 0 3)) (rid .blkCarCfg 0 3) 1;
      flag (getReg s (rid .blkCarCfg 0 3)) 0 = true ∧ field (getReg s (rid .blkCarCfg 0 3)) 1 5 = vectorJob.fn ∧
        (Tab.get {} (getBlock s 0).slots 3).onDie = [] ∧ (Tab.get {} (getBlock s 0).slots 3).overflow = []) := by
  decide +kernel

/-- An END of the first iteration of two, with one held store; and an LD of elements past its argument's two. -/
def endRun : VecRun := { vectorRun (instr 0x7F 0 0 0 0 0) with stores := [⟨0, 1, 0x3F800000⟩], bytes := 4 }
def endReady : State := updBlock (withJob vectorJob mapped) 0 fun k => { k with vec := some endRun }
def writesWell : Bool :=
  match (iterationWrites vectorJob (stepped endRun)).on endReady with | (.ok _, _) => true | _ => false
def loadsWell : Bool :=
  match (loadLanes vectorJob ⟨512, 8, true, true, false⟩ [some 0, some 1, some 2, none]).on (vectorReady 0) with
  | (.ok xs, _) => xs == [0, 0, 0, 0]
  | _ => false

def closesWell : Bool := match (closeArguments vectorJob endRun endRun.written).on endReady with | (.ok (), _) => true | _ => false
def startsNot : Option Bool :=
  match (engineStart { vectorJob with starts := 0 } 1).on (updRegion (withJob { vectorJob with starts := 0 } mapped) 0 fun g => { g with credit := 0 }) with
  | (.ok b, _) => some b
  | _ => none

theorem witness_VectorLoadsAndEnds :
    VecDue endReady 0 0x7F vectorJob endRun ∧ (Instr.vecEnd 0, 0x7F) ∈ vectorCommands 0 ∧ endRun.executed < 2 ^ 24 ∧
    2 ^ 24 ≤ { endRun with executed := 2 ^ 24 }.executed ∧ Upset.lane 0 ∈ { endReady with upsets := [.lane 0] }.upsets ∧
    endRun.again = false ∧ closesWell = true ∧ startsNot = some false ∧ endRun.iter + 1 < endRun.iterations ∧ writesWell = true ∧ loadsWell = true ∧
    flag (fmtOf ((vectorRun 0).args.getD 0 ⟨0, 0, false, false, false⟩).word) 7 = false ∧
    ((vectorRun (instr 0x01 5 0 1 0 1)).elems (instr 0x01 5 0 1 0 1)).all (fun x => match x with
      | some n => decide (8 < elemEnd 0 0 n)
      | none => true) = true := by simp only [VecDue]; decide +kernel

theorem test_vecAdd : lanesAfter (.vecAdd 0) (vectorReady (instr 0x10 4 1 2 0 0)) 4 = some [0x40600000, 0xC0000000] := by
  decide +kernel
theorem test_vecMul : lanesAfter (.vecMul 0) (vectorReady (instr 0x11 4 1 2 0 0)) 4 = some [0x40400000, 0x80000000] := by
  decide +kernel
theorem test_vecFma : lanesAfter (.vecFma 0) (vectorReady (instr 0x12 4 1 2 3 0)) 4 = some [0x40400000, 0x3F800000] := by
  decide +kernel
theorem test_vecMin : lanesAfter (.vecMin 0) (vectorReady (instr 0x13 4 1 2 0 0)) 4 = some [0x3FC00000, 0xC0000000] := by
  decide +kernel
theorem test_vecMax : lanesAfter (.vecMax 0) (vectorReady (instr 0x14 4 1 2 0 0)) 4 = some [0x40000000, 0] := by decide +kernel
theorem test_vecSel : lanesAfter (.vecSel 0) (vectorReady (instr 0x15 4 1 2 3 0)) 4 = some [0x40000000, 0xC0000000] := by
  decide +kernel
theorem test_vecCmplt : lanesAfter (.vecCmplt 0) (vectorReady (instr 0x16 4 1 2 0 0)) 4 = some [0x3F800000, 0x3F800000] := by
  decide +kernel
theorem test_vecSplat :
    (lanesAfter (.vecSplat 0) (vectorReady (instr 0x18 4 0 0 0 0x3F800000)) 4).map (·.drop 254) = some [0x3F800000, 0x3F800000] := by
  decide +kernel
theorem test_vecRcp : lanesAfter (.vecRcp 0) (vectorReady (instr 0x20 4 2 0 0 0)) 4 = some [0x3F000000, 0x7F800000] := by
  decide +kernel
theorem test_vecRsqrt : lanesAfter (.vecRsqrt 0) (vectorReady (instr 0x21 4 3 0 0 0)) 4 = some [0x7F800000, 0x3F800000] := by
  decide +kernel
theorem test_vecExp2 : lanesAfter (.vecExp2 0) (vectorReady (instr 0x22 4 2 0 0 0)) 4 = some [0x40800000, 0x3F800000] := by
  decide +kernel
theorem test_vecLog2 : lanesAfter (.vecLog2 0) (vectorReady (instr 0x23 4 2 0 0 0)) 4 = some [0x3F800000, 0xFF800000] := by
  decide +kernel
/-- −2 + 1.5 in lane 0, +0 in the others. -/
theorem test_vecSum :
    (lanesAfter (.vecSum 0) (vectorReady (instr 0x30 4 1 0 0 0)) 4).map (·.take 2) = some [0xBF000000, 0] := by decide +kernel
theorem test_vecMaxr :
    (lanesAfter (.vecMaxr 0) (vectorReady (instr 0x31 4 1 0 0 0)) 4).map (·.take 2) = some [0x3FC00000, 0] := by decide +kernel

/-- SADD wraps: 7 + (2^32 − 1) + 9 = 15. -/
theorem test_vecSadd :
    ok (.vecSadd 0) (vectorReady (instr 0x40 4 1 2 0 9)) (fun t => ((getBlock t 0).vec.map (·.scalar 4)) == some 15) = true := by
  decide +kernel
theorem test_vecBrnz_taken : pcAfter (.vecBrnz 0) (vectorReady (instr 0x48 0 1 0 0 9)) = some 9 := by decide +kernel
theorem test_vecBrnz_not_taken : pcAfter (.vecBrnz 0) (vectorReady (instr 0x48 0 3 0 0 9)) = some 1 := by decide +kernel
theorem test_vecBr : pcAfter (.vecBr 0) (vectorReady (instr 0x49 0 0 0 0 9)) = some 9 := by decide +kernel
/-- ST of one element holds it and writes no memory. -/
theorem test_vecSt :
    ok (.vecSt 0) (updBlock (vectorReady 0) 0 fun k => { k with vec := some { vectorRun (instr 0x02 1 0 3 4 1) with s := [(3, 0), (4, 1)] } })
      (fun t => ((getBlock t 0).vec.map fun r => (r.stores, r.bytes)) == some ([⟨0, 0, 0x3FC00000⟩], 4) && t.mem == []) = true := by
  decide +kernel
theorem test_vecLd :
    (lanesAfter (.vecLd 0) (poke (vectorReady (instr 0x01 4 0 3 0 1)) 512 (fp32Bytes [0x3F800000, 0x40000000])) 4).map (·.take 4)
      = some [0x3F800000, 0x40000000, 0, 0] := by decide +kernel
theorem test_cpop_empty :
    ok (.cpop 0) (setReg (vectorReady (instr 0x50 4 0 0 0 3)) (rid .blkCarCfg 0 3) 1) (fun t =>
      ((getBlock t 0).vec.map (·.scalar 4)) == some 0) = true := by decide +kernel
/-- The END of an iteration writes its held store. -/
theorem test_vecEnd :
    ok (.vecEnd 0) endReady (fun t => peek t 516 4 == fp32Bytes [0x3F800000]
      && ((getBlock t 0).vec.map fun r => (r.iter, r.pc, r.bytes)) == some (1, 0, 0)) = true := by decide +kernel

/-! ## The memory system -/

theorem witness_SegmentMapIsOneToOne : 2 ^ 40 - 1 < 2 ^ 40 ∧ (mapPa working (2 ^ 40 - 1)).1 < 16 := by decide +kernel

/-- The worked example of chapter 9: a hashed and a stack-local segment 4. -/
theorem test_mapPa_hashed : mapPa working 0x1234641234 = (5, 0x123464134) := by decide +kernel
theorem test_mapPa_local : mapPa (withReg (rid .memMapLocalLo) 16) 0x1234641234 = (8, 0x134641234) := by decide +kernel

/-- The worked example of chapter 2: a 2 MiB page maps VA 0x8080641234 to 0x1234641234. -/
theorem test_pageAddress : (Tlb.mk 0 3 0x8080600000 (2 ^ 21) 0x1234600007).addr 0x8080641234 = 0x1234641234 := by decide +kernel

/-- A MEM_COPY of `len` bytes from 0 to `dst` in region 0, and a MEM_ATOMIC of `count` 32-bit adds of the elements at 256 to
those at `target`, under a tag. -/
def copyJob (len dst : Nat) : Work := job (desc 0x30 1 0 [0, dst, len, 0]) .running (.region 0)
def copyReady (len dst : Nat) : State := poke (withJob (copyJob len dst) mapped) 0 [1#8, 2#8, 3#8, 4#8]
def atomicJob (target count tag : Nat) : Work :=
  job (desc 0x31 1 0 [target + 2 * 2 ^ 56, 256, count + tag * 2 ^ 32, 0]) .running (.region 0)
def atomicReady (target count tag : Nat) : State :=
  poke (poke (withJob (atomicJob target count tag) mapped) 0 (leBytes 4 (2 ^ 32 - 1))) 256 (leBytes 4 5)
def tagOf (n : Nat) : TagEntry := { region := 0, fn := 0, tag := n, va := 0, count := 1, applied := 0, bitmap := 0 }

theorem witness_CopiesAndAtomics :
    OpReady (copyReady 4 512) .memCopy (copyJob 4 512) ∧ inCaravan (copyReady 4 512) 0 (vaOf ((copyJob 4 512).desc.W 1)) = false ∧
    copyRefusal (copyJob 0 512).desc true = some 0x80 ∧ copyRefusal (copyJob 8 4).desc true = some 0x80 ∧
    copyRefusal (copyJob 3 512).desc true = some 0x80 ∧ copyRefusal (copyJob 4 4).desc true = none ∧ copyRefusal (copyJob 4 512).desc true = none ∧
    endsWell (copyParts (copyJob 4 512) { whoOf (copyJob 4 512) with hint := 0 } (copyOps (copyJob 4 512).desc) 4 0) (copyReady 4 512)
      = true ∧
    OpReady (atomicReady 0 1 0) .memAtomic (atomicJob 0 1 0) ∧
    atomicRefused (atomicReady 0 1 0) (whoOf (atomicJob 0 1 0)) (atomicOps (atomicJob 0 1 0).desc) = false ∧
    atomicRefused (atomicReady 2 1 0) (whoOf (atomicJob 2 1 0)) (atomicOps (atomicJob 2 1 0).desc) = true ∧
    (atomicOps (atomicJob 0 0 9).desc).tag ≠ 0 ∧ (atomicOps (atomicJob 0 0 9).desc).count = 0 ∧
    (atomicOps (atomicJob 0 1 9).desc).count ≠ 0 ∧ (atomicOps (atomicJob 0 1 0).desc).tag = 0 ∧
    (List.replicate 3 (tagOf 8)).find? (TagEntry.isFor 0 0 9) = none ∧
    endsWell (atomicGranules (whoOf (atomicJob 0 1 0)) (atomicOps (atomicJob 0 1 0).desc)
      (fun k => act fun s => updWork s 5 0 fun v => { v with progress := k }) 2 0) (atomicReady 0 1 0) = true := by
  simp only [OpReady]; decide +kernel

theorem witness_CopiesAndAtomics_full (n : Nat) (h : 4096 ≤ n) :
    4096 ≤ ((List.replicate n (tagOf 8)).filter fun e => e.region == 0).length := by
  rw [List.filter_replicate]; simpa [tagOf] using h

theorem test_memCopy :
    ok (.memCopy 5 0) (copyReady 4 512) (fun t =>
      peek t 512 4 == [1#8, 2#8, 3#8, 4#8] && t.work.map (fun w => (w.phase, w.detail)) == [(.done, 4)]) = true := by decide +kernel

/-- (2^32 − 1) + 5 wraps to 4. -/
theorem test_memAtomic :
    ok (.memAtomic 5 0) (atomicReady 0 1 0) (fun t => peek t 0 8 == leBytes 8 4) = true := by decide +kernel

/-- Modes about to change: segment 63, idle, while a change runs, and with an oasis in that segment. -/
def changing : State := setBit { working with mapBusy := some (5, 7), lines := [(3, { valid := 1 })] } (rid .memMapStat) 0 true

theorem witness_MapModesAndErrors :
    hostLive working = true ∧ reaches working 0 (rid .memMapLocalLo) = true ∧ reaches working 0 (rid .memMapLocalHi) = true ∧
    getBit working (rid .memMapStat) 0 = false ∧ getBit changing (rid .memMapStat) 0 = true ∧
    (0 + (w32 0x80000000).toNat * 2 ^ 32) ^^^ getPair working .memMapLocalLo .memMapLocalHi ≠ 0 ∧
    (0 + (w32 0).toNat * 2 ^ 32) ^^^ getPair working .memMapLocalLo .memMapLocalHi = 0 ∧ oasisUsed working = 0 ∧
    (let s := setReg { working with oasis := [⟨0, 0, 0, 0, 1, 0, true⟩] } (rid .numOasisSize) 1;
      0 < oasisUsed s ∧ overlapsOasis s (2 ^ 63) = true ∧ overlapsOasis s (2 ^ 62) = false) ∧
    live changing = true ∧ changing.mapBusy = some (5, 7) ∧ changing.heldAccess = [] := by decide +kernel

/-- Lines of stack 15: clean, and wholly valid and dirty; a scrub that is on, over a PRESENT stack. -/
def cached (l : Line) : State := { working with lines := [(15 * 2 ^ 28 + 3, l)] }
def scrubbing : State := setBit (withEntry working 13 15) (rid .memScrubCfg 15) 8 true

theorem witness_SliceAndScrubErrors :
    (Tab.get {} (cached { valid := 1 }).lines (15 * 2 ^ 28 + 3 % 2 ^ 28)).valid ≠ 0 ∧
    (Tab.get {} (cached { valid := 1 }).lines (15 * 2 ^ 28 + 3 % 2 ^ 28)).dirty = 0 ∧
    (Tab.get {} (cached { valid := 255, dirty := 255 }).lines (15 * 2 ^ 28 + 3)).dirty = 255 ∧
    Tab.get 0 (cached { valid := 255, dirty := 255 }).detect (15 * 2 ^ 28 + 3) = 0 ∧
    Tab.get 0 { working with detect := [(15 * 2 ^ 28 + 3, 255)] }.detect (15 * 2 ^ 28 + 3) = 255 ∧
    (Line.lost { lost := 2 } ≠ 0) ∧ live scrubbing = true ∧ 15 < 16 ∧ 2 ^ 31 - 1 < 2 ^ 31 ∧
    getBit scrubbing (rid .memScrubCfg 15) 8 = true ∧ present scrubbing 13 15 = true ∧
    sectorDetect scrubbing 15 ((2 ^ 31 - 1) * 32) = false ∧ sectorErrs scrubbing 15 ((2 ^ 31 - 1) * 32) = 0 ∧
    sectorDetect { scrubbing with detect := [(15 * 2 ^ 28, 1)] } 15 0 = true ∧ (getStack scrubbing 15).thermal ≠ .critical ∧
    (getStack (updStack scrubbing 15 fun k => { k with thermal := .critical }) 15).thermal = .critical := by decide +kernel

theorem test_mapLocalWrite :
    ok (.mapLocalWrite true (w32 0x80000000)) working (fun t => t.mapBusy == some (0, 0x80000000) && getBit t (rid .memMapStat) 0)
      = true := by decide +kernel

theorem test_mapChangeDone :
    ok .mapChangeDone changing (fun t =>
      getReg t (rid .memMapLocalLo) == 5 && getReg t (rid .memMapLocalHi) == 7 && !getBit t (rid .memMapStat) 0) = true := by
  decide +kernel

theorem test_cacheSliceError :
    ok (.cacheSliceError 15 3 [1] false) (cached { valid := 1 }) (fun t => t.lines == [] && !alarmLatched t 4) = true := by
  decide +kernel

theorem test_cacheSliceError_dirty :
    ok (.cacheSliceError 15 3 [] true) (cached { valid := 255, dirty := 255 }) (fun t =>
      (t.lines.map (·.2.lost)) == [255] && alarmLatched t 4) = true := by decide +kernel

/-- R369: two bytes in error are corrected, three are not. -/
theorem test_patrolScrub :
    ok (.patrolScrub 15 (2 ^ 31 - 1) 2) scrubbing (fun t => t.bad == [] && getFld t (rid .memEccCnt 15) 0 16 == 1) = true := by
  decide +kernel

theorem test_patrolScrub_uncorrectable :
    ok (.patrolScrub 15 (2 ^ 31 - 1) 3) scrubbing (fun t =>
      t.bad == [(15 * 2 ^ 31 + (2 ^ 31 - 1), 3)] && getFld t (rid .memEccCnt 15) 16 8 == 1) = true := by decide +kernel

def stackIn (st : Thermal) : State := updStack working 15 fun k => { k with thermal := st }
def tenSeconds : State := { stackIn .critical with time := 4000000000 }

theorem witness_StackTemperatures :
    live (stackIn .hot) = true ∧ (stackIn .hot).buckets = [] ∧ (stackIn .hot).heldAccess = [] ∧
    (getStack (stackIn .hot) 15).thermal = .hot ∧ (getStack (stackIn .normal) 15).thermal = .normal ∧
    (getStack tenSeconds 15).thermal = .critical ∧ (getStack tenSeconds 15).held = [] ∧
    (getStack tenSeconds 15).criticalSince + 4000000000 ≤ tenSeconds.time ∧
    (stackIn .critical).time < (getStack (stackIn .critical) 15).criticalSince + 4000000000 ∧
    nextThermal .hot 90 = .normal ∧ nextThermal .hot 91 = .hot ∧ nextThermal .normal 95 = .hot ∧ nextThermal .normal 94 = .normal ∧
    nextThermal .hot 105 = .critical ∧ nextThermal .critical 100 = .hot ∧ nextThermal .critical 101 = .critical := by decide +kernel

theorem test_stackTemperatureSample :
    ok (.stackTemperatureSample 15 95) (stackIn .normal) (fun t =>
      (getStack t 15).thermal == .hot && getFld t (rid .memThermStat 15) 0 10 == 95 + 256 && (getEntry t 13 15).word == 50
        && (getEntry t 13 15).degraded) = true := by decide +kernel

theorem test_stackTemperatureSample_back :
    ok (.stackTemperatureSample 15 90) (stackIn .hot) (fun t =>
      (getStack t 15).thermal == .normal && (getEntry t 13 15).word == 100) = true := by decide +kernel

theorem test_stackLost :
    ok (.stackLost 15) tenSeconds (fun t => (getStack t 15).thermal == .lost && (getEntry t 13 15).retired) = true := by
  decide +kernel

/-- Stack 15 PRESENT with the host's token for a margin scan or a memory test, a scan in progress, and a test in progress. -/
def tokenFor (cls : Nat) : State := setReg (withEntry working 13 15) (rid .fltMaintSlot 2) (slotWord cls 15 .host)
def scanning (m : Margin) : State := updStack working 15 fun k => { k with margin := some m }
def testing : State :=
  updStack { working with mem := [(14 * 2 ^ 36 + 5, 7#8), (15 * 2 ^ 36 + 5, 7#8)], bad := [(14 * 2 ^ 31, 3), (15 * 2 ^ 31, 3)] } 15
    fun k => { k with test := some true }

theorem witness_MarginScansAndMemoryTests :
    hostLive (tokenFor 3) = true ∧ reaches (tokenFor 3) 0 (rid .memMargCtl 15) = true ∧
    reaches (tokenFor 4) 0 (rid .memTestCtl 15) = true ∧ (getStack (tokenFor 3) 15).margin = none ∧ flag (w32 0xFFFFFFFF).toNat 0 = true ∧
    (getStack (tokenFor 3) 15).thermal = .normal ∧ present (tokenFor 3) 13 15 = true ∧
    tokenHeld (setReg (tokenFor 3) (rid .memMargCtl 15) (writeFields (regFields (rid .memMargCtl 15)) 0xFFFFFFFF 0)) 3 15 = true ∧
    tokenHeld (setReg working (rid .memMargCtl 15) (writeFields (regFields (rid .memMargCtl 15)) 0xFFFFFFFF 0)) 3 15 = false ∧
    (getStack (scanning ⟨2, false, 31, false⟩) 15).margin = some ⟨2, false, 31, false⟩ ∧ (Margin.mk 2 false 1 true).cut = true ∧ 31 < 32 ∧ 32 ≤ (Margin.mk 2 true 32 false).step ∧
    (getStack (tokenFor 4) 15).test = none ∧
    tokenHeld (setReg (tokenFor 4) (rid .memTestCtl 15) (writeFields (regFields (rid .memTestCtl 15)) 0xFFFFFFFF 0)) 4 15 = true ∧
    tokenHeld (setReg working (rid .memTestCtl 15) (writeFields (regFields (rid .memTestCtl 15)) 0xFFFFFFFF 0)) 4 15 = false ∧
    (getStack testing 15).test.isSome = true := by decide +kernel

theorem test_marginScanStart :
    ok (.marginScanStart 15 (w32 (1 + 3 * 256))) (tokenFor 3) (fun t => (getStack t 15).margin == some ⟨3, false, 1, false⟩) = true := by
  decide +kernel

theorem test_marginScanStart_refused :
    ok (.marginScanStart 15 (w32 1)) working (fun t => getBit t (rid .memMargCtl 15) 14 && (getStack t 15).margin == none) = true := by
  decide +kernel

theorem test_marginPoint :
    ok (.marginPoint 15 true) (scanning ⟨2, false, 32, false⟩) (fun t =>
      (getStack t 15).margin == some ⟨2, true, 1, false⟩ && getFld t (rid .memMargRes 15) 0 8 == 32) = true := by decide +kernel

theorem test_memTestStart :
    ok (.memTestStart 15 (w32 3)) (tokenFor 4) (fun t => (getStack t 15).test == some true && !present t 13 15) = true := by
  decide +kernel

theorem test_memTestDone :
    ok (.memTestDone ⟨15, 70000, 2, false⟩) testing (fun t =>
      t.mem == [(14 * 2 ^ 36 + 5, 7#8)] && t.bad == [(14 * 2 ^ 31, 3)] && present t 13 15
        && getReg t (rid .memTestStat 15) == 65535 + 2 * 65536 && getBit t (rid .memTestCtl 15) 2) = true := by decide +kernel

/-! ## Vector programs and the fused update unit -/

/-- A VECTOR_PROGRAM of two iterations: its program at 4096, its argument block at 8192. -/
def loadJob : Work := job (desc 0x28 2 0 [4096, 8192, 2, 0]) .running (.block 0)
def loadReady (head inst : List Byte) : State := poke (poke (withJob loadJob mapped) 4096 (head ++ leBytes 10 0)) 4112 inst
def vtvp (n : Nat) : List Byte := [0x56#8, 0x54#8, 0x56#8, 0x50#8] ++ leBytes 2 n

def headRead (s : State) (p : List Byte → Bool) : Bool :=
  match (vread (whoOf loadJob) 4096 16).on s with | (.ok h, _) => p h | _ => false

def programLoads (s : State) : Bool :=
  match (vread (whoOf loadJob) 4096 16).on s with
  | (.ok head, t) =>
    head.take 4 == [0x56#8, 0x54#8, 0x56#8, 0x50#8] && leAt head 4 2 == 1 && leAt head 6 10 == 0 &&
    (match (vread (whoOf loadJob) 4112 (8 * leAt head 4 2)).on t with
    | (.ok insts, u) =>
      let prog := (List.range (leAt head 4 2)).map fun i => leAt insts (8 * i) 8
      prog.all (fun i => !instrRefused (leAt head 4 2) i) &&
      (match (vread (whoOf loadJob) (vaOf (loadJob.desc.W 1)) 256).on u with
      | (.ok block, v) => !argsRefused block && !storeRefused prog ((List.range 16).map (vArgOf block)) &&
          (match (checkArgs (whoOf loadJob) ((List.range 16).map (vArgOf block)) (usedArgs prog)).on v with
          | (.ok (), _) => true
          | _ => false)
      | _ => false)
    | _ => false)
  | _ => false

theorem witness_VectorProgramsLoad :
    OpReady (loadReady (vtvp 1) (leBytes 8 0x7F)) .vectorProgram loadJob ∧
    (getBlock (loadReady (vtvp 1) (leBytes 8 0x7F)) 0).vec = none ∧ vaOf (loadJob.desc.W 0) = 4096 ∧
    (getBlock (vectorReady 0) 0).vec.isSome = true ∧
    headRead (loadReady (vtvp 0) []) (fun h => h.take 4 == [0x56#8, 0x54#8, 0x56#8, 0x50#8] && leAt h 4 2 == 0) = true ∧
    programLoads (loadReady (vtvp 1) (leBytes 8 0x7F)) = true ∧ argFormatRefused [] [⟨0x7F * 2 ^ 52, 1, true, false, false⟩] = true ∧
    (match (engineStart loadJob 1).on (loadReady (vtvp 1) []) with | (.ok b, _) => b | _ => false) = true ∧
    (match (engineStart loadJob 1).on (updRegion (loadReady (vtvp 1) []) 0 fun g => { g with credit := 0 }) with
      | (.ok b, _) => !b
      | _ => false) = true ∧ loadJob.progress < field (loadJob.desc.W 2) 0 32 := by
  simp only [OpReady]; decide +kernel

theorem test_vectorProgram :
    ok (.vectorProgram 5 0) (loadReady (vtvp 1) (leBytes 8 0x7F)) (fun t =>
      (getBlock t 0).vec.map (fun r => (r.prog, r.iterations, r.pc)) == some ([0x7F], 2, 0)) = true := by decide +kernel

/-- R322: a program of 1,023 instructions is refused. -/
theorem test_vectorProgram_refused :
    ok (.vectorProgram 5 0) (loadReady (vtvp 1023) []) (fun t =>
      t.work.map (fun w => (w.status, w.dcode)) == [(stBad, 0x70)]) = true := by decide +kernel

/-- Region 3's unit about to run one instruction: r0 = 1.5, r1 = −2, r2 = 4, r3 = 0; K0 = 2; the norm is 4. -/
def ruleJob : Work := job (desc 0x40 1 3 [4096, 0, 8192, 2 ^ 16]) .running (.region 3)
def ruleRun (i : Nat) : RuleRun :=
  { ring := 5, index := 0, prog := [i], consts := [0x40000000, 0, 0, 0, 0, 0, 0, 0], sched := [0, 0, 0, 0], bc1 := 0, bc2 := 0
    t := 7, blocks := 1, grad := [0x3FC00000, 0], master := [0xC0000000, 0], m1 := [0, 0], m2 := [0, 0]
    nb := 0x40800000, r := [(0, 0x3FC00000), (1, 0xC0000000), (2, 0x40800000), (3, 0)] }
def ruleReady (i : Nat) : State := updRegion (withJob ruleJob mapped) 3 fun k => { k with rule := some (ruleRun i) }

theorem witness_UpdateRuleOperations :
    ∀ op ∈ [0x01, 0x02, 0x03, 0x04, 0x05, 0x06, 0x07, 0x08, 0x09, 0x0A, 0x0B, 0x0C, 0x0D, 0x0E, 0x0F],
      RuleAt (ruleReady (instr op 4 0 1 2 0)) 3 op ruleJob (ruleRun (instr op 4 0 1 2 0)) := by
  simp only [RuleAt]; decide +kernel

/-- Register 4 after an operation. -/
def ruleGives (c : Instr) (i v : Nat) : Bool :=
  ok c (ruleReady i) fun t => (getRegion t 3).rule.map (fun r => (r.operand 4, r.pc)) == some (v, 1)

theorem test_ruleAdd : ruleGives (.ruleAdd 3) (instr 0x01 4 0 1 0 0) 0xBF000000 = true := by decide +kernel
theorem test_ruleSub : ruleGives (.ruleSub 3) (instr 0x02 4 0 1 0 0) 0x40600000 = true := by decide +kernel
/-- 1.5 × K0. -/
theorem test_ruleMul : ruleGives (.ruleMul 3) (instr 0x03 4 0 16 0 0) 0x40400000 = true := by decide +kernel
theorem test_ruleFma : ruleGives (.ruleFma 3) (instr 0x04 4 0 1 2 0) 0x3F800000 = true := by decide +kernel
theorem test_ruleMin : ruleGives (.ruleMin 3) (instr 0x05 4 0 1 0 0) 0xC0000000 = true := by decide +kernel
theorem test_ruleMax : ruleGives (.ruleMax 3) (instr 0x06 4 0 1 0 0) 0x3FC00000 = true := by decide +kernel
theorem test_ruleSqrt : ruleGives (.ruleSqrt 3) (instr 0x07 4 2 0 0 0) 0x40000000 = true := by decide +kernel
theorem test_ruleRcp : ruleGives (.ruleRcp 3) (instr 0x08 4 2 0 0 0) 0x3E800000 = true := by decide +kernel
theorem test_ruleRsqrt : ruleGives (.ruleRsqrt 3) (instr 0x09 4 2 0 0 0) 0x3F000000 = true := by decide +kernel
/-- −2 ÷ 4. -/
theorem test_ruleDiv : ruleGives (.ruleDiv 3) (instr 0x0A 4 1 2 0 0) 0xBF000000 = true := by decide +kernel
/-- 1.5 × (−2) + (1 − 1.5) × 4 = −5. -/
theorem test_ruleLerp : ruleGives (.ruleLerp 3) (instr 0x0B 4 0 1 2 0) 0xC0A00000 = true := by decide +kernel
/-- −2 held within ±1.5. -/
theorem test_ruleClamp : ruleGives (.ruleClamp 3) (instr 0x0C 4 1 0 0 0) 0xBFC00000 = true := by decide +kernel
/-- The norm 4 passes the limit 2: 1.5 × (2 ÷ 4). -/
theorem test_ruleClipb : ruleGives (.ruleClipb 3) (instr 0x0D 4 0 16 0 0) 0x3F400000 = true := by decide +kernel
theorem test_ruleSel : ruleGives (.ruleSel 3) (instr 0x0E 4 0 1 3 0) 0xC0000000 = true := by decide +kernel
theorem test_ruleCmplt : ruleGives (.ruleCmplt 3) (instr 0x0F 4 1 0 0 0) 0x3F800000 = true := by decide +kernel
/-- Operand 31 is the step count. -/
theorem test_ruleAdd_step : ruleGives (.ruleAdd 3) (instr 0x01 4 31 3 0 0) 0x40E00000 = true := by decide +kernel

/-- An UPDATE_STEP of one block of two FP32 elements: P = 1, 2 at 4096, G = 0.5, −0.5 at 8192; group 0 of the table at 0x10000
with LOG2_BLOCK 4 and the rule at 0x11000: r1 = r1 − r0, END. -/
def updReady : State :=
  let s := { withJob ruleJob mapped with tlbs := [⟨3, 0, 0, 2 ^ 30, 7⟩] }
  let s := setReg (setReg s (rid .numGrpBaseLo 0) 1) (rid .updGrpBaseLo 0) 0x10001
  let s := poke (poke s 4096 (header 0x80 0 2 ++ fp32Bytes [0x3F800000, 0x40000000])) 8192 (header 0x80 0 2 ++ fp32Bytes [0x3F000000, 0xBF000000])
  poke (poke s 0x10000 (leBytes 6 0x808080800000 ++ [4#8] ++ leBytes 9 0 ++ leBytes 8 0x11000)) 0x11000
    (leBytes 8 (instr 0x02 1 1 0 0 0) ++ leBytes 8 0x7F)

/-- The same unit at the END of the block's first element, and at that of its last one. -/
def endRule (e : Nat) : RuleRun := { ruleRun 0x7F with elem := e, results := List.replicate e (0x3F000000, 0, 0) }
def ruleEndReady (e : Nat) : State := updRegion updReady 3 fun k => { k with rule := some (endRule e) }

def updWell (j : Work) (s : State) : Bool :=
  match (ruleOps (whoOf j) j.desc).on s with
  | (.ok o, t) => (match (readUpdGrp (whoOf j) (field (j.desc.W 3) 0 16)).on t with
    | (.ok e, u) => e.kind == 0 && endsWell (ruleStart j 3 e (updStepCount j.t e.stepBase) o) u
    | _ => false)
  | _ => false

/-- The run at its block's end. -/
def endedRule (r : RuleRun) : RuleRun := { r with results := r.results ++ [(0x3F000000, 0, 0)] }

/-- Whether a block of the run commits and the descriptor ends, or the next block is read. -/
def ruleWell (r : RuleRun) (s : State) : Bool :=
  match (readUpdGrp (whoOf ruleJob) (field (ruleJob.desc.W 3) 0 16)).on s with
  | (.ok e, t) => (match (commitBlock ruleJob 3 e (endedRule r)).on t with
    | (.ok c, u) => endsWell (nextBlock ruleJob 3 (e.flagBit 0) e.log2 (r.blocks - (r.block + 1)) c) u
    | _ => false)
  | _ => false

/-- The same update of 18 elements, in two blocks. -/
def twoReady : State :=
  poke (poke updReady 4096 (header 0x80 0 18 ++ fp32Bytes (List.replicate 18 0x3F800000))) 8192 (header 0x80 0 18 ++ fp32Bytes (List.replicate 18 0x3F000000))
def twoRule : RuleRun :=
  { endRule 15 with blocks := 2, grad := List.replicate 16 0x3F000000, master := List.replicate 16 0x3F800000 }
def twoEnd : State := updRegion twoReady 3 fun k => { k with rule := some twoRule }

/-- A block with an infinite result. -/
def badRule : RuleRun := { endRule 2 with results := [(0x7F800000, 0, 0), (0, 0, 0)] }


/-- Whether the block of a run can commit to the parameter, kept or not. -/
def commitsWell (r : RuleRun) (kept : Bool) (s : State) : Bool :=
  match (readUpdGrp (whoOf ruleJob) (field (ruleJob.desc.W 3) 0 16)).on s with
  | (.ok e, t) => (r.bad && !e.flagBit 1) == kept && (match (updHdr (updWho ruleJob (e.flagBit 0)) 4096).on t with
    | (.ok hg, u) => decide (hg.1.fmt < 2) && !hg.1.wide &&
        (if kept then (match (vread (updWho ruleJob (e.flagBit 0)) 4160 8).on u with
          | (.ok old, v) => endsWell (vwrite (updWho ruleJob (e.flagBit 0)) 4160 old) v
          | _ => false)
        else endsWell (vwrite (updWho ruleJob (e.flagBit 0)) 4160 (fp32Bytes [0x3F000000, 0x3F000000])) u)
    | _ => false)
  | _ => false

theorem witness_UpdateStepsAndEnds :
    OpReady updReady .updateStep ruleJob ∧ ¬ ((getRegion updReady 3).rule.isSome = true ∨ (updWaiting updReady 3).head? ≠ some ruleJob) ∧
    (getRegion (ruleReady 0) 3).rule.isSome = true ∧ updWell ruleJob updReady = true ∧
    RuleAt (ruleEndReady 0) 3 0x7F ruleJob (endRule 0) ∧ (endRule 0).elem + 1 < (endRule 0).grad.length ∧
    RuleAt (ruleEndReady 1) 3 0x7F ruleJob (endRule 1) ∧ (endRule 1).grad.length ≤ (endRule 1).elem + 1 ∧
    (endRule 1).blocks ≤ (endRule 1).block + 1 ∧ ruleWell (endRule 1) (ruleEndReady 1) = true ∧ (ruleEndReady 1).upsets = [] ∧
    RuleAt { ruleEndReady 1 with upsets := [.update 3] } 3 0x7F ruleJob (endRule 1) ∧
    RuleAt twoEnd 3 0x7F ruleJob twoRule ∧ twoRule.grad.length ≤ twoRule.elem + 1 ∧ twoRule.block + 1 < twoRule.blocks ∧
    ruleWell twoRule twoEnd = true ∧ vaOf (ruleJob.desc.W 0) = 4096 ∧ vaOf (ruleJob.desc.W 1) = 0 ∧
    vaOf (ruleJob.desc.X 0) = 0 ∧ vaOf (ruleJob.desc.X 1) = 0 ∧
    commitsWell (endedRule (endRule 1)) false (ruleEndReady 1) = true ∧ commitsWell badRule true (ruleEndReady 1) = true := by
  simp only [OpReady, RuleAt]; decide +kernel

/-- The block starts: r0 = 0.5, r1 = 1, and the gradient's norm √0.5 (R389, R390). -/
theorem test_updateStep :
    ok (.updateStep 5 0) updReady (fun t => (getRegion t 3).rule.map (fun r => (r.operand 0, r.operand 1, r.nb, r.prog.length))
      == some (0x3F000000, 0x3F800000, 0x3F3504F3, 2)) = true := by decide +kernel

/-- The last element's END writes the parameters 0.5 and −2 and ends the descriptor; a block with an infinite result leaves the
parameters 1 and 2, and is counted (R394). -/
theorem test_ruleEnd :
    (ok (.ruleEnd 3) (ruleEndReady 1) (fun t =>
      peek t 4160 8 == fp32Bytes [0x3F000000, 0xC0000000] && (getRegion t 3).rule == none
        && t.work.map (fun w => (w.phase, w.status)) == [(.done, 0)] && getReg t (rid .rgnUpdCnt 3) == 1)
    && ok (.ruleEnd 3) (updRegion updReady 3 fun k => { k with rule := some { endRule 1 with results := [(0x7F800000, 0, 0)] } })
      (fun t => peek t 4160 8 == fp32Bytes [0x3F800000, 0x40000000] && leNat (peek t 0x10064 4) == 1)) = true := by
  decide +kernel

/-- The end of a block that is not the last commits it, and the next block of 2 elements starts (R392). -/
theorem test_ruleEnd_next :
    ok (.ruleEnd 3) twoEnd (fun t => peek t 4160 4 == fp32Bytes [0x3F000000] && getReg t (rid .rgnUpdCnt 3) == 1
      && (getRegion t 3).rule.map (fun r => (r.block, r.elem, r.grad.length)) == some (1, 0, 2)) = true := by decide +kernel

/-- A kind-1 group of order 1: the inverse root of 4 (R396), by its Cholesky factor. -/
def rootReady : State :=
  let s := poke updReady 8192 (header 0x80 0 1 ++ fp32Bytes [0x40800000])
  let s := poke (poke s 4096 (header 0x80 0 1)) 0x10000 ([1#8, 0#8] ++ leBytes 5 0 ++ [1#8] ++ leBytes 80 0 ++ leBytes 4 0x33800000)
  withJob { ruleJob with desc := desc 0x40 1 3 [4096, 8192, 0, 2 ^ 16] } s

theorem test_updateStep_root :
    ok (.updateStep 5 0) rootReady (fun t =>
      peek t 4160 4 == fp32Bytes [0x3F000000] && t.work.map (fun w => (w.phase, w.status)) == [(.done, 0)]) = true := by
  decide +kernel

/-! ## Checkpoints and watchers -/

/-- A SNAPSHOT of step 3 to another node, whose manifest at 4096 names no bytes, and a SNAPSHOT_RESTORE from there. -/
def snapImage : SnapImage := { mem := [], counters := [], step := 3, limit := 256, streak := 0 }
def snapJob (op step : Nat) : Work :=
  { job { desc op 0 0 [4096, 0x20000, step, 0] with node := 9 } .running with image := some snapImage }
def snapReady (w : Work) : State :=
  poke (withJob w mapped) 4096 ([0x56#8, 0x54#8, 0x4D#8, 0x46#8] ++ leBytes 2 1 ++ leBytes 2 1 ++ leBytes 56 0 ++ leBytes 16 0)

def snapWell (w : Work) (s : State) : Bool :=
  match (readManifest w).on s with | (.ok es, t) => endsWell (makeCkpt w snapImage es []) t | _ => false

def snap3 : Work := snapJob 0x48 3
def restore3 : Work := snapJob 0x49 3
def oneOpen (w : Work) : State :=
  { snapReady w with fabRecs := [⟨0, 0, ownPacket working 9 0x21 [], 1, false, 0, false, 5, 0, false, 0⟩] }

/-- The 16 virtual functions enabled. -/
def withVfs : State := { working with numVfs := 16 }

/-- A header whose digest is that of the bytes behind it. -/
theorem witness_CheckpointsAndWatchers_digest (body : List Byte) :
    padTo 64 (Config.sha512 body) = ((List.replicate 64 0#8 ++ padTo 64 (Config.sha512 body)).drop 64).take 64 := by
  rw [List.drop_left' List.length_replicate, padTo, List.take_take, Nat.min_self]

theorem witness_CheckpointsAndWatchers_registers :
    reaches withVfs 16 (rid .numZsStat 16) = true ∧ reaches withVfs 16 (rid .numZsCtl 16) = true ∧
    reaches working 0 (rid .numOasisBaseLo) = true ∧ reaches working 0 (rid .numOasisBaseHi) = true ∧
    reaches working 0 (rid .numOasisSize) = true := by decide +kernel

theorem witness_CheckpointsAndWatchers :
    OpReady (snapReady snap3) .snapshot snap3 ∧ OpReady (oneOpen snap3) .snapshot snap3 ∧ OpReady (snapReady (snapJob 0x48 4)) .snapshot (snapJob 0x48 4) ∧
    OpReady (snapReady restore3) .snapshotRestore restore3 ∧ OpReady (oneOpen restore3) .snapshotRestore restore3 ∧
    snap3.image = some snapImage ∧ recOpen (oneOpen snap3) 5 0 = true ∧ recOpen (snapReady snap3) 5 0 = false ∧ snap3.file = [] ∧
    field ((snapJob 0x48 4).desc.W 2) 0 32 ≠ snapImage.step ∧ field (snap3.desc.W 2) 0 32 = snapImage.step ∧
    flag (snap3.desc.W 2) 32 = false ∧ snapWell snap3 (snapReady snap3) = true ∧
    endsWell (snapshotRestore restore3) (snapReady restore3) = true ∧ hostLive working = true ∧
    oasisUsed working = 0 ∧ oasisTooHigh (writePair working (rid .numOasisSize) 4) = false ∧
    oasisTooHigh (writePair working (rid .numOasisSize) (w32 0xFFFFFFFF).toNat) = true ∧
    0 < oasisUsed { working with oasis := [⟨0, 0, 0, 0, 1, 0, true⟩] } := by
  simp only [OpReady]; decide +kernel

theorem test_snapshot_step :
    ok (.snapshot 5 0) (snapReady (snapJob 0x48 4)) (fun t => t.work.map (fun w => (w.phase, w.status, w.dcode)) == [(.done, stBad, 0xC8)])
      = true := by decide +kernel

/-- A SNAPSHOT_RESTORE from another node asks for the chain's first header. -/
theorem test_snapshotRestore :
    ok (.snapshotRestore 5 0) (snapReady restore3) (fun t => t.fabRecs.map (fun r => r.packet.dst) == [9]) = true := by
  decide +kernel

theorem test_zeroStreakClear :
    ok (.zeroStreakClear 16) (setReg (setReg withVfs (rid .numZsCtl 16) 0x00050100) (rid .numZsStat 16) 1) (fun t =>
      getReg t (rid .numZsCtl 16) == 0x100 && getReg t (rid .numZsStat 16) == 0) = true := by decide +kernel

/-- R171: a limit is raised to 16. -/
theorem test_zeroStreakLimitWrite :
    ok (.zeroStreakLimitWrite 16 15) withVfs (fun t => getFld t (rid .numZsCtl 16) 0 13 == 16) = true := by decide +kernel

theorem test_oasisConfigWrite :
    ok (.oasisConfigWrite .numOasisSize (w32 4)) working (fun t => getReg t (rid .numOasisSize) == 4) = true := by decide +kernel

/-- R180: the oasis is full of a copy, so the write is refused. -/
theorem test_oasisConfigWrite_held :
    ok (.oasisConfigWrite .numOasisSize (w32 4)) { working with oasis := [⟨0, 0, 0, 0, 1, 0, true⟩] } (fun t =>
      getReg t (rid .numOasisSize) == getReg working (rid .numOasisSize)) = true := by decide +kernel

/-! ## Caravans -/

/-- A node of identity 1 that knows nodes 2 (SPACE 16, port 7) and 3 (no address space). -/
def noded : State :=
  { setFld working (rid .fabNodeId) 0 16 1 with routes := [(2, 15 + 16 * 2 ^ 8), (3, 31 * 2 ^ 8)] }
def withPort (s : State) (f : Port → Port) : State := updPort s 7 f
def upNode : State :=
  setFld (withPort noded fun p => { p with state := .up, width := 16, credits := (List.range 5).map fun c => (c, 255) })
    (rid .portStat 7) 0 3 2

/-- A caravan of 32 payload bytes, 9 of its tokens, for expert 511 of node 1, sent by node 2. -/
def carP (txn : Nat) : Packet :=
  { dst := 1, src := 2, srcEpoch := 0, type := 0x40, hops := 3, retried := false, txn := txn, gen := 6, typeWord := 511
    payload := leBytes 2 9 ++ leBytes 30 7 }
def carBytes (n : Nat) : Caravan := { src := 2, txn := 1, gen := 1, len := n, bytes := List.replicate n 0#8 }
def carFar (n off : Nat) : Caravan := { src := 2, txn := 1, gen := 1, len := n, off := off }

/-- Slot 3 of block 127 enabled for VF 16, with one on-die unit and counter 5; its queues as given. -/
def slotted (onDie overflow : List Caravan) (ovf : Nat) : State :=
  let s := { upNode with transom := mapped.transom, tlbs := [⟨15, 16, 0, 2 ^ 30, 7⟩] }
  let s := setReg (setReg s (rid .hubMmuRootLo 16) 1) (rid .blkCarCfg 127 3) (1 + 16 * 2 + 2 ^ 6 + 5 * 2 ^ 16)
  updSlot (setFld s (rid .blkCarOvfLo 127 3) 0 16 ovf) 127 3 fun q => { q with onDie := onDie, overflow := overflow, keys := [(2, 8, 6)] }
def fullSlot (ovf : Nat) : State := slotted [carBytes 4096] [] ovf
def refillReady : State := slotted [carBytes 2048] [carFar 2048 0, carFar 1 2048] 1

/-- An EXPERT_SEND's fabric record, with its descriptor. -/
def sendRec (txn : Nat) : FabRec :=
  { txn := txn, gen := 6, packet := { carP txn with dst := 2, src := 1 }, sends := 1, waiting := false, failures := 0, heldBy := false
    ring := 5, index := 0, resent := false, sentAt := 0 }
def sentReady (r : FabRec) : State :=
  { withJob (job (desc 0x30 1 0 [4096, 0, 32, 0]) .running (.region 0)) mapped with
    ports := upNode.ports, routes := upNode.routes, fabRecs := [r], recs := [r.txn] }
def notice (type : Nat) (payload : List Byte) : Packet := { carP 0 with type := type, txn := 0, gen := 0, payload := payload }
def heldP : Packet := notice 0x13 (leBytes 2 511 ++ leBytes 2 0 ++ leBytes 4 (9 + 6 * 2 ^ 20) ++ leBytes 8 0)
def resumeP : Packet := notice 0x14 (leBytes 2 511 ++ leBytes 14 0)
def storedP : Packet := notice 0x15 (leBytes 4 (9 + 6 * 2 ^ 20) ++ leBytes 12 0)

theorem witness_Caravans :
    live upNode = true ∧ upNode.failStop = false ∧
    (let s := slotted [] [] 0; let q := getSlot s 127 3; let cfg := getReg s (rid .blkCarCfg 127 3);
      caravanKey (carP 8) ∈ q.keys ∧ caravanKey (carP 9) ∉ q.keys ∧ flag cfg 0 = true ∧
      field cfg 1 5 = caravanSpace (taken s (carP 9)) (carP 9) ∧ q.overflow = [] ∧
      queueBytes q.onDie + (carP 9).payload.length ≤ onDieBytes s 127 3) ∧
    flag (getReg upNode (rid .blkCarCfg 127 3)) 0 = false ∧
    ¬ (queueBytes (getSlot (fullSlot 1) 127 3).onDie + (carP 9).payload.length ≤ onDieBytes (fullSlot 1) 127 3) ∧
    queueBytes (getSlot (fullSlot 1) 127 3).overflow + (carP 9).payload.length ≤ overflowBytes (fullSlot 1) 127 3 ∧
    ¬ (queueBytes (getSlot (fullSlot 0) 127 3).overflow + (carP 9).payload.length ≤ overflowBytes (fullSlot 0) 127 3) ∧
    (match (putOverflow 127 3 0 (carP 9).payload).on (taken (fullSlot 1) (carP 9)) with | (.ok (), _) => true | _ => false) = true ∧
    (match (putOverflow 127 3 0 (carP 9).payload).on (taken { fullSlot 1 with tlbs := [] } (carP 9)) with
      | (.error _, _) => true
      | _ => false) = true ∧
    queueBytes (getSlot refillReady 127 3).onDie + 2048 ≤ onDieBytes refillReady 127 3 ∧
    onDieBytes refillReady 127 3 < 4096 + (carFar 1 2048).len ∧
    issueHold refillReady = false ∧ regionRuns refillReady (127 / 8) = true ∧ (getSlot refillReady 127 3).overflow ≠ [] ∧
    2 * queueBytes (getSlot refillReady 127 3).onDie ≤ onDieBytes refillReady 127 3 ∧
    onDieBytes (fullSlot 0) 127 3 < 2 * queueBytes (getSlot (fullSlot 0) 127 3).onDie ∧
    findRec (sentReady (sendRec 9)) (leAt storedP.payload 0 4 % 2 ^ 20) = some (sendRec 9) ∧
    (sendRec 9).gen = leAt storedP.payload 0 4 / 2 ^ 20 ∧ (findWork (sentReady (sendRec 9)) 5 0).isSome = true ∧
    live (sentReady (sendRec 9)) = true ∧ regExists (rid .blkCarCfg 127 3) = true ∧
    (let s := setReg (setReg mapped (rid .hubClken 4) 0xFFFFFFFF) (rid .hubClkst 4) 0xFFFFFFFF;
      hostLive s = true ∧ reaches s 0 (rid .blkCarCfg 127 3) = true ∧ carRefused s 127 3 1 = true ∧ carRefused s 127 3 65 = false) := by
  decide +kernel

/-- R433: the caravan is queued, its 9 tokens are counted, and it is confirmed. -/
theorem test_caravan :
    ok (.caravan (carP 9)) (slotted [] [] 0) (fun t =>
      (getSlot t 127 3).onDie == [⟨2, 9, 6, 32, (carP 9).payload, 0⟩] && getCtr t 5 == ⟨9, false⟩ && t.out.length == 1) = true := by
  decide +kernel

/-- R335: with both queues full the sender is held back. -/
theorem test_caravan_hold :
    ok (.caravan (carP 9)) (fullSlot 0) (fun t =>
      (getSlot t 127 3).hold && (getSlot t 127 3).heldSrcs == [2] && getCtr t 5 == {} ) = true := by decide +kernel

theorem test_caravanRefill :
    ok (.caravanRefill 127 3) refillReady (fun t =>
      (getSlot t 127 3).onDie == [carBytes 2048, carBytes 2048] && (getSlot t 127 3).overflow == [carFar 1 2048]) = true := by
  decide +kernel

theorem test_caravanHold :
    ok (.caravanHold heldP) (sentReady (sendRec 9)) (fun t => t.fabRecs.map (·.heldBy) == [true]) = true := by decide +kernel

theorem test_caravanResume :
    ok (.caravanResume resumeP) (sentReady { sendRec 9 with heldBy := true }) (fun t =>
      t.fabRecs.map (fun r => (r.heldBy, r.packet.retried)) == [(false, true)]) = true := by decide +kernel

theorem test_caravanStored :
    ok (.caravanStored storedP) (sentReady (sendRec 9)) (fun t =>
      t.fabRecs == [] && t.work.map (fun w => (w.phase, w.status)) == [(.done, 0)]) = true := by decide +kernel

/-- R340: an enabled slot without on-die bytes is refused. -/
theorem test_caravanConfigWrite :
    ok (.caravanConfigWrite 0 0 3 (w32 65)) mapped (fun t => getReg t (rid .blkCarCfg 0 3) == 65) = true ∧
    ok (.caravanConfigWrite 0 0 3 (w32 1)) mapped (fun t => getReg t (rid .blkCarCfg 0 3) == 0) = true := by decide +kernel

/-! ## The optical fabric -/

def widest : Packet :=
  { dst := 65535, src := 65535, srcEpoch := 65535, type := 255, hops := 31, retried := true, txn := 2 ^ 20 - 1, gen := 4095
    typeWord := 65535, payload := List.replicate 300 255#8 }

theorem witness_PacketsComeBackFromTheirBytes : PacketFits widest ∧ PacketFits (carP 0) := by
  simp only [PacketFits]; decide +kernel

/-- R421: a packet of n payload bytes takes ⌈(16 + n) ÷ 244⌉ flits. -/
theorem test_packetFlits :
    (packetFlits { carP 0 with payload := List.replicate 228 0#8 } none).length = 1 ∧
    (packetFlits { carP 0 with payload := List.replicate 229 0#8 } none).length = 2 := by decide +kernel

/-- Port 7 in a state, with the host's token for RETRAIN and DISABLE of it. -/
def portIn (st : PortState) : State := withPort noded fun p => { p with state := st }
def portToken (s : State) : State := setReg s (rid .fltMaintSlot 7) (slotWord 5 7 .host)
def dazzled : State := { withPort (portIn .down) fun p => { p with lastLight := some 5 } with time := 5 }

/-- 14 good lanes, 12 of them in use, and a partner of identity 9. -/
def trained : Training :=
  { feeds := [1300, 1150], locked := [0, 1, 2, 3, 4, 5, 6, 7, 8, 9, 10, 11, 12, 13, 17], lowFeeds := []
    ber := List.replicate 13 2400 ++ [2401], peerCapability := 16, peerMap := [], peerNode := 9, peerEpoch := 3
    peerPort := 5, credits := [1, 2, 3, 4, 5] }
def lanes : State := withPort (portIn .up) fun p => { p with rxMap := [4, 5, 6, 17], spares := [3, 2], width := 4 }

/-- A device whose host reaches port 7's registers, and port 7 training for 500 ms, and for longer. -/
def training (ms : Nat) : State := { portIn .training with time := ms * cyclesPerMs }

theorem witness_PortsAndLanes_times :
    hostLive (portToken (portIn .down)) = true ∧ reaches (portToken (portIn .down)) 0 (rid .portCtl 7) = true ∧
    500 * cyclesPerMs ≤ (training 500).time - (getPort (training 500) 7).trainAt ∧
    ¬ 500 < ((training 500).time - (getPort (training 500) 7).trainAt) / cyclesPerMs ∧
    500 < ((training 501).time - (getPort (training 501) 7).trainAt) / cyclesPerMs ∧
    (training 499).time - (getPort (training 499) 7).trainAt < 500 * cyclesPerMs ∧ trained.goodRx.length = 14 ∧
    trained.feeds[1]? = some 1150 ∧ ({ trained with locked := [17] } : Training).goodRx = [17] := by decide +kernel

theorem witness_PortsAndLanes :
    live (portIn .down) = true ∧ (getPort (portIn .down) 7).state = .down ∧
    (inPhase .stage2).start.phase = .stage2 ∧ live (inPhase .stage2) = true ∧ (getPort (inPhase .stage2) 7).everSettled = false ∧
    hostLive (portToken (portIn .down)) = true ∧ tokenHeld (portToken (portIn .down)) 5 7 = true ∧ tokenHeld (portIn .down) 5 7 = false ∧
    (getPort (portIn .down) 7).overTemp = false ∧ (getEntry (portIn .down) 14 7).retired = false ∧
    (getPort (portIn .down) 7).lastLight = none ∧ (getPort dazzled 7).lastLight = some 5 ∧
    ¬ (5 + 1000 * cyclesPerMs ≤ dazzled.time) ∧ (getPort (portIn .up) 7).state = .up ∧
    (getPort (portIn .training) 7).state = .training ∧ (getPort (portIn .disabled) 7).state = .disabled ∧
    min (capability (laneOrder trained.goodRx).length) (capability trained.peerCapability) = 12 ∧
    min (capability (laneOrder [17, 8, 0]).length) (capability 18) = 0 ∧
    ¬ (trained.peerNode = nodeId (portIn .training)) ∧ ({ trained with peerNode := 1 } : Training).peerNode = nodeId (portIn .training) ∧
    nodeId (portIn .training) ≠ 0xFFFF ∧ (portIn .training).fabRecs = [] ∧ trained.peerNode < 2 ^ 16 ∧ trained.peerEpoch < 2 ^ 16 ∧
    trained.peerPort < 8 ∧ 3 ∈ (getPort lanes 7).spares ∧ 6 ∉ (getPort lanes 7).spares ∧ 6 ∈ (getPort lanes 7).rxMap ∧
    (getPort lanes 7).spares = 3 :: [2] ∧ 0 ∉ (getPort lanes 7).spares ∧ 0 ∉ (getPort lanes 7).rxMap ∧
    (let s := withPort lanes fun p => { p with spares := [] }; (getPort s 7).spares = [] ∧ 17 ∈ (getPort s 7).rxMap ∧
      17 ∉ (getPort s 7).degraded) := by decide +kernel

/-- What a command makes of port 7's state and of bits 2 to 0 of its PORT_STAT. -/
def portGives (c : Instr) (s : State) (st : PortState) (code : Nat) : Bool :=
  ok c s fun t => (getPort t 7).state == st && getFld t (rid .portStat 7) 0 3 == code

theorem test_portTraining : portGives (.portTraining 7 .stage2) (inPhase .stage2) .training 1 = true := by decide +kernel
theorem test_retrain : portGives (.retrain 7) (portToken (portIn .down)) .training 1 = true := by decide +kernel
theorem test_retrain_refused :
    ok (.retrain 7) (portIn .down) (fun t => getBit t (rid .portCtl 7) 2 && (getPort t 7).state == .down) = true := by decide +kernel
theorem test_signalDetect : portGives (.signalDetect 7 4) (portIn .down) .training 1 = true := by decide +kernel
theorem test_signalDetect_again : portGives (.signalDetect 7 4) dazzled .down 0 = true := by decide +kernel
theorem test_linkLoss :
    ok (.linkLoss 7 true) (portIn .up) (fun t =>
      (getPort t 7).state == .training && (getPort t 7).wasUp && getFld t (rid .portLinkCnt 7) 16 8 == 1) = true := by decide +kernel
theorem test_portTrainingTimeout :
    ok (.portTrainingTimeout 7 3 2) (training 500) (fun t =>
      (getPort t 7).state == .down && getFld t (rid .portStat 7) 12 4 == 3 && alarmLatched t 6) = true := by decide +kernel

/-- R407, R408: width 12, with lanes 8 and 17 last and so spare. -/
theorem test_portUp :
    ok (.portUp 7 trained) (portIn .training) (fun t =>
      (getPort t 7).state == .up && (getPort t 7).rxMap == [0, 1, 2, 3, 4, 5, 6, 7, 9, 10, 11, 12] && (getPort t 7).spares == [8, 17]
        && getFld t (rid .portPeer 7) 0 16 == 9 && (getEntry t 14 7).word == 12) = true := by decide +kernel

theorem test_disable :
    portGives (.disable 7 true) (portToken (portIn .up)) .disabled 3 = true ∧
    portGives (.disable 7 false) (portToken (portIn .disabled)) .down 0 = true := by decide +kernel

/-- R411: the first spare takes a failed lane over. -/
theorem test_laneFail :
    ok (.laneFail 7 6) lanes (fun t => (getPort t 7).rxMap == [4, 5, 3, 17] && (getPort t 7).spares == [2]) = true := by
  decide +kernel

theorem test_laserFeedLow :
    ok (.laserFeedLow 7 1 1199) noded (fun t => getFld t (rid .portFeedStat 7) 16 12 == 1199) = true := by decide +kernel

/-! ### The link layer -/

/-- A packet flit of class 1 that begins and ends a packet, expected next; one with a wrong CRC; one out of sequence. -/
def goodFlit : List Byte := flitBytes 1 (1 + 8 + 16) 4095 0 0 (packetBytes (carP 0))
def badFlit : List Byte := goodFlit.take 255 ++ [(goodFlit.getD 255 0) ^^^ 1#8]
def linked (f : Port → Port) : State := withPort upNode fun p => f { p with expected := 4095 }
def sentFlit (n : Nat) : SentFlit := { seq := 17, cls := 2, first := true, last := true, payload := [1#8], sends := n }

theorem witness_LinkLayer_times :
    (getPort { linked (fun p => { p with replay := [sentFlit 8] }) with time := 1600 } 7).ackAt + 1600 ≤ 1600 ∧
    (linked id).time < (getPort (linked id) 7).ackAt + 1600 ∧ (getPort (linked id) 7).quietAt + 800 ≤ 800 ∧
    (linked id).time < (getPort (linked id) 7).quietAt + 800 := by decide +kernel

theorem witness_LinkLayer :
    live (linked id) = true ∧ (getPort (linked id) 7).state = .up ∧ (getPort noded 7).state ≠ .up ∧
    goodFlit.length = 256 ∧ leAt goodFlit 252 4 = crc32 (goodFlit.take 252) ∧ badFlit.length = 256 ∧
    leAt badFlit 252 4 ≠ crc32 (badFlit.take 252) ∧ flag (leAt goodFlit 4 2) 15 = false ∧ flag (leAt goodFlit 6 2) 15 = false ∧
    leAt goodFlit 0 1 = 1 ∧ (getPort (linked id) 7).nakOut = false ∧
    (getPort (linked fun p => { p with nakOut := true }) 7).nakOut = true ∧ flag 24 4 = true ∧ flag 24 3 = true ∧
    retryLimit (linked fun p => { p with replay := [sentFlit 8] }) 7 = false ∧
    retryLimit (linked fun p => { p with replay := [sentFlit 9] }) 7 = true ∧ (getPort (linked id) 7).replay = [] ∧
    0 < (getPort (linked fun p => { p with sinceAck := 1 }) 7).sinceAck ∧ (getPort (linked id) 7).sinceAck = 0 ∧
    (getPort (linked id) 7).freed = [] := by decide +kernel

/-- R416 on the nine characters "123456789": the published check value of that CRC. -/
theorem test_crc32 : crc32 ([49, 50, 51, 52, 53, 54, 55, 56, 57].map (BitVec.ofNat 8)) = 0xE3069283 := by decide +kernel

theorem test_flitReceive :
    ok (.flitReceive 7 goodFlit) (linked id) (fun t =>
      t.arrived.map (·.1) == [7] && (getPort t 7).expected == 0) = true := by decide +kernel

theorem test_flitReceive_bad :
    ok (.flitReceive 7 badFlit) (linked id) (fun t =>
      t.arrived == [] && (getPort t 7).expected == 4095 && (getPort t 7).nakOut) = true := by decide +kernel

theorem test_nak :
    ok (.nak 7 17) (linked fun p => { p with replay := [sentFlit 8] }) (fun t =>
      getFld t (rid .portLinkCnt 7) 0 16 == 1 && (getPort t 7).replay.map (·.sends) == [9] && (getPort t 7).state == .up) = true := by
  decide +kernel

theorem test_resendTimeout :
    ok (.resendTimeout 7) { linked (fun p => { p with replay := [sentFlit 9] }) with time := 1600 } (fun t => (getPort t 7).state == .training) = true := by
  decide +kernel

theorem test_nakRepeatTimer :
    ok (.nakRepeatTimer 7) { linked (fun p => { p with nakOut := true }) with time := 800 } (fun t => t.out.length == 1) = true := by decide +kernel

theorem test_ackTimer :
    ok (.ackTimer 7) (linked fun p => { p with sinceAck := 1 }) (fun t => t.out.length == 1 && (getPort t 7).sinceAck == 0) = true ∧
    ok (.ackTimer 7) (linked id) (fun t => t.out == []) = true := by decide +kernel

/-! ### Routing -/

/-- Packets to node 2 and to this node, of a type, with hops left. -/
def passing (type hops : Nat) : Packet := { carP 0 with dst := 2, src := 9, type := type, hops := hops }
def arrivedAt (s : State) (p : Packet) : State := { s with arrived := [(7, p)] }
def stalePeer : State := setFld (setFld upNode (rid .portPeer 7) 0 16 9) (rid .portPeerEpoch 7) 0 16 1
def adopter : State := setFld (setBit noded (rid .fabAdopt) 16 true) (rid .fabAdopt) 0 16 2
def routing : State := setReg { noded with routes := [(5, 3), (65535, 8)] } (rid .fabRtAddr) (65535 + 2 ^ 16)
def twoPeers : State :=
  let s := updPort upNode 6 fun p => { p with state := .up }
  setFld (setFld s (rid .portPeer 6) 0 16 9) (rid .portPeerEpoch 6) 0 16 4

theorem witness_RoutingAndIdentity :
    live upNode = true ∧ packetClass 0xFF = none ∧ packetClass 0x30 = some 3 ∧ packetClass 0x10 = some 1 ∧
    staleEpoch stalePeer 7 (passing 0x30 3) = true ∧ staleEpoch upNode 7 (passing 0x30 3) = false ∧ live stalePeer = true ∧
    nodeId working = 0xFFFF ∧ nodeId upNode ≠ 0xFFFF ∧
    (getBit adopter (rid .fabAdopt) 16 = true ∧ (passing 0x30 3).dst = getFld adopter (rid .fabAdopt) 0 16 ∧
      (passing 0x30 3).dst ≠ nodeId adopter) ∧ getBit upNode (rid .fabAdopt) 16 = false ∧
    (carP 0).dst = nodeId upNode ∧ (passing 0x30 0).hops = 0 ∧ (passing 0x30 1).hops ≠ 0 ∧ routePort noded 2 = none ∧
    routePort upNode 2 = some 7 ∧ hostLive routing = true ∧ routing.buckets = [] ∧ hostLive working = true ∧
    reaches routing 0 (rid .fabRtData) = true ∧ reaches working 0 (rid .fabNodeId) = true ∧ reaches working 0 (rid .fabAdopt) = true ∧
    (getPort twoPeers 7).state = .up ∧ 6 ∈ upPorts twoPeers ∧ getFld twoPeers (rid .portPeer 6) 0 16 = 9 ∧
    4 ≤ getFld twoPeers (rid .portPeerEpoch 6) 0 16 ∧ upPorts upNode = [7] := by decide +kernel

/-- R427, R428: a packet that passes through leaves with one hop less. -/
theorem test_packetRoute :
    ok (.packetRoute (passing 0x30 3) (some 7)) (arrivedAt upNode (passing 0x30 3)) (fun t =>
      t.arrived == [] && t.inbox == [] && t.out.length == 1 && (getPort t 7).replay.map (fun f => leAt f.payload 7 1) == [2])
      = true := by decide +kernel
theorem test_packetRoute_last :
    ok (.packetRoute (passing 0x30 0) (some 7)) (arrivedAt upNode (passing 0x30 0)) (fun t =>
      t.arrived == [] && (getPort t 7).replay == []) = true := by decide +kernel
theorem test_packetRoute_here :
    ok (.packetRoute (carP 9) (some 7)) (arrivedAt upNode (carP 9)) (fun t => t.inbox == [(7, carP 9)]) = true := by
  decide +kernel

theorem test_routeTableWrite :
    ok (.routeTableWrite (w32 0xFFFFFFFF)) routing (fun t =>
      t.routes == [(5, 3), (65535, 8191)] && getFld t (rid .fabRtAddr) 0 16 == 0) = true := by decide +kernel

/-- R436: the identity is written once. -/
theorem test_nodeIdWrite :
    ok (.nodeIdWrite (w32 7)) working (fun t => nodeId t == 7) = true ∧
    ok (.nodeIdWrite (w32 7)) noded (fun t => nodeId t == 1) = true := by decide +kernel

theorem test_adoptWrite :
    ok (.adoptWrite (w32 0x10002)) noded (fun t => getBit t (rid .fabAdopt) 16 && getFld t (rid .fabAdopt) 0 16 == 2) = true := by
  decide +kernel

theorem test_adoptionNotice :
    ok (.adoptionNotice 7 9 5) twoPeers (fun t => getFld t (rid .portPeer 7) 0 16 == 9) = true ∧
    ok (.adoptionNotice 7 9 4) twoPeers (fun t => getFld t (rid .portPeer 7) 0 16 == getFld twoPeers (rid .portPeer 7) 0 16)
      = true := by decide +kernel

/-! ### Transactions -/

/-- A MEM_COPY of 4 bytes sent to node 2 under record 9, and its answer, with detail 3. -/
def remoteJob : Work := { job { desc 0x30 1 0 [0, 512, 4, 0] with node := 2 } .running .hub with ring := 5 }
def remoteRec : FabRec := { sendRec 9 with packet := { carP 9 with dst := 2, src := 1, type := 0x20 } }
def remoteSent (r : FabRec) : State :=
  { withJob remoteJob (setFld mapped (rid .fabNodeId) 0 16 1) with
    ports := upNode.ports, routes := upNode.routes, fabRecs := [r], recs := [9] }
def answerP : Packet := { carP 9 with type := 0x21, payload := leBytes 4 0 ++ leBytes 4 3 ++ leBytes 8 0 }

/-- Descriptors that node 2 sends: of an opcode, to addresses; and its requests and data. -/
def sentBytes (op w0 w1 w2 : Nat) : List Byte :=
  leBytes 4 op ++ leBytes 2 1 ++ [1#8] ++ leBytes 25 0 ++ leBytes 8 w0 ++ leBytes 8 w1 ++ leBytes 8 w2 ++ leBytes 8 0
def sentDesc (op w0 w1 w2 : Nat) (src : Nat := 2) : Packet :=
  { carP 5 with type := 0x20, src := src, payload := sentBytes op w0 w1 w2 }
def readP : Packet := { carP 0 with type := 0x22, payload := leBytes 4 (9 + 6 * 2 ^ 20) ++ leBytes 8 0 ++ leBytes 4 3 }
def dataP (off : Nat) : Packet := { carP 5 with type := 0x23, payload := leBytes 4 0 ++ leBytes 8 off ++ leBytes 4 0 ++ [1#8, 2#8, 3#8, 4#8] }
def copyHere : RemoteCopy :=
  { src := 2, txn := 5, gen := 6, space := 0, raw := (sentDesc 0x30 0 512 4).payload, asked := 0, retried := false }
def receiver : State := { remoteSent remoteRec with routes := [(2, 15), (3, 31 * 2 ^ 8)], remotes := [copyHere] }
def lastAnswer : Answer := { status := 0x31, mask := 0, dcode := 7, detail := 3, retried := false }

def later (ms : Nat) : State := { remoteSent remoteRec with time := ms * cyclesPerMs }
def kicks : Bool :=
  endsWell (kick (remoteWho (spaceOf receiver 2)) true 5 0)
    (updRing (taken receiver (sentDesc 0x03 5 0 0)) 5 fun r => { r with ctx := { r.ctx with peer := true, devmem := true } })

def piecesWell : Bool :=
  match (readOwnPiece remoteJob 0 3).on (taken (remoteSent remoteRec) readP) with | (.ok bs, _) => bs.length == 3 | _ => false

theorem witness_FabricTransactions :
    live (remoteSent remoteRec) = true ∧ findRec (remoteSent remoteRec) 9 = some remoteRec ∧ (remoteSent remoteRec).failStop = false ∧
    answerP.txn = 9 ∧ remoteRec.gen = answerP.gen ∧ remoteRec.gen ≠ ({ answerP with gen := 7 } : Packet).gen ∧
    remoteRec.waiting = false ∧ remoteRec.failures = 0 ∧ remoteRec.heldBy = false ∧ remoteRec.sends < 4 ∧ (answerOf answerP).status ∈ statusCodes ∧
    (answerOf { answerP with payload := leBytes 4 0x55 ++ leBytes 12 0 }).status ∉ statusCodes ∧
    remoteRec.sentAt + 100 * cyclesPerMs ≤ (later 100).time ∧ (remoteSent remoteRec).time < remoteRec.sentAt + cyclesPerMs ∧
    remoteRec.sentAt + cyclesPerMs ≤ (later 1).time ∧ kicks = true ∧
    live receiver = true ∧ receiver.failStop = false ∧ 16 < spaceOf receiver (sentDesc 0 0 0 0 3).src ∧
    spaceOf receiver 2 ≤ 16 ∧ opOf (remoteDesc (sentDesc 0x20 0 0 0)).opcode = some .dmuProduct ∧
    opOf (remoteDesc (sentDesc 0x30 0 512 0)).opcode = some .memCopy ∧
    copyRefusal (remoteDesc (sentDesc 0x30 0 512 0)) false = some 0x80 ∧
    opOf (remoteDesc (sentDesc 0x31 0 256 1)).opcode = some .memAtomic ∧
    [(2, 5, 6, lastAnswer)].find? (fun a => a.1 == 2 && a.2.1 == 5 && a.2.2.1 == 6) = some (2, 5, 6, lastAnswer) ∧
    readP.payload.length < 18 ∧ findRec (remoteSent remoteRec) (leAt readP.payload 0 4 % 2 ^ 20) = some remoteRec ∧
    remoteRec.gen = leAt readP.payload 0 4 / 2 ^ 20 ∧ remoteRec.packet.dst = readP.src ∧
    findWork (remoteSent remoteRec) 5 0 = some remoteJob ∧ piecesWell = true ∧ findRec working 9 = none ∧
    flag (leAt (dataP 0).payload 14 1) 1 = false ∧ flag (leAt (dataP 0).payload 14 1) 2 = false ∧
    receiver.remotes.find? (fun c => c.isFor 2 5 && c.gen == 6) = some copyHere ∧ leAt (dataP 1).payload 4 8 ≠ copyHere.asked ∧
    leAt (dataP 0).payload 4 8 = copyHere.asked ∧ leAt (dataP 0).payload 12 1 = 0 ∧
    endsWell (writeCopyPiece copyHere 0 ((dataP 0).payload.drop 16)) (taken receiver (dataP 0)) = true ∧
    (copyOps (descOf copyHere.raw none)).len ≤ copyHere.asked + ((dataP 0).payload.drop 16).length ∧ lastAnswer.status < 256 := by
  decide +kernel

theorem test_remoteCompletion :
    ok (.remoteCompletion answerP) (remoteSent remoteRec) (fun t =>
      t.fabRecs == [] && t.work.map (fun w => (w.phase, w.status, w.detail)) == [(.done, 0, 3)]) = true := by decide +kernel

/-- R477: an answer of another generation changes nothing. -/
theorem test_remoteCompletion_old :
    ok (.remoteCompletion { answerP with gen := 7 }) (remoteSent remoteRec) (fun t => t.fabRecs == [remoteRec]) = true := by
  decide +kernel

theorem test_unreachableNotice :
    ok (.unreachableNotice 9) (remoteSent remoteRec) (fun t => t.fabRecs.map (fun r => (r.waiting, r.failures)) == [(true, 1)])
      = true := by decide +kernel

/-- R478: the second failure loses the peer. -/
theorem test_unreachableNotice_twice :
    ok (.unreachableNotice 9) (remoteSent { remoteRec with failures := 1 }) (fun t => t.fabRecs == []
      && t.work.map (·.phase) == [.done]) = true := by decide +kernel

theorem test_unreachableResendDelay :
    ok (.unreachableResendDelay 9) { remoteSent { remoteRec with waiting := true } with time := cyclesPerMs } (fun t =>
      t.fabRecs.map (fun r => (r.waiting, r.sends, r.packet.retried)) == [(false, 2, true)]) = true := by decide +kernel

/-- R478: four sends at most. -/
theorem test_fabricRecordTimeout :
    ok (.fabricRecordTimeout 9) { remoteSent { remoteRec with sends := 3 } with time := 100 * cyclesPerMs } (fun t => t.fabRecs.map (·.sends) == [4]) = true ∧
    ok (.fabricRecordTimeout 9) { remoteSent { remoteRec with sends := 4 } with time := 100 * cyclesPerMs } (fun t => t.fabRecs == []) = true := by decide +kernel

/-- R105: an opcode that is not forwarded is answered with 0x09. -/
theorem test_remoteDescriptor :
    ok (.remoteDescriptor (sentDesc 0x20 0 0 0)) receiver (fun t => t.out.length == 1 && t.remotes == [copyHere]) = true := by
  decide +kernel

theorem test_memoryReadRequest :
    ok (.memoryReadRequest readP) (remoteSent remoteRec) (fun t => t.out.length == 1) = true := by decide +kernel

theorem test_memoryData :
    ok (.memoryData (dataP 0)) receiver (fun t => peek t 512 4 == [1#8, 2#8, 3#8, 4#8] && t.remotes == []) = true := by
  decide +kernel

/-! ## Gradient collectives -/

/-- A COLLECTIVE_STEP of group 0, bucket 7 on ring 0: an all-reduce of two FP32 elements at 4096 into 8192, by W3 bytes. -/
def colJob (len : Nat) (kind : Nat := 0) : Work := job (desc 0x38 0 0 [4096, 8192, 7 * 2 ^ 16 + kind * 2 ^ 53, len]) .running
/-- The group's entry: one member, and T agreed as 1.0. -/
def colEntry : List Byte :=
  leBytes 4 1 ++ [1#8, 3#8] ++ leBytes 18 0 ++ leBytes 4 0x3F800000 ++ leBytes 36 0 ++ leBytes 8 (0xFF * 2 ^ 48) ++ leBytes 184 0
def colReady (w : Work) : State :=
  let s := setReg (withJob w mapped) (rid .colGrpBaseLo 0) 0x10001
  poke (poke s 4096 (fp32Bytes [0x3FC00000, 0xC0000000])) 0x10000 colEntry

/-- Bucket 7 open on the lone member, and on a member of two: position 1, next and previous node 2, out of port 7. -/
def bucketOf (n : Nat) : Bucket :=
  { fn := 0, group := 0, bucket := 7, ring := 5, index := 0, cring := 0, kind := 0, mx := false, ordered := false, elements := 2
    n := n, pos := n - 1, next := 2, prev := 2, nextPort := 7, prevPort := 7, wdog := 1000, stepNo := 0, tscale := 0x3F800000
    own := [0x3FC00000, 0xC0000000], deadline := 50 }
def opened (b : Bucket) : State :=
  { setFld (withJob (colJob 8) mapped) (rid .fabNodeId) 0 16 1 with
    ports := upNode.ports, routes := [(2, 15), (3, 31 * 2 ^ 8)], buckets := [b] }

/-- A chunk packet of phase `phase` for bucket `bucket`, from node `src`, in a function's own layout. -/
def chunkP (phase bucket : Nat) (src : Nat := 2) : Packet :=
  { ownPacket (opened (bucketOf 2)) 1 0x30 (chunkHeader { bucketOf 2 with bucket := bucket, pos := 0 } false phase 1 0 0 0x3F800000 2 0)
    with src := src }

def widestBucket : Bucket :=
  let b := { bucketOf 65535 with group := 65535, cring := 7, kind := 3, bucket := 2 ^ 32 - 1 }
  { b with stepNo := 2 ^ 32 - 1, elements := 2 ^ 64 - 1 }

theorem witness_ChunksComeBackFromTheirBytes :
    HeaderFits widestBucket 7 65535 65535 (2 ^ 32 - 1) (2 ^ 32 - 1) (2 ^ 32 - 1) (2 ^ 192 - 1) := by
  simp only [HeaderFits]; decide +kernel

/-- What a COLLECTIVE_STEP finds before its bucket is opened. -/
def colReads (w : Work) (s : State) (p : ColEntry → State → Bool) : Bool :=
  match (readCol { whoOf w with coll := true } 0 0).on (updWork s 5 0 fun v => { v with detail := 7 }) with
  | (.ok e, t) => (match (colFields w.desc).on t with | (.ok (), u) => p e u | _ => false)
  | _ => false

theorem witness_Collectives :
    OpReady (colReady (colJob 8)) .collectiveStep (colJob 8) ∧ (colReady (colJob 8)).buckets = [] ∧
    colReads (colJob 8) (updRegion (colReady (colJob 8)) 8 fun g => { g with retired := true }) (fun _ u => (getRegion u 8).retired)
      = true ∧
    colReads (colJob 8) { colReady (colJob 8) with buckets := [{ bucketOf 1 with ring := 4 }] } (fun _ u =>
      (findBucket u 0 0 7).isSome && (closedMark u 0 0 7).isNone) = true ∧
    colReads (colJob 8) (setReg (colReady (colJob 8)) (rid .fltMaintSlot 0) (slotWord 5 7 .host)) (fun _ u => tokenHeld u 5 7) = true ∧
    colReads (colJob 8) (updRegion (colReady (colJob 8)) 0 fun g => { g with resetSince := some 0 }) (fun _ u =>
      !regionRuns u 0 && (findBucket u 0 0 7).isNone && !bucketStale u 0 0 7) = true ∧
    endsWell (openBucket (colJob 8)) (colReady (colJob 8)) = true ∧ OpReady (opened (bucketOf 1)) .collectiveStep (colJob 8) ∧
    (opened (bucketOf 1)).buckets.find? (fun b => b.ring == 5 && b.index == 0) = some (bucketOf 1) ∧
    live (opened (bucketOf 2)) = true ∧ (opened (bucketOf 2)).failStop = false ∧ chunkFn (opened (bucketOf 2)) 3 = none ∧
    chunkFn (opened (bucketOf 2)) 2 = some 0 ∧ (chunkOf (chunkP 0 7)).phase ≠ 4 ∧ (chunkOf (chunkP 4 7)).phase = 4 ∧
    findBucket (opened (bucketOf 2)) 0 0 7 = some (bucketOf 2) ∧ findBucket (opened (bucketOf 2)) 0 0 8 = none ∧
    closedMark (opened (bucketOf 2)) 0 0 7 = none ∧ bucketStale (opened (bucketOf 2)) 0 0 7 = false ∧
    (let s := { opened (bucketOf 2) with colGroups := [⟨0, 0, some 5000, []⟩] };
      bucketStale s 0 0 904 = true ∧ bucketStale s 0 0 905 = false) ∧
    stagePlace (opened (bucketOf 2)) 0 (chunkP 0 8).payload.length = none ∧
    stagePlace (setFld (opened (bucketOf 2)) (rid .colStageLo 0) 0 16 1) 0 (chunkP 0 8).payload.length = some 0 ∧
    colReads (colJob 8) (colReady (colJob 8)) (fun e u => (closedMark u 0 0 7).isNone && (findBucket u 0 0 7).isNone
      && !bucketStale u 0 0 7 && regionRuns u 0 && regionRuns u 8 && !colTokenHeld u (e.ring 0)
      && (match (bucketReads (colJob 8)).on u with
        | (.ok _, x) => (takeRec x 0).1 == some 0
        | _ => false)) = true ∧
    ({ bucketOf 2 with gotWithdraw := true }).gotWithdraw = true ∧ (bucketOf 2).gotWithdraw = false ∧
    closedMark (markClosed (opened (bucketOf 2)) 0 0 8 3 true) 0 0 8 = some (3, true) ∧
    closedMark (markClosed (opened (bucketOf 2)) 0 0 8 0 false) 0 0 8 = some (0, false) ∧
    (opened (bucketOf 2)).time < (bucketOf 2).deadline ∧ (bucketOf 2).met = false ∧
    (bucketOf 2).deadline ≤ ({ opened (bucketOf 2) with time := 50 } : State).time := by
  simp only [OpReady]; decide +kernel

theorem witness_CollectiveRegisters :
    hostLive (opened (bucketOf 2)) = true ∧ reaches (opened (bucketOf 2)) 0 (rid .colStageHi 0) = true ∧
    reaches { opened (bucketOf 2) with numVfs := 16 } 1 (rid .colStageHi 1) = true ∧ bucketOf 2 ∈ (opened (bucketOf 2)).buckets ∧ (bucketOf 2).fn = 0 ∧
    (∀ b, b ∈ (opened (bucketOf 2)).buckets → b.fn ≠ 1) := by decide +kernel

/-- R38, R445: a lone member's result is its contribution. -/
theorem test_collectiveStep :
    ok (.collectiveStep 5 0) (colReady (colJob 8)) (fun t =>
      peek t 8192 8 == fp32Bytes [0x3FC00000, 0xC0000000] && t.work.map (fun w => (w.phase, w.status)) == [(.done, 0)]) = true := by decide +kernel

/-- R444: a length that is no number of elements is refused with 0xB1. -/
theorem test_collectiveStep_length :
    ok (.collectiveStep 5 0) (colReady (colJob 7)) (fun t =>
      t.work.map (fun w => (w.status, w.dcode, w.detail)) == [(stBad, 0xB1, 7)]) = true := by decide +kernel

/-- R463: a packet for a bucket that is not open yet is kept. -/
theorem test_collectiveChunk :
    ok (.collectiveChunk (chunkP 0 8)) (setFld (opened (bucketOf 2)) (rid .colStageLo 0) 0 16 1) (fun t =>
      (getFn t 0).staged == [(0, chunkP 0 8)]) = true := by decide +kernel

/-- R471: a withdraw for an open bucket ends its descriptor with PEER_UNAVAILABLE and 0xB8. -/
theorem test_withdraw :
    ok (.withdraw (chunkP 4 7)) (opened (bucketOf 2)) (fun t =>
      t.buckets == [] && t.work.map (fun w => (w.status, w.dcode)) == [(stPeer, 0xB8)]) = true := by decide +kernel

/-- R469: the deadline itself withdraws. -/
theorem test_bucketWatchdog :
    ok (.bucketWatchdog 0 0 7) { opened (bucketOf 2) with time := 50 } (fun t =>
      t.buckets == [] && t.work.map (fun w => (w.status, w.dcode)) == [(stTimeout, 0xB9)]) = true ∧
    ok (.bucketWatchdog 0 0 7) { opened (bucketOf 2) with time := 49 } (fun t => t.buckets.length == 1) = true := by
  decide +kernel

/-- R468: a notice of 3 ms. -/
theorem test_slowPeerNotice :
    ok (.slowPeerNotice { notice 0x10 (leBytes 2 0 ++ leBytes 2 3 ++ leBytes 12 0) with src := 2 }) (opened (bucketOf 2)) (fun t =>
      t.buckets.map (·.deadline) == [3 * 400000]) = true := by decide +kernel

theorem test_collectiveConfigWrite :
    ok (.collectiveConfigWrite 0 .colStageHi (w32 1)) (opened (bucketOf 2)) (fun t => getReg t (rid .colStageHi 0) == 0) = true ∧
    ok (.collectiveConfigWrite 1 .colStageHi (w32 1)) { opened (bucketOf 2) with numVfs := 16 } (fun t => getReg t (rid .colStageHi 1) == 1) = true := by
  decide +kernel

/-! ## Faults, replay and containment -/

/-- Alarms 0, 31, 32 and 47 latched, all classes masked; the PF's vector 0 open. -/
def alarmed : State :=
  let s := [0, 31, 32, 47].foldl raiseAlarm working
  { setReg (setReg s (rid .hubAlarmMask 0) 0xFFFFFFFF) (rid .hubAlarmMask 1) 0xFFFF with msixOpen := [(0, 0)], msixPending := [(2, 3)] }

theorem witness_AlarmsAndVectors :
    hostLive alarmed = true ∧ alarmLatched alarmed 31 = true ∧ getBit alarmed (rid .hubAlarmMask 0) 31 = true ∧
    alarmLatched alarmed 47 = true ∧ getBit alarmed (rid .hubAlarmMask 1) 15 = true ∧ flag (w32 0x7FFFFFFF).toNat 31 = false ∧
    (0, 0) ∈ alarmed.msixOpen ∧ (2, 3) ∈ alarmed.msixPending ∧ (2, 2) ∉ alarmed.msixPending := by decide +kernel

theorem test_alarmClear :
    ok (.alarmClear 0 (w32 0x80000000)) alarmed (fun t =>
      !alarmLatched t 31 && alarmLatched t 0 && alarmLatched t 32 && alarmCount t 31 == 0 && alarmCount t 0 == 1) = true := by
  decide +kernel

theorem test_alarmMaskWrite :
    ok (.alarmMaskWrite 1 (w32 0x7FFF)) alarmed (fun t => t.out.contains (.msix 0 0)) = true := by decide +kernel

theorem test_msixVectorUnmask :
    ok (.msixVectorUnmask 2 3) alarmed (fun t => t.out.contains (.msix 2 3) && t.msixPending == []) = true := by decide +kernel

/-- A device with a descriptor in region 2 and one held, and a PLL hold. -/
def inFlight : State :=
  { working with
    work := [{ job (desc 0x30 1 2) .running (.region 2) with record := 5 }, { job (desc 0) .held with index := 1, record := 6 }]
    recs := [5, 6], power := { working.power with pllHold := [.net], pllAt := [(.net, 0)] }, time := 4000000 }
def inReset : State := updRegion inFlight 2 fun g => { g with resetSince := some 3200000, resetTimes := [3200000] }
def restoring : State :=
  updLeaf (updRegion working 15 fun g => { g with leavesAtReset := [(1023, .b)] }) 1023 .b fun x => { x with restoring := true }
def idleReset : State := updRegion working 15 fun g => { g with resetSince := some 0, resetTimes := [0, 0, 0] }

theorem witness_Containment :
    hostLive inFlight = true ∧ live inFlight = true ∧ inFlight.failStop = false ∧ inFlight.buckets = [] ∧
    reaches inFlight 0 (rid .fltCtl) = true ∧ reaches inFlight 0 (rid .rgnShutterCtl 2) = true ∧
    inFlight.power.pllAt.find? (fun x => x.1 = Pll.net) = some (.net, 0) ∧ 0 + 10 * cyclesPerMs ≤ inFlight.time ∧
    inFlight.power.pllAt.find? (fun x => x.1 = Pll.arr) = none ∧
    (getRegion (updRegion inFlight 3 fun g => { g with recWait := some 5 }) 3).recWait = some 5 ∧ 5 + cyclesPerMs < inFlight.time ∧
    (getRegion inFlight 3).recWait = none ∧ 3200000 + 2 * cyclesPerMs ≤ inReset.time ∧ idleReset.time < 0 + 2 * cyclesPerMs ∧
    (getRegion inFlight 2).resetSince = none ∧ (getRegion inFlight 2).retired = false ∧
    (getRegion inReset 2).resetSince ≠ none ∧ thirdReset (getRegion inReset 2) = false ∧ live inReset = true ∧
    thirdReset (getRegion idleReset 15) = true ∧ live idleReset = true ∧
    (∀ w, w ∈ idleReset.work → w.inRegion 15 = false) ∧ idleReset.buckets = [] ∧
    (let s := updRegion working 15 fun g => { g with leavesAtReset := [(1023, .b)] };
      live s = true ∧ (1023, .b) ∈ (getRegion s (1023 / 64)).leavesAtReset ∧ (getRegion s (1023 / 64)).resetSince = none ∧
        (getLeaf s 1023 .b).restoring = false ∧ (getLeaf restoring 1023 .b).restoring = true ∧ (1023, .a) ∉ (getRegion s (1023 / 64)).leavesAtReset) ∧
    acceptable ⟨4096, 1, true⟩ = true ∧ acceptable ⟨4097, 1, true⟩ = false := by decide +kernel

/-- Whether a command stops the device (R479, R506). -/
def stops (c : Instr) : Bool :=
  ok c inFlight fun t => t.failStop && alarmLatched t 0 && t.work.all (fun w => w.phase == .done)

theorem test_failStop : stops .failStop = true := by decide +kernel
theorem test_hubFault : stops .hubFault = true := by decide +kernel
theorem test_recordStoreError : stops (.recordStoreError 15) = true := by decide +kernel
theorem test_pllRelockTimeout : stops (.pllRelockTimeout .net) = true ∧ stops (.pllRelockTimeout .arr) = false := by decide +kernel

theorem test_recordWaitTimeout :
    ok (.recordWaitTimeout 3) (updRegion inFlight 3 fun g => { g with recWait := some 5 }) (fun t => alarmLatched t 15) = true ∧
    ok (.recordWaitTimeout 3) inFlight (fun t => !alarmLatched t 15) = true := by decide +kernel

theorem test_regionReset :
    ok (.regionReset 2 .regionUnit) inFlight (fun t =>
      (getRegion t 2).atReset == [(5, 0)] && getFld t (rid .rgnShutterCtl 2) 0 2 == 3 && (getEntry t 7 2).isolated) = true := by
  decide +kernel

/-- R490: the third reset within 10 s retires the region. -/
theorem test_regionResetComplete :
    ok (.regionResetComplete 15 true) idleReset (fun t => (getRegion t 15).retired && getBit t (rid .rgnShutterCtl 15) 2) = true ∧
    ok (.regionResetComplete 2 true) inReset (fun t =>
      !(getRegion t 2).retired && (getRegion t 2).resetSince == none && getFld t (rid .rgnShutterCtl 2) 0 2 == 0) = true := by
  decide +kernel

theorem test_leafRestoreDone :
    ok (.leafRestoreDone 1023 .b ⟨4096, 1, true⟩) restoring (fun t =>
      (getLeaf t 1023 .b).state == .valid && (getLeaf t 1023 .b).restored && !(getLeaf t 1023 .a).restored) = true := by
  decide +kernel

/-! ### Maintenance tokens and step records -/

/-- Slots 0 to 6 taken by the host with calibrations of cells 0 to 6, and slot 7 by firmware with that of cell 7. -/
def tokens (n : Nat) : State :=
  (List.range n).foldl (fun s k => setReg s (rid .fltMaintSlot k) (slotWord 2 k (if k = 7 then .firmware else .host))) working

theorem witness_MaintenanceAndRecords :
    (hostLive (tokens 8) && reaches (tokens 8) 0 (rid .fltMaintReq) && reaches working 0 (rid .fltStepCtl 0)
      && reaches working 0 (rid .fltUndoLo 0) && reaches working 0 (rid .fltUndoHi 0) && reaches working 0 (rid .fltLogLo 0)) = true ∧
    live (tokens 8) = true ∧ conflictSlot (tokens 8) 2 6 = some 6 ∧ conflictSlot (tokens 8) 2 8 = none ∧
    ¬ (5 = 2 ∧ portInBucket (tokens 8) 8 = true) ∧ (tokens 8).sec.vendor = false ∧ (tokens 8).nv.dbgRetired = false ∧
    conflictSlot (tokens 7) 2 8 = none ∧ (List.range 8).find? (fun n => !slotHeld (tokens 7) n) = some 7 ∧
    (∀ n, n < 8 → slotHeld (tokens 8) n = true) ∧ heldBy (tokens 8) 7 .firmware = true ∧ heldBy (tokens 8) 6 .firmware = false ∧
    heldBy (tokens 8) 6 .host = true ∧
    (let s := { tokens 8 with time := getFld (tokens 8) (rid .fltMaintLease) 0 16 * cyclesPerSecond };
      getFld s (rid .fltMaintLease) 0 16 * cyclesPerSecond ≤ s.time - Tab.get 0 s.leaseAt 7 ∧ operationRuns s 7 = false) ∧
    operationRuns (setReg working (rid .fltMaintSlot 7) (slotWord 5 0 .host)) 7 = false ∧
    operationRuns (updPort (setReg working (rid .fltMaintSlot 7) (slotWord 5 0 .host)) 0 fun p => { p with state := .training }) 7
      = true ∧
    (getFn working 0).replayActive = false ∧ (getFn working 0).rollWait = none ∧ allHeld working = false ∧
    resetHolds working 0 = false ∧ (getFn working 0).replaying = [] ∧ (getFn working 0).oasisFail = none ∧
    (getFn (updFn working 16 fun f => { f with replayActive := true }) 16).replayActive = true ∧
    getBit working (rid .fltStepCtl 0) 1 = false ∧ (∀ w, w ∈ working.work → w.fn ≠ 0) ∧ (∃ w, w ∈ inFlight.work ∧ w.fn = 0) ∧
    getBit (writePair working (rid .fltStepCtl 0) 1) (rid .fltStepCtl 0) 0 = true ∧
    getBit (writePair working (rid .fltStepCtl 0) 0) (rid .fltStepCtl 0) 0 = false ∧
    (let s := { upNode with alarmWin := [(3, 7, 2, 0), (4, 7, 0, 0)] };
      s.alarmWin.find? (fun w => w.1 == 3 && w.2.1 == 7) = some (3, 7, 2, 0) ∧ s.alarmWin.find? (fun w => w.1 == 4 && w.2.1 == 7) = some (4, 7, 0, 0) ∧
        s.alarmWin.find? (fun w => w.1 == 5 && w.2.1 == 7) = none ∧ (getPort s 7).state = .up ∧ live s = true) := by
  refine ⟨?_, ?_, ?_, ?_, ?_, ?_, ?_, ?_, ?_, ?_, ?_, ?_, ?_, ?_, ?_, ?_, ?_, ?_, ?_, ?_, ?_, ?_, ?_, ?_, ?_, ⟨_, List.mem_cons_self .., rfl⟩, ?_, ?_, ?_⟩ <;> decide +kernel

theorem test_maintAcquire :
    ok (.maintAcquire 2 8 .firmware) (tokens 7) (fun t => getReg t (rid .fltMaintSlot 7) == slotWord 2 8 .firmware) = true ∧
    ok (.maintAcquire 2 6 .firmware) (tokens 7) (fun t => getReg t (rid .fltMaintRes) == 2 + 32 * 6) = true := by decide +kernel

theorem test_maintRelease :
    ok (.maintRelease 6 .host) (tokens 8) (fun t => !slotHeld t 6 && slotHeld t 7) = true ∧
    ok (.maintRelease 7 .host) (tokens 8) (fun t => slotHeld t 7) = true := by decide +kernel

theorem test_maintLeaseExpiry :
    ok (.maintLeaseExpiry 7) { tokens 8 with time := getFld (tokens 8) (rid .fltMaintLease) 0 16 * cyclesPerSecond } (fun t =>
      !slotHeld t 7 && alarmLatched t 14) = true := by decide +kernel

theorem test_logRedispatch :
    ok (.logRedispatch 16) (updFn (setBit working (rid .fltStepCtl 16) 1 true) 16 fun f => { f with replayActive := true }) (fun t =>
      !(getFn t 16).replayActive && !getBit t (rid .fltStepCtl 16) 1) = true := by decide +kernel

/-- R513: refused while a descriptor is in flight. -/
theorem test_stepRecordConfigWrite :
    ok (.stepRecordConfigWrite 0 .fltStepCtl (w32 1)) working (fun t => getBit t (rid .fltStepCtl 0) 0) = true ∧
    ok (.stepRecordConfigWrite 0 .fltStepCtl (w32 1)) inFlight (fun t => !getBit t (rid .fltStepCtl 0) 0) = true := by decide +kernel

theorem test_peerAlarm :
    ok (.peerAlarm (notice 0x11 (leBytes 1 3 ++ leBytes 1 0 ++ leBytes 2 9 ++ leBytes 12 0))) upNode (fun t => alarmLatched t 12)
      = true := by decide +kernel

theorem test_alarmPacketWindowEnd :
    ok (.alarmPacketWindowEnd 3 7) { upNode with time := 400000, alarmWin := [(3, 7, 2, 0), (4, 7, 0, 0)] } (fun t =>
      t.alarmWin == [(4, 7, 0, 0), (3, 7, 0, 400000)] && t.out.length == 1) = true := by decide +kernel

/-! ## Power, clocks and telemetry -/

def powered (f : Power → Power) : State := updPower working f
def lockedPlls : State := setReg working (rid .clkPllStat) 127

/-- 14.0 V and 2.0 V as results of the input's converter, whose full scale is 240 quarters of a volt. -/
def volts (quarters : Nat) : Nat := quarters * 2 ^ 23 / 240

/-- With the surge threshold at 52 V. -/
def surging : State := setFld working (rid .pwrVinCfg) 8 6 0

theorem witness_RegulatorsAndHolds :
    live working = true ∧ working.power.vrAlertLow = false ∧ working.power.governor ≤ 8 ∧
    (powered fun p => { p with vrAlertLow := true }).power.vrAlertLow = true ∧
    (powered fun p => { p with ramping := true }).power.ramping = true ∧ working.power.rampAt ≤ working.time ∧
    working.time < (powered fun p => { p with rampAt := 1 }).power.rampAt ∧ working.power.ramping = false ∧
    pendingAvs working true = none ∧ pendingAvs (setPendingAvs working true (some 1023)) true = some 1023 ∧
    ({ working with start := { working.start with pmbusAddr := [0x20] } } : State).start.pmbusAddr.getD 0 0 ≠ 0 ∧
    0x8000 &&& statusFaults ≠ 0 ∧ 0x0840 &&& statusFaults = 0 ∧ working.start.pmbusAddr.getD 0 0 = 0 ∧
    vinBelow (volts (sagThreshold working)) (sagThreshold working) = true ∧
    vinBelow (volts (sagThreshold working) + 1) (sagThreshold working) = false ∧ working.power.sagHold = false ∧
    (powered fun p => { p with sagHold := true }).power.sagHold = true ∧
    vinBelow (volts (sagThreshold working + 4) + 1) (sagThreshold working + 4) = false ∧
    issueHold (powered fun p => { p with sagHold := true }) = true ∧ issueHold working = false ∧ working.power.settled = false ∧
    (208 + getFld surging (rid .pwrVinCfg) 8 6) * 2 ^ 23 < 240 * (2 ^ 23 - 1) ∧ live surging = true ∧
    240 * 0 ≤ (208 + getFld working (rid .pwrVinCfg) 8 6) * 2 ^ 23 := by decide +kernel

theorem test_vrAlertFall :
    ok .vrAlertFall working (fun t => t.power.stretch == 4 && getFld t (rid .thmStat) 0 4 == 4 && alarmLatched t 26) = true := by
  decide +kernel

theorem test_vrAlertRise :
    ok .vrAlertRise (powered fun p => { p with vrAlertLow := true }) (fun t => t.power.ramping && !t.power.vrAlertLow) = true := by
  decide +kernel

theorem test_stretchRampStep :
    ok .stretchRampStep (powered fun p => { p with stretch := 7, ramping := true }) (fun t => t.power.stretch == 8 && !t.power.ramping)
      = true := by decide +kernel

/-- R517: 5 mV a step, within 650 to 850 mV. -/
theorem test_avsStep :
    avsStep 750 900 = 755 ∧ avsStep 849 900 = 850 ∧ avsStep 652 600 = 650 ∧ avsStep 800 800 = 800 := by decide +kernel

theorem test_avsUpdate :
    ok (.avsUpdate 850 650 true false) (setFld (setFld
      { working with start := { working.start with avsRails := 0x10 } } (rid .pwrAvsStat) 0 10 750) (rid .pwrAvsStat) 16 10 750) (fun t =>
      getFld t (rid .pwrAvsStat) 0 10 == 755 && t.out == [.avs 1 745, .avs 0 755] && t.power.avsPendingB == some 745) = true := by
  decide +kernel

theorem test_avsRetry :
    ok (.avsRetry true false) (setPendingAvs working true (some 1023)) (fun t => t.power.avsPendingB == none && alarmLatched t 35)
      = true := by decide +kernel

theorem test_pmbusPoll :
    ok (.pmbusPoll 0 0x8000) { working with start := { working.start with pmbusAddr := [0x20] } } (fun t => alarmLatched t 27) = true := by
  decide +kernel

theorem test_inputSag :
    ok (.inputSag 0) working (fun t => t.power.sagHold && getBit t (rid .thmStat) 10 && alarmLatched t 24) = true := by decide +kernel

theorem test_sagRecovery :
    ok (.sagRecovery (2 ^ 23 - 1)) (powered fun p => { p with sagHold := true }) (fun t => !t.power.sagHold) = true := by
  decide +kernel

theorem test_issueHoldSettled :
    ok .issueHoldSettled { powered fun p => { p with sagHold := true } with work := inFlight.work } (fun t =>
      t.power.settled && t.work.map (·.stopped) == [true, false]) = true := by decide +kernel

theorem test_inputSurge : ok (.inputSurge (2 ^ 23 - 1)) surging (fun t => alarmLatched t 25) = true := by decide +kernel

/-- A device whose core current was measured now, with limits of 90 degrees and 1,000 A. -/
def governed (g calm : Nat) : State :=
  let s := powered fun p => { p with governor := g, calmMs := calm, lastCoreResult := some 0 }
  setFld (setFld s (rid .thmCfg) 0 7 90) (rid .pwrIccCfg) 0 11 1000

theorem witness_GovernorTripsAndPlls :
    live (governed 8 0) = true ∧ (governed 8 0).power.governor ≤ 8 ∧ getFld (governed 8 0) (rid .thmCfg) 0 7 ≤ 90 ∧
    ¬ (getFld (governed 8 0) (rid .thmCfg) 0 7 ≤ 89) ∧ currentCause (governed 8 0) 1001 0 = true ∧
    currentCause (governed 8 0) 1000 2600 = false ∧ comfortable (governed 7 9) 87 950 2470 = true ∧
    comfortable (governed 7 9) 88 950 2470 = false ∧ comfortable (governed 7 9) 87 951 0 = false ∧
    (getPort working 7).overTemp = false ∧ working.buckets = [] ∧ (getPort working 7).state ≠ .disabled ∧
    getBit lockedPlls (rid .clkPllStat) (pllBit .fab) = true ∧ getBit working (rid .clkPllStat) 6 = false ∧ live lockedPlls = true ∧
    getBit lockedPlls (rid .clkPllStat) 1 = true ∧ getBit lockedPlls (rid .clkPllStat) 0 = true ∧
    Pll.net ∈ inFlight.power.pllHold ∧ Pll.net ∉ working.power.pllHold := by decide +kernel

/-- The governor's fraction and calm time after an evaluation. -/
def governs (s : State) (hottest mean100 mean1 g calm : Nat) : Bool :=
  ok (.governorEvaluate hottest mean100 mean1) s fun t => t.power.governor == g && t.power.calmMs == calm

theorem test_governorEvaluate : governs (governed 7 9) 87 950 2470 8 0 = true ∧ governs (governed 7 8) 87 950 2470 7 9 = true := by
  decide +kernel
theorem test_governorEvaluate_down :
    ok (.governorEvaluate 90 0 0) (governed 4 3) (fun t => t.power.governor == 4) = true ∧
    ok (.governorEvaluate 105 0 0) (governed 8 3) (fun t => t.power.governor == 4) = true := by decide +kernel

theorem test_thermtrip : ok .thermtrip working (fun t => t.power.thermtrip && !live t) = true := by decide +kernel

theorem test_opticalEngineTemperature :
    ok (.opticalEngineTemperature 7 95) (portIn .up) (fun t =>
      (getPort t 7).state == .down && (getPort t 7).overTemp && alarmLatched t 34) = true := by decide +kernel

theorem test_pllLossOfLock :
    ok (.pllLossOfLock .net) lockedPlls (fun t => t.power.pllHold == [.net] && getReg t (rid .clkPllStat) == 127 - 8) = true ∧
    ok (.pllLossOfLock .host) lockedPlls (fun t => !hostLive t && live t) = true := by decide +kernel

theorem test_pllRelocked :
    ok (.pllRelocked .net) inFlight (fun t => t.power.pllHold == [] && getFld t (rid .clkPllStat) 16 8 == 1) = true := by
  decide +kernel

/-- Spread follows its register by one step. -/
theorem test_sscApply :
    ok (.sscApply true) (setReg (powered fun p => { p with sscNet := 0x1E02 }) (rid .clkSscNet) 0x1E05) (fun t =>
      t.power.sscNet == 0x1E03) = true := by decide +kernel

theorem test_railUndervoltage :
    ok (.railUndervoltage 11) lockedPlls (fun t => t.power.railStop && getReg t (rid .clkPllStat) == 3 && !live t) = true ∧
    ok (.railUndervoltage 5) lockedPlls (fun t => !t.power.railStop) = true := by decide +kernel

/-! ### Telemetry converters -/

/-- A background calibration of converter 0 that began 100 ms ago. -/
def standing (waits : Bool) : State :=
  { powered (fun p => { p with bgStand := some 0, scalWaits := waits }) with time := 100 * cyclesPerMs }

/-- Converter 3 clocked and enabled, with a trigger, a delay and a sequence of channels 63 and 2. -/
def converter (trig delay : Nat) (f : Tadc → Tadc := id) : State :=
  let s := setReg (setReg working (rid .hubClken) 0xFFFFFFFF) (rid .hubClkst) 0xFFFFFFFF
  let s := setFld (setFld (setFld s (rid .tadcCtl 3) 4 2 trig) (rid .tadcCtl 3) 8 11 delay) (rid .tadcCtl 3) 19 12 2
  updTadc (setReg (setReg (setReg { s with time := cyclesPerSecond } (rid .tadcSeq 3 0) 0) (rid .tadcSeq 3 1) 0x427F) (rid .tadcSeq 3 2) 0) 3 f

def scaling : State := { setBit (powered fun p => { p with scalRunning := true, scalFirst := true }) (rid .tadcScal) 0 true with time := 1 }

theorem witness_TelemetryConverters :
    live (converter 1 0) = true ∧ hostLive (converter 1 0) = true ∧ tadcTakes (converter 1 0) 3 = true ∧ tadcRuns (converter 1 0) 3 = true ∧
    (getTadc (converter 1 0) 3).delaying = false ∧ (getTadc (converter 1 0) 3).passRunning = false ∧
    getFld (converter 1 0) (rid .tadcCtl 3) 8 11 = 0 ∧ getFld (converter 1 7) (rid .tadcCtl 3) 8 11 ≠ 0 ∧
    (getTadc (converter 1 0 fun t => { t with delaying := true }) 3).delaying = true ∧ tadcTrig (converter 1 0) 3 = 1 ∧
    (2 ≤ tadcTrig (converter 2 0) 3 ∧ syncLost (converter 2 0) 3 = false) ∧ tadcTrig (converter 0 0) 3 = 0 ∧
    tadcTrig (converter 2 0) 3 = (if true then 2 else 3) ∧ tadcTrig (converter 3 0) 3 = (if false then 2 else 3) ∧
    (getTadc (converter 2 0) 3).edges + 1 < tadcDiv (converter 2 0) 3 ∧
    tadcDiv (converter 2 0) 3 ≤ (getTadc (converter 2 0 fun t => { t with edges := 1 }) 3).edges + 1 ∧
    tadcRuns (setReg working (rid .hubClkst) 0) 3 = false ∧ (getTadc (converter 1 0 fun t => { t with urgent := [63, 2] }) 3).urgent = 63 :: [2] ∧
    (getTadc (converter 1 0 fun t => { t with converting := some 63, pass := [2] }) 3).converting = some 63 ∧
    (flag (w32 0x8000033F).toNat 31 = true ∧ field (w32 0x8000033F).toNat 8 3 = 3) ∧
    (getTadc (converter 1 0) 3).timerAt + 400 * getFld (converter 1 0) (rid .tadcPer 3) 0 16 ≤ (converter 1 0).time ∧
    (getTadc (converter 1 7) 3).delayAt + 4 * getFld (converter 1 7) (rid .tadcCtl 3) 8 11 ≤ (converter 1 7).time ∧
    (getTadc (converter 2 0) 3).edgeAt + cyclesPerMs ≤ (converter 2 0).time ∧
    reaches (converter 1 0) 0 (rid .tadcUrg) = true ∧ reaches working 0 (rid .tadcScal) = true ∧
    tadcRuns working 0 = true ∧ tadcRuns working 4 = true ∧ tadcTakes working 4 = true ∧ working.power.bgStand = none ∧
    working.power.scalWaits = false ∧ (standing true).power.bgStand = some 0 ∧ (standing true).power.scalWaits = true ∧
    (standing true).power.bgSince + 100 * cyclesPerMs ≤ (standing true).time ∧
    working.power.bgStopped = false ∧ working.power.scalRunning = false ∧ working.power.bgConv = 0 ∧ scaling.power.scalRunning = true ∧
    live scaling = true ∧ scaling.power.scalFirst = true ∧ scalFails (-654049) (5 - 5) = false ∧ scalFails 0 (32768 - 0) = false ∧
    scalFails 0 (0 - 32769) = true ∧ scalFails 654050 0 = true := by decide +kernel

theorem test_tadcTimerTrigger :
    ok (.tadcTimerTrigger 3) (converter 1 0) (fun t => (getTadc t 3).converting == some 63 && (getTadc t 3).pass == [2]) = true ∧
    ok (.tadcTimerTrigger 3) (converter 1 0 fun t => { t with passRunning := true }) (fun t => getFld t (rid .tadcStat 3) 16 16 == 1)
      = true := by decide +kernel

theorem test_tadcSyncTrigger :
    ok (.tadcSyncTrigger 3 true) (converter 2 0 fun t => { t with edges := 1 }) (fun t =>
      (getTadc t 3).edges == 0 && (getTadc t 3).converting == some 63) = true := by decide +kernel

theorem test_tadcPassStart :
    ok (.tadcPassStart 3) (converter 1 7 fun t => { t with delaying := true }) (fun t =>
      !(getTadc t 3).delaying && (getTadc t 3).converting == some 63) = true := by decide +kernel

theorem test_tadcConversionDone :
    ok (.tadcConversionDone 3 (-1)) (converter 1 0 fun t => { t with converting := some 63, pass := [2], passRunning := true, runs := 3 }) (fun t =>
      (getTadc t 3).converting == some 2 && getReg t (rid .tadcRes 63) == 0xFFFFFF + 3 * 2 ^ 24 + 2 ^ 27) = true := by
  decide +kernel

theorem test_tadcSyncLost : ok (.tadcSyncLost 3) (converter 2 0) (fun t => syncLost t 3) = true := by decide +kernel

theorem test_tadcUrgentRequest :
    ok (.tadcUrgentRequest (w32 0x8000033F)) (converter 1 0) (fun t => (getTadc t 3).urgent == [63]) = true := by decide +kernel

theorem test_tadcBackgroundCalibration :
    ok (.tadcBackgroundCalibration 0 true true) working (fun t => t.power.bgStand == some 0) = true ∧
    ok (.tadcBackgroundCalibration 0 true true) (standing false) (fun t => t.power.bgStand == none && t.power.bgConv == 1) = true ∧
    ok (.tadcBackgroundCalibration 0 true false) (standing false) (fun t =>
      t.power.bgStopped && getBit t (rid .tadcStat 0) 2 && alarmLatched t 32) = true := by decide +kernel

theorem test_selfCalibrationStart :
    ok .selfCalibrationStart (setReg working (rid .tadcRes 5) (2 ^ 27 + 5)) (fun t =>
      t.power.scalRunning && getReg t (rid .tadcRes 5) == 5) = true := by decide +kernel

theorem test_selfCalibrationEnd :
    ok (.selfCalibrationEnd 3 5 5 [2 ^ 24 + 1] [7, 8]) scaling (fun t =>
      getBit t (rid .tadcScal) 1 && getFld t (rid .tadcCalOfs 0) 0 24 == 1 && getFld t (rid .tadcCalGain 1) 0 24 == 8) = true := by
  decide +kernel

/-! ## Security and identity -/

/-- An image of 4,096 bytes, all of it header: key slot 3, SVN 9, six empty sections; and one with a wrong magic word. -/
def sectionEntry (type : Nat) : List Byte := leBytes 4 type ++ leBytes 4 4096 ++ leBytes 24 0 ++ List.replicate 64 1#8
def imageBytes : List Byte :=
  [0x56#8, 0x54#8, 0x49#8, 0x4D#8] ++ leBytes 2 1 ++ leBytes 2 3 ++ leBytes 4 0 ++ leBytes 4 9 ++ List.replicate 32 7#8
    ++ leBytes 2 6 ++ leBytes 14 0 ++ (List.range 6).flatMap sectionEntry ++ List.replicate 3456 0#8
def badImage : List Byte := 0#8 :: imageBytes.drop 1

/-- Slot A booted, B the inactive one; key slot 3 has digest 1…1 and slots 1 and 2 others; the image that runs has SVN 9 and key slot 2. -/
def secured : State :=
  let s := setFld working (rid .secXferLen) 0 24 4096
  { s with
    start := { s.start with booted := some 0 }
    nv := { s.nv with keyHash := [[], [1#8], [2#8], List.replicate 64 1#8], arbCount := 5, dbgLocked := true
                      slotA := ⟨[1#8], some 5⟩, slotB := ⟨[2#8], some 4⟩ }
    sec := { s.sec with runSvn := 9, runKey := 2, nonce := leBytes 8 77 } }
def tokened (s : State) : State := setReg s (rid .fltMaintSlot 7) (slotWord 0 0 .host)
def staged : State := setReg { secured with sec := { secured.sec with staging := some [9#8] } } (rid .secCmd) (1 + 2 ^ 31)
def mayActivate : State := setBit (tokened secured) (rid .secStat) 1 true
def activating : State := { mayActivate with sec := { mayActivate.sec with activating := true } }
def opening : State := { secured with nv := { secured.nv with dbgLocked := false } }
def retiredChip : State := { secured with nv := { secured.nv with dbgRetired := true } }

/-- An unlock token for this device and nonce; its key stands at offset 128. -/
def unlockToken (nv : NonVolatile) : List Byte :=
  [0x56#8, 0x54#8, 0x44#8, 0x55#8] ++ leBytes 2 1 ++ leBytes 2 0 ++ deviceId nv ++ leBytes 8 77 ++ leBytes 32 0
    ++ List.replicate 64 3#8 ++ List.replicate 32 4#8

theorem witness_SecurityCommands :
    SecReady secured ∧ live secured = true ∧
    (if imageMax < getFld (opStored secured 1) (rid .secXferLen) 0 24 then 3
      else imageFault secured.nv (xferImage (opStored secured 1) badImage)) ≠ 0 ∧
    secBusy staged = true ∧ hostLive staged = true ∧ secured.sec.staging = none ∧ staged.sec.staging = some [9#8] ∧
    staged.start.recovery = false ∧ live staged = true ∧ SecReady mayActivate ∧ activateRefused (opStored secured 2) ≠ 0 ∧
    activateRefused (opStored mayActivate 2) = 0 ∧ secured.sec.activating = false ∧ activating.sec.activating = true ∧
    live activating = true ∧ actToken secured = false ∧ SecReady (tokened secured) ∧ actToken (tokened secured) = true ∧
    dbgState (tokened secured) = 2 ∧ dbgState (tokened opening) ≠ 2 ∧ actToken (tokened opening) = true ∧
    ({ tokened secured with sec := {} } : State).sec.runSvn < secured.nv.arbCount ∧ secured.nv.arbCount ≤ secured.sec.runSvn ∧
    secured.sec.runSvn ≤ secured.nv.arbCount + 4 ∧ secured.nv.arbCount + 3 < secured.sec.runSvn ∧ keyRevoked secured.nv 3 = false ∧ getFld (opStored (setReg secured (rid .secCmd) (2 * 16)) 4) (rid .secCmd) 4 2 = secured.sec.runKey ∧
    3 ≠ secured.sec.runKey ∧ otherKey secured.nv 3 = true ∧ otherKey { secured.nv with keyRevoke := 6 } 3 = false ∧
    dbgState opening ≠ 2 ∧ SecReady opening ∧ tokenFault secured [] ≠ 0 ∧ dbgState secured ≠ 0 ∧ dbgState opening = 0 := by
  simp only [SecReady]; decide +kernel

/-- An image and a token pass their checks if their digests and signatures do. Config holds SHA-512 and Ed25519 without a definition,
so what they answer is this theorem's assumption. -/
theorem witness_SecurityCommands_signed (hs : ∀ bs, Config.sha512 bs = List.replicate 64 1#8)
    (hv : ∀ key bytes signature, Config.ed25519Verify key bytes signature = true) :
    imageFault secured.nv (xferImage (opStored secured 1) imageBytes) = 0 ∧ tokenFault secured (unlockToken secured.nv) = 0 := by
  simp only [imageFault, tokenFault, sectionGood, unlockToken, deviceId, hs, hv]
  decide +kernel

theorem test_stage_refused :
    ok (.stage badImage) secured (fun t => getFld t (rid .secStat) 4 4 == 3 && alarmLatched t 42 && decide (t.nv = secured.nv)) = true := by
  decide +kernel

theorem test_stageDone :
    ok (.stageDone true) staged (fun t =>
      t.nv.slotB == ⟨[9#8], none⟩ && t.nv.slotA == secured.nv.slotA && getBit t (rid .secStat) 1 && !secBusy t) = true := by
  decide +kernel

theorem test_activate :
    ok (.activate true) mayActivate (fun t => t.sec.activating && secBusy t) = true ∧
    ok (.activate true) secured (fun t => getBit t (rid .secStat) 0 && getFld t (rid .secStat) 4 4 == 4) = true := by decide +kernel

theorem test_commit :
    ok (.commit 4) (tokened secured) (fun t => t.nv.arbCount == 9 && !getBit t (rid .secStat) 0) = true ∧
    ok (.commit 3) (tokened secured) (fun t => t.nv.arbCount == 8 && alarmLatched t 43) = true ∧
    ok (.commit 4) secured (fun t => t.nv.arbCount == 5 && getFld t (rid .secStat) 4 4 == 4) = true := by decide +kernel

theorem test_revoke :
    ok (.revoke true) (setReg (tokened secured) (rid .secCmd) (3 * 16)) (fun t => t.nv.keyRevoke == 8) = true ∧
    ok (.revoke true) (setReg (tokened secured) (rid .secCmd) (2 * 16)) (fun t => t.nv.keyRevoke == 0) = true := by decide +kernel

theorem test_unlock_refused :
    ok (.unlock [] [8#8]) secured (fun t =>
      !t.sec.vendor && t.sec.nonce == padTo 8 [8#8] && getFld t (rid .secStat) 4 4 == 3 && alarmLatched t 42) = true := by
  decide +kernel

theorem test_lock : ok (.lock true) opening (fun t => t.nv.dbgLocked && dbgState t == 2) = true := by decide +kernel

theorem witness_FusesAreOnlyBlown : ∃ t, step { secured with pending := [.lock true] } = .next t := ⟨_, rfl⟩

theorem witness_AttestationAndTestPort :
    spdmOn secured .doe = true ∧ spdmOn secured .mctp = true ∧ secured.nv.dbgRetired = false ∧ retiredChip.nv.dbgRetired = true ∧
    spdmOn retiredChip .doe = true ∧ activating.sec.activating = true ∧ spdmOn activating .doe = true ∧
    secured.sec.activating = false ∧ 255 < 256 ∧ (measurements secured).any (fun m => m.index == 9) = true ∧
    jtagAllowed (dbgState State.reset) .extest = true ∧ State.reset.start.perst = true ∧ jtagDrives .bypass = false ∧
    jtagAllowed (dbgState retiredChip) .extest = false ∧ secured.start.perst = false ∧ jtagDrives .extest = true := by decide +kernel

/-- The answer that a request gets: its code, or 0x17F for an error of code 7. -/
def answerCode (c : Instr) (s : State) : Option Nat :=
  match exec c s with
  | .next t => match t.out with
    | .spdm _ code _ :: _ => some code
    | .spdmError _ 7 :: _ => some 0x17F
    | _ => none
  | _ => none

theorem test_getVersion : answerCode (.getVersion .mctp) retiredChip = some 0x84 := by decide +kernel
theorem test_getCapabilities :
    answerCode (.getCapabilities .doe) secured = some 0xE1 ∧ answerCode (.getCapabilities .doe) retiredChip = some 0x17F := by
  decide +kernel
theorem test_negotiateAlgorithms : answerCode (.negotiateAlgorithms .doe) secured = some 0xE3 := by decide +kernel
theorem test_getDigests : answerCode (.getDigests .doe) secured = some 0x81 := by decide +kernel
theorem test_getCertificate :
    answerCode (.getCertificate .doe 0 0 4) secured = some 0x82 ∧ answerCode (.getCertificate .doe 1 0 4) secured = some 0x17F := by
  decide +kernel
theorem test_challenge : answerCode (.challenge .doe 0 []) secured = some 0x83 := by decide +kernel
theorem test_getMeasurements :
    answerCode (.getMeasurements .doe 9 []) secured = some 0xE0 ∧ answerCode (.getMeasurements .doe 11 []) secured = some 0x17F := by
  decide +kernel
theorem test_spdmUnsupportedRequest : answerCode (.spdmUnsupportedRequest .doe 0xE5) secured = some 0x17F := by decide +kernel

theorem test_tapReset : ok .tapReset { working with tap := { instruction := .bypass } } (fun t => t.tap.instruction == .idcode) = true := by decide +kernel
theorem test_jtagInstruction :
    ok (.jtagInstruction .extest) State.reset (fun t => t.tap.instruction == .extest) = true ∧
    ok (.jtagInstruction .extest) working (fun t => t.tap == working.tap) = true := by decide +kernel

/-! ## Number formats -/

theorem witness_ConversionsRoundToNearestEven :
    e2m1 ∈ formats ∧ (e2m1.decode 7).isFin = true ∧ 7 < 2 ^ e2m1.width ∧ fp64 ∈ formats ∧ (fp64.decode (2 ^ 63)).isFin = true := by
  decide +kernel

theorem witness_CodesConvertToThemselves :
    e4m3 ∈ formats ∧ 0x80 < 2 ^ e4m3.width ∧ (e4m3.decode 0x80).isFin = true ∧ (e4m3.decode 0x7E).isFin = true := by decide +kernel

/-- 2.5 lies between the E2M1 values 2 and 3, and 1.25 between 1 and 1.5: the even codes win; 7 saturates at 6. -/
theorem test_convert :
    (e2m1.convert (.fin false 5 (-1))).code = 4 ∧ (e2m1.convert (.fin false 5 (-2))).code = 2 ∧
    e2m1.convert (.fin true 7 0) = ⟨15, true, false⟩ := by decide +kernel

/-! ## The spec's worked examples -/

/-- Chapter 3: counter 4,660 at 0x00010002 against tokens 0x00031234 and 0x80031234, and the counter one higher. -/
theorem test_tokens :
    tokenMet (setCtr working 4660 ⟨0x00010002, false⟩) 0x00031234 = false ∧
    tokenMet (setCtr working 4660 ⟨0x00010003, false⟩) 0x00031234 = true ∧
    tokenMet (setCtr working 4660 ⟨0x00010002, false⟩) 0x80031234 = true := by decide +kernel

/-- Chapter 3: VF 3 owns rings 4,096 to 5,119. -/
theorem test_ringOwner :
    let s := { setReg working (rid .hubVfRing 3) 0x410 with numVfs := 3 }
    ownerOf s 4660 = 3 ∧ ownerOf s 4095 = 0 ∧ ownerOf s 4096 = 3 ∧ ownerOf s 5119 = 3 ∧ ownerOf s 5120 = 0 := by decide +kernel

/-- Chapter 4: h_max 0.03 with g = 1 gives T = 2^−7, and 0.2 gives 2^−4; the block of m = 0.021 gets scale 0xED and elements 7, −2, 1
and 0; m = 0.2 overflows. -/
theorem test_vq4 :
    tensorScaleExp 0x3CF5C28F 7 1 = -7 ∧ tensorScaleExp 0x3E4CCCCD 7 1 = -4 ∧
    blockScale fp32 0x3CAC0831 (-7) 7 0 = some 0xED ∧ blockScale fp32 0x3E4CCCCD (-7) 7 0 = none ∧
    (vqBlock fp32 0x20 (-7) 0 [0x3CAC0831, 0xBB9D4952, 0x3AD1B717, 0x3ACF1801]).codes = [7, 14, 1, 0] := by decide +kernel

/-- Chapter 4: element 7 of that block decodes to 0.022216796875, which is 91 × 2^−12. -/
theorem test_vq4_decode :
    (decodeElem 0x20 0xED (pow2code (-7)) 7).cmp (.fin false 91 (-12)) = some .eq := by decide +kernel

/-- Chapter 5: a tile amax of 0.5 gives T_w = 2^−4, column 9 (0.2) has code 0xEF, and its weights 0.2 and −0.05 become 7 and −2; the
phases of GAIN 3 and MARGIN 2. -/
theorem test_tile :
    tensorScaleExp 0x3F000000 7 0 = -4 ∧ blockScale fp32 0x3E4CCCCD (-4) 7 0 = some 0xEF ∧
    (vqBlock fp32 0x20 (-4) 0 [0x3E4CCCCD, 0xBD4CCCCD]).codes = [7, 14] ∧
    rMax 3 2 49 = 82 ∧ rMax 3 2 7 = 512 ∧ ceilDiv 304 (rMax 3 2 49) = 4 := by decide +kernel

/-- Chapter 7: 40 by 1,000 takes 4 tiles, on fold F1. -/
theorem test_folds : tilesOf 40 1000 0 = 4 ∧ foldOf 40 1000 0 = 1 := by decide +kernel

/-- Chapter 11: the caravan's 8,192 bytes take 34 flits, and the packet of a full chunk 27. -/
theorem test_flits :
    (packetFlits { carP 0 with payload := List.replicate 8192 0#8 } none).length = 34 ∧
    (packetFlits { carP 0 with payload := List.replicate 6400 0#8 } none).length = 27 := by decide +kernel

/-- Chapter 11: FAB_CAR_WIN 0x00080001 places the window at VA 0x8000000000000, and node 7's expert 150 lies in it. -/
theorem test_caravanWindow :
    inCaravan (setReg working (rid .fabCarWin 0) 0x00080001) 0 0x800001D2C000 = false ∧
    inCaravan (setReg working (rid .fabCarWin 0) 0x00080001) 0 0x8000001D2C000 = true := by decide +kernel

/-- Chapter 12: AGREED is 2^−10 for 0.09, and 2^−8 for 444.5 × 2^−10. -/
theorem test_agreed : tensorScaleExp 0x3DB851EC 127 1 = -10 ∧ tensorScaleExp 0x3EDE4000 127 1 = -8 := by decide +kernel

/-! ## Well-formedness -/

/-- The largest index that each check takes, and one that it refuses. -/
theorem test_wf_functions :
    [Instr.startGo 16, .vfFunctionLevelReset 16, .vfEnableSet 16, .registerWrite 16 (rid .numStep) 0, .rcRegisterRead 0 (rid .memEccCnt 15),
      .reg64LowRead 0 (rid .numOasisBaseLo), .mmuRootWrite 16 false 0, .zeroStreakClear 16, .zeroStreakLimitWrite 16 8191].all Instr.wf
        = true ∧
    [Instr.startGo 17, .vfFunctionLevelReset 0, .vfFunctionLevelReset 17, .vfEnableSet 17, .registerWrite 17 (rid .numStep) 0,
      .registerWrite 0 (rid .memEccCnt 16) 0, .rcRegisterRead 17 (rid .numStep), .rcRegisterRead 0 (rid .memEccCnt 16)].any Instr.wf
        = false ∧
    [Instr.reg64LowRead 17 (rid .numOasisBaseLo), .reg64LowRead 0 (rid .memEccCnt 16), .reg64LowRead 0 (rid .numStep),
      .mmuRootWrite 17 false 0, .zeroStreakClear 17, .zeroStreakLimitWrite 17 0, .zeroStreakLimitWrite 0 8192].any Instr.wf = false := by
  decide +kernel

/-! ### Every check at its bound: the largest operand taken, and the next one refused -/

theorem test_wf_taken_1 :
    [Instr.stackTrainingDone 15 false, .unsupportedAccessWidth 16 (2 ^ 40 - 1) 0 false none,
      .unmappedAccess 16 (2 ^ 40 - 1) false false, .gatedAccess 16 (2 ^ 40 - 1) false 14 0,
      .bar4Access 16 (2 ^ 64 - 1) (.read 4), .clockEnableSet 255, .clockEnableClear 255, .clockStopped 255,
      .atsInvalidationRequest 16 (2 ^ 64 - 1), .vfRingRangeWrite 16 0, .ringGroupConfigWrite 16 63 0,
      .ringLoad 16 65535 (List.replicate 64 0), .ringStop 16 65535, .ringAbort 16 65535, .ringResume 16 65535,
      .ringQuery 16 65535, .ringDrained 65535, .doorbell 16 (2 ^ 40 - 1) 0 0].all Instr.wf = true := by decide +kernel

theorem test_wf_taken_2 :
    [Instr.shadowTailReadDone 65535 none, .descriptorFetchDone 65535 none, .ringPollTimer 65535,
      .consumerIndexReread 65535 none, .completionRingStall 65535, .dependencyMet 65535 4294967295,
      .fenceRelease 65535, .descriptorComplete 65535 4294967295, .interruptModerationTimer 65535,
      .eventRateWindowEnd 65535 0 0, .nop 65535 4294967295, .ctrWrite 65535 4294967295, .eventMark 65535 4294967295,
      .ringKick 65535 4294967295, .leafProgram 65535 4294967295, .leafReadback 65535 4294967295 ⟨[], [], []⟩,
      .tileEvaluate 65535 4294967295, .dmuProduct 65535 4294967295].all Instr.wf = true := by decide +kernel

theorem test_wf_taken_3 :
    [Instr.dmuPair 65535 4294967295, .vectorProgram 65535 4294967295, .memCopy 65535 4294967295,
      .memAtomic 65535 4294967295, .collectiveStep 65535 4294967295, .updateStep 65535 4294967295,
      .snapshot 65535 4294967295, .snapshotRestore 65535 4294967295, .arrayPeriod 1023 [], .fallbackProductStart 127,
      .suspectColumnCheck 1023 [], .cloneReady 1023 ⟨0, 0, true⟩, .junctionSample 127 0,
      .converterCalibrationSlot 1023 0, .fullCalibrationStart 16 1023, .fullCalibrationEnd 1023 ⟨[], 0⟩,
      .calibrationDue 1023, .scoreboardParityError 127].all Instr.wf = true := by decide +kernel

theorem test_wf_taken_4 :
    [Instr.scoreboardRebuildDone 127, .blockIssue 127, .slewCreditStart 65535 4294967295, .vecLd 127, .vecSt 127,
      .vecAdd 127, .vecMul 127, .vecFma 127, .vecMin 127, .vecMax 127, .vecSel 127, .vecCmplt 127, .vecSplat 127,
      .vecRcp 127, .vecRsqrt 127, .vecExp2 127, .vecLog2 127, .vecSum 127].all Instr.wf = true := by decide +kernel

theorem test_wf_taken_5 :
    [Instr.vecMaxr 127, .vecSadd 127, .vecBrnz 127, .vecBr 127, .cpop 127, .vecEnd 127, .ruleAdd 15, .ruleSub 15,
      .ruleMul 15, .ruleFma 15, .ruleMin 15, .ruleMax 15, .ruleSqrt 15, .ruleRcp 15, .ruleRsqrt 15, .ruleDiv 15,
      .ruleLerp 15, .ruleClamp 15].all Instr.wf = true := by decide +kernel

theorem test_wf_taken_6 :
    [Instr.ruleClipb 15, .ruleSel 15, .ruleCmplt 15, .ruleEnd 15, .residencyWindowWrite 16 127 7 0,
      .residencyFlushDone 127 7, .residencyPageFill 127 7 2047, .caravanRefill 127 3, .caravanConfigWrite 16 127 3 0,
      .cacheSliceError 15 (2 ^ 28 - 1) [] false, .patrolScrub 15 (2 ^ 31 - 1) 36, .stackTemperatureSample 15 255,
      .stackLost 15, .marginScanStart 15 0, .marginPoint 15 false, .memTestStart 15 0, .portTraining 7 .retrain,
      .portUp 7 trained].all Instr.wf = true := by decide +kernel

theorem test_wf_taken_7 :
    [Instr.portTrainingTimeout 7 0 0, .signalDetect 7 0, .retrain 7, .disable 7 false, .laneFail 7 17,
      .linkLoss 7 false, .flitReceive 7 (List.replicate 256 0), .nak 7 4095, .nakRepeatTimer 7, .ackTimer 7,
      .resendTimeout 7, .adoptionNotice 7 65535 65535, .unreachableNotice 1048575, .fabricRecordTimeout 1048575,
      .bucketWatchdog 16 4095 0, .collectiveConfigWrite 16 .numStep 0, .alarmClear 1 0, .alarmMaskWrite 1 0].all Instr.wf = true := by decide +kernel

theorem test_wf_taken_8 :
    [Instr.msixVectorUnmask 16 2047, .regionReset 15 .software, .regionResetComplete 15 false,
      .leafRestoreDone 1023 .a ⟨0, 0, true⟩, .logRedispatch 16, .recordWaitTimeout 15, .recordStoreError 15,
      .maintAcquire 7 65535 .host, .maintRelease 7 .host, .maintLeaseExpiry 7, .stepRecordConfigWrite 16 .numStep 0,
      .pmbusPoll 11 0, .opticalEngineTemperature 7 255, .railUndervoltage 11, .tadcTimerTrigger 4,
      .tadcSyncTrigger 4 false, .tadcPassStart 4, .tadcConversionDone 4 0].all Instr.wf = true := by decide +kernel

theorem test_wf_taken_9 :
    [Instr.tadcSyncLost 4, .tadcBackgroundCalibration 4 false false, .getCertificate .doe 255 (2 ^ 40 - 1) 0,
      .challenge .doe 255 [], .laserFeedLow 7 1 0, .alarmPacketWindowEnd 47 7, .unreachableResendDelay 1048575,
      .stage3Complete [⟨15, 0, 0, true⟩] true, .memTestDone ⟨15, 0, 0, true⟩, .cacheSliceError 0 0 [7] false,
      .descriptorFetchDone 0 (some (List.replicate 64 0))].all Instr.wf = true := by decide +kernel

theorem test_wf_refused_1 :
    [Instr.stackTrainingDone 16 false, .unsupportedAccessWidth 17 (2 ^ 40 - 1) 0 false none,
      .unsupportedAccessWidth 16 (2 ^ 40) 0 false none, .unmappedAccess 17 (2 ^ 40 - 1) false false,
      .unmappedAccess 16 (2 ^ 40) false false, .gatedAccess 17 (2 ^ 40 - 1) false 14 0,
      .gatedAccess 16 (2 ^ 40) false 14 0, .gatedAccess 16 (2 ^ 40 - 1) false 15 0,
      .bar4Access 17 (2 ^ 64 - 1) (.read 4), .bar4Access 16 (2 ^ 64) (.read 4), .clockEnableSet 256,
      .clockEnableClear 256, .clockStopped 256, .atsInvalidationRequest 17 (2 ^ 64 - 1),
      .atsInvalidationRequest 16 (2 ^ 64), .vfRingRangeWrite 17 0, .ringGroupConfigWrite 17 63 0,
      .ringGroupConfigWrite 16 64 0].any Instr.wf = false := by decide +kernel

theorem test_wf_refused_2 :
    [Instr.ringLoad 17 65535 (List.replicate 64 0), .ringLoad 16 65536 (List.replicate 64 0), .ringStop 17 65535,
      .ringStop 16 65536, .ringAbort 17 65535, .ringAbort 16 65536, .ringResume 17 65535, .ringResume 16 65536,
      .ringQuery 17 65535, .ringQuery 16 65536, .ringDrained 65536, .doorbell 17 (2 ^ 40 - 1) 0 0,
      .doorbell 16 (2 ^ 40) 0 0, .shadowTailReadDone 65536 none, .descriptorFetchDone 65536 none,
      .ringPollTimer 65536, .consumerIndexReread 65536 none, .completionRingStall 65536].any Instr.wf = false := by decide +kernel

theorem test_wf_refused_3 :
    [Instr.dependencyMet 65536 4294967295, .dependencyMet 65535 4294967296, .fenceRelease 65536,
      .descriptorComplete 65536 4294967295, .descriptorComplete 65535 4294967296, .interruptModerationTimer 65536,
      .eventRateWindowEnd 65536 0 0, .nop 65536 4294967295, .nop 65535 4294967296, .ctrWrite 65536 4294967295,
      .ctrWrite 65535 4294967296, .eventMark 65536 4294967295, .eventMark 65535 4294967296,
      .ringKick 65536 4294967295, .ringKick 65535 4294967296, .leafProgram 65536 4294967295,
      .leafProgram 65535 4294967296, .leafReadback 65536 4294967295 ⟨[], [], []⟩].any Instr.wf = false := by decide +kernel

theorem test_wf_refused_4 :
    [Instr.leafReadback 65535 4294967296 ⟨[], [], []⟩, .tileEvaluate 65536 4294967295, .tileEvaluate 65535 4294967296,
      .dmuProduct 65536 4294967295, .dmuProduct 65535 4294967296, .dmuPair 65536 4294967295,
      .dmuPair 65535 4294967296, .vectorProgram 65536 4294967295, .vectorProgram 65535 4294967296,
      .memCopy 65536 4294967295, .memCopy 65535 4294967296, .memAtomic 65536 4294967295, .memAtomic 65535 4294967296,
      .collectiveStep 65536 4294967295, .collectiveStep 65535 4294967296, .updateStep 65536 4294967295,
      .updateStep 65535 4294967296, .snapshot 65536 4294967295].any Instr.wf = false := by decide +kernel

theorem test_wf_refused_5 :
    [Instr.snapshot 65535 4294967296, .snapshotRestore 65536 4294967295, .snapshotRestore 65535 4294967296,
      .arrayPeriod 1024 [], .fallbackProductStart 128, .suspectColumnCheck 1024 [], .cloneReady 1024 ⟨0, 0, true⟩,
      .junctionSample 128 0, .converterCalibrationSlot 1024 0, .fullCalibrationStart 17 1023,
      .fullCalibrationStart 16 1024, .fullCalibrationEnd 1024 ⟨[], 0⟩, .calibrationDue 1024,
      .scoreboardParityError 128, .scoreboardRebuildDone 128, .blockIssue 128, .slewCreditStart 65536 4294967295,
      .slewCreditStart 65535 4294967296].any Instr.wf = false := by decide +kernel

theorem test_wf_refused_6 :
    [Instr.vecLd 128, .vecSt 128, .vecAdd 128, .vecMul 128, .vecFma 128, .vecMin 128, .vecMax 128, .vecSel 128,
      .vecCmplt 128, .vecSplat 128, .vecRcp 128, .vecRsqrt 128, .vecExp2 128, .vecLog2 128, .vecSum 128,
      .vecMaxr 128, .vecSadd 128, .vecBrnz 128].any Instr.wf = false := by decide +kernel

theorem test_wf_refused_7 :
    [Instr.vecBr 128, .cpop 128, .vecEnd 128, .ruleAdd 16, .ruleSub 16, .ruleMul 16, .ruleFma 16, .ruleMin 16,
      .ruleMax 16, .ruleSqrt 16, .ruleRcp 16, .ruleRsqrt 16, .ruleDiv 16, .ruleLerp 16, .ruleClamp 16, .ruleClipb 16,
      .ruleSel 16, .ruleCmplt 16].any Instr.wf = false := by decide +kernel

theorem test_wf_refused_8 :
    [Instr.ruleEnd 16, .residencyWindowWrite 17 127 7 0, .residencyWindowWrite 16 128 7 0,
      .residencyWindowWrite 16 127 8 0, .residencyFlushDone 128 7, .residencyFlushDone 127 8,
      .residencyPageFill 128 7 2047, .residencyPageFill 127 8 2047, .residencyPageFill 127 7 2048,
      .caravanRefill 128 3, .caravanRefill 127 4, .caravanConfigWrite 17 127 3 0, .caravanConfigWrite 16 128 3 0,
      .caravanConfigWrite 16 127 4 0, .cacheSliceError 16 (2 ^ 28 - 1) [] false,
      .cacheSliceError 15 (2 ^ 28) [] false, .patrolScrub 16 (2 ^ 31 - 1) 36, .patrolScrub 15 (2 ^ 31) 36].any Instr.wf = false := by decide +kernel

theorem test_wf_refused_9 :
    [Instr.patrolScrub 15 (2 ^ 31 - 1) 37, .stackTemperatureSample 16 255, .stackTemperatureSample 15 256,
      .stackLost 16, .marginScanStart 16 0, .marginPoint 16 false, .memTestStart 16 0, .portTraining 8 .retrain,
      .portUp 8 trained, .portTrainingTimeout 8 0 0, .signalDetect 8 0, .retrain 8, .disable 8 false, .laneFail 8 17,
      .laneFail 7 18, .linkLoss 8 false, .flitReceive 8 (List.replicate 256 0), .nak 8 4095].any Instr.wf = false := by decide +kernel

theorem test_wf_refused_10 :
    [Instr.nak 7 4096, .nakRepeatTimer 8, .ackTimer 8, .resendTimeout 8, .adoptionNotice 8 65535 65535,
      .adoptionNotice 7 65536 65535, .adoptionNotice 7 65535 65536, .unreachableNotice 1048576,
      .fabricRecordTimeout 1048576, .bucketWatchdog 17 4095 0, .bucketWatchdog 16 4096 0,
      .collectiveConfigWrite 17 .numStep 0, .alarmClear 2 0, .alarmMaskWrite 2 0, .msixVectorUnmask 17 2047,
      .msixVectorUnmask 16 2048, .regionReset 16 .software, .regionResetComplete 16 false].any Instr.wf = false := by decide +kernel

theorem test_wf_refused_11 :
    [Instr.leafRestoreDone 1024 .a ⟨0, 0, true⟩, .logRedispatch 17, .recordWaitTimeout 16, .recordStoreError 16,
      .maintAcquire 8 65535 .host, .maintAcquire 7 65536 .host, .maintRelease 8 .host, .maintLeaseExpiry 8,
      .stepRecordConfigWrite 17 .numStep 0, .pmbusPoll 12 0, .opticalEngineTemperature 8 255,
      .opticalEngineTemperature 7 256, .railUndervoltage 12, .tadcTimerTrigger 5, .tadcSyncTrigger 5 false,
      .tadcPassStart 5, .tadcConversionDone 5 0, .tadcSyncLost 5].any Instr.wf = false := by decide +kernel

theorem test_wf_refused_12 :
    [Instr.tadcBackgroundCalibration 5 false false, .getCertificate .doe 256 (2 ^ 40 - 1) 0,
      .getCertificate .doe 255 (2 ^ 40) 0, .challenge .doe 256 [], .laserFeedLow 8 1 0, .laserFeedLow 7 2 0,
      .alarmPacketWindowEnd 48 7, .alarmPacketWindowEnd 47 8, .unreachableResendDelay 1048576, .vfRingRangeWrite 0 0,
      .ringLoad 0 0 [], .descriptorFetchDone 0 (some []), .flitReceive 0 [], .stage3Complete [⟨16, 0, 0, true⟩] true,
      .cacheSliceError 0 0 [8] false, .memTestDone ⟨16, 0, 0, true⟩, .reg64LowRead 0 (rid .numStep)].any Instr.wf = false := by decide +kernel

/-! ## Loss of power and the functions -/

theorem test_lossOfPower :
    ok .lossOfPower secured (fun t => t.start.perst && t.nv.arbCount == 5 && t.routes == [] && t.time == 0) = true := by
  decide +kernel

theorem test_vfEnableClear : ok .vfEnableClear { working with numVfs := 3 } (fun t => t.numVfs == 0) = true := by decide +kernel

end Sys2Proof.Tests
end

section
/-! ## The round-robin arbiter (R31)

The arbiter scans the requesters by their distance from its pointer. For a pointer below the number of requesters, distances and
requesters answer each other one to one; so the first hit of the scan is the requester at the least distance. -/

namespace Sys2Proof.Machine

/-- How far a requester stands after the pointer `p`, wrapping once through `n` requesters. -/
def pointerDistance (n p j : Nat) : Nat := (j + n - p) % n

theorem pointerDistance_lt {n p : Nat} (hp : p < n) (j : Nat) : pointerDistance n p j < n :=
  Nat.mod_lt _ (Nat.zero_lt_of_lt hp)

theorem add_pointerDistance_mod {n p j : Nat} (hp : p < n) (hj : j < n) : (p + pointerDistance n p j) % n = j := by
  have hcancel : p + (j + n - p) = j + n := by omega
  rw [pointerDistance, Nat.add_mod_mod, hcancel, Nat.add_mod_right, Nat.mod_eq_of_lt hj]

theorem pointerDistance_add_mod {n p k : Nat} (hp : p < n) (hk : k < n) : pointerDistance n p ((p + k) % n) = k := by
  have hcancel : (p + k) % n + n - p = (p + k) % n + (n - p) := by omega
  have hround : p + k + (n - p) = k + n := by omega
  rw [pointerDistance, hcancel, Nat.mod_add_mod, hround, Nat.add_mod_right, Nat.mod_eq_of_lt hk]

theorem grantFrom_eq_map_find? (req : Nat → Bool) (n p : Nat) :
    grantFrom req n p = ((List.range n).find? fun k => req ((p + k) % n)).map fun k => (p + k) % n :=
  List.find?_map

theorem grantFrom_eq_some_iff {req : Nat → Bool} {n p g : Nat} (hp : p < n) :
    grantFrom req n p = some g ↔
      g < n ∧ req g = true ∧ ∀ j, j < n → pointerDistance n p j < pointerDistance n p g → req j = false := by
  simp only [grantFrom_eq_map_find?, Option.map_eq_some_iff, List.find?_range_eq_some, List.mem_range, Bool.not_eq_true']
  constructor
  · rintro ⟨k, ⟨hreq, hk, hbefore⟩, rfl⟩
    refine ⟨Nat.mod_lt _ (Nat.zero_lt_of_lt hp), hreq, fun j hj hcloser => ?_⟩
    rw [pointerDistance_add_mod hp hk] at hcloser
    simpa only [add_pointerDistance_mod hp hj] using hbefore _ hcloser
  · rintro ⟨hg, hreq, hcloser⟩
    refine ⟨pointerDistance n p g, ⟨?_, pointerDistance_lt hp g, fun k hk => ?_⟩, add_pointerDistance_mod hp hg⟩
    · rwa [add_pointerDistance_mod hp hg]
    · have hkn : k < n := Nat.lt_trans hk (pointerDistance_lt hp g)
      exact hcloser _ (Nat.mod_lt _ (Nat.zero_lt_of_lt hp)) (by rwa [pointerDistance_add_mod hp hkn])

theorem grantFrom_eq_none_iff {req : Nat → Bool} {n p : Nat} (hp : p < n) :
    grantFrom req n p = none ↔ ∀ j, j < n → req j = false := by
  simp only [grantFrom_eq_map_find?, Option.map_eq_none_iff, List.find?_range_eq_none, Bool.not_eq_true']
  constructor
  · intro hnone j hj
    simpa only [add_pointerDistance_mod hp hj] using hnone _ (pointerDistance_lt hp j)
  · exact fun hnone k _ => hnone _ (Nat.mod_lt _ (Nat.zero_lt_of_lt hp))

/-- Settles O14: the first hit of the scan is the requester at the least distance from the pointer. -/
theorem roundRobinArbiter : Obligations.RoundRobinArbiter := by
  unfold Obligations.RoundRobinArbiter
  intro req n p hp
  exact ⟨fun _ hgrant => (grantFrom_eq_some_iff hp).mp hgrant, grantFrom_eq_none_iff hp⟩

end Sys2Proof.Machine
end

section
/-! ## TILE_EVALUATE (R196 to R218, R228, R259, R273)

One law for each way its work can begin: an evaluation already in progress, a leaf that is not VALID, and checks that pass, after
which the evaluation stands on its cell and is carried on. Carrying on ends at once where a readback is due; else, where the input
read is finite and fits the wadi, it ends with the first shot ready. -/

namespace Sys2Proof.Machine

theorem onError_on_ok {α : Type} {m : Eng α} {a : α} {s t : State} (f : State → State) (h : Eng.on m s = (.ok a, t)) :
    Eng.on (onError m f) s = (.ok a, t) := by
  simp only [onError, Eng.on, ExceptT.run_tryCatch] at h ⊢
  change StateT.bind (ExceptT.run m) _ s = _
  simp only [StateT.bind, h]
  rfl

theorem exec_tileEvaluate (ring index : Nat) (s : State) :
    exec (.tileEvaluate ring index) s = execTileEvaluate ring index s := rfl

/-- The command of a TILE_EVALUATE that is ready answers what the piece of work on its descriptor leaves. -/
theorem tileEvaluate_answers {s : State} {w : Work} (h : OpReady s .tileEvaluate w) :
    Answers (.tileEvaluate w.ring w.index) s (runPiece s w (tileEvaluate w)) := by
  obtain ⟨hlive, hfound, hop, hphase, hruns⟩ := h
  rw [Answers, exec_tileEvaluate, execTileEvaluate, whenLive_on _ hlive, runOp_on tileEvaluate hfound hop hphase hruns]

/-! ### The start -/

theorem evalChecks_of_not_valid (w : Work) (cell : Nat) {l : LeafRec} (s : State) (h : l.state ≠ .valid) :
    Eng.on (evalChecks w cell l) s = (.error (.fail stBad 0x51), s) := by
  simp only [evalChecks, Eng.on_bind, Eng.on_ensure, h, decide_false, Bool.false_eq_true, if_false]

theorem tileEvaluate_of_evaluating {s : State} {w : Work} (h : (getCell s w.desc.target).eval.isSome = true) :
    Eng.on (tileEvaluate w) s = (.ok (), s) := by
  simp only [tileEvaluate, Eng.on_bind, Eng.on_get, h, if_true, Eng.on_pure]

theorem tileEvaluate_of_not_valid {s : State} {w : Work} (hidle : (getCell s w.desc.target).eval = none)
    (h : (getLeaf s w.desc.target (evalOps w.desc).leaf).state ≠ .valid) :
    Eng.on (tileEvaluate w) s = (.error (.fail stBad 0x51), s) := by
  simp only [tileEvaluate, Eng.on_bind, Eng.on_get, hidle, Option.isSome_none, Bool.false_eq_true, if_false,
    evalChecks_of_not_valid w _ s h]

/-- A cell with an evaluation standing on it. -/
def withEval (t : State) (cell : Nat) (e : Eval) : State := updCell t cell fun c => { c with eval := some e }

/-- Checks that pass leave the evaluation, with the controls as they stood before them, to be carried on (R204, R273). -/
theorem tileEvaluate_of_checked {s t : State} {w : Work} {table : List Byte} (hidle : (getCell s w.desc.target).eval = none)
    (hused : (getCell t w.desc.target).retired = false)
    (hchecks : Eng.on (evalChecks w w.desc.target (getLeaf s w.desc.target (evalOps w.desc).leaf)) s = (.ok table, t)) :
    Eng.on (tileEvaluate w) s = Eng.on (carry w w.desc.target) (withEval t w.desc.target (evalStarted s w table)) := by
  simp only [tileEvaluate, Eng.on_bind, Eng.on_get, hidle, Option.isSome_none, Bool.false_eq_true, if_false, hchecks,
    Eng.on_act, getCell_updCell_same, hused]
  rfl

/-! ### Carrying on -/

theorem carry_of_carryOn {s t : State} {w : Work} {cell : Nat}
    (h : ∀ fuel, Eng.on (carryOn w cell (fuel + 1)) s = (.ok (), t)) : Eng.on (carry w cell) s = (.ok (), t) := by
  rw [carry, Eng.on_bind_ok _ (Eng.on_get s)]
  exact onError_on_ok _ (h _)

theorem carryOn_of_reread {s : State} {w : Work} {cell : Nat} {e : Eval} (he : (getCell s cell).eval = some e)
    (h : e.reread = true) (fuel : Nat) : Eng.on (carryOn w cell (fuel + 1)) s = (.ok (), s) := by
  simp only [carryOn, Eng.on_bind, Eng.on_get, he, h, Bool.or_true, Bool.true_or, if_true, Eng.on_pure]

/-- The evaluation `e` of a cell is to read its next input: it waits for nothing, and its leaf takes array periods. -/
structure ReadsNext (s : State) (w : Work) (cell : Nat) (e : Eval) : Prop where
  eval : (getCell s cell).eval = some e
  unwaited : (e.waitClone || e.reread || e.ready) = false
  runs : engineRuns s w = true
  noSentinel : e.sentinelDue = false
  noSuspect : suspectsOf (getCell s cell) e.leaf = []
  noFallback : leafFallback s cell e.leaf = false
  remaining : e.next < e.evals

/-- The input has no value and no unit step that is not finite (R199). -/
def EvalIn.Finite (i : EvalIn) : Prop := (∀ v, v ∈ i.vals → v.isFin = true) ∧ ∀ d, d ∈ i.steps → d.isSome = true

theorem EvalIn.Finite.no_skip {i : EvalIn} (h : i.Finite) :
    ((i.vals.any fun v => !v.isFin) || (i.steps.any fun d => d.isNone)) = false := by
  simp only [Bool.or_eq_false_iff, List.any_eq_false, Bool.not_eq_true, Bool.not_eq_false', Option.isNone_eq_false_iff]
  exact h

/-- The wadi rows of the evaluation that is prepared on a cell. -/
def wadiCount (s : State) (cell : Nat) : Nat := (((getCell s cell).eval.map (·.wadiRows)).getD []).length

/-- The evaluation prepared, and its wadi rows counted. -/
def prepareCounted (u : State) (cell : Nat) (mx : Bool) (i : EvalIn) : State :=
  addFld (prepareEval u cell mx i) (rid .cellWadiCnt cell) 0 32 (wadiCount (prepareEval u cell mx i) cell)

/-- A finite input that fits the wadi and has an active row leaves the first shot with one ready (R197, R203, R211). -/
theorem carryOn_of_readsNext {s u : State} {w : Work} {cell : Nat} {e : Eval} {i : EvalIn} (h : ReadsNext s w cell e)
    (hread : Eng.on (readInput (whoOf w) (vaOf (w.desc.W 0)) (fmtOf (w.desc.W 0)) (getLeaf s cell e.leaf).rows e.next) s
      = (.ok i, u))
    (hfin : i.Finite) (hcap : wadiCount (prepareEval u cell (mxInput w.desc) i) cell ≤ (evalOps w.desc).cap)
    (hshot : (startShot (prepareCounted u cell (mxInput w.desc) i) cell (mxInput w.desc) 0).1 = true) (fuel : Nat) :
    Eng.on (carryOn w cell (fuel + 1)) s =
      (.ok (), (startShot (prepareCounted u cell (mxInput w.desc) i) cell (mxInput w.desc) 0).2) := by
  have hmore : ¬ e.evals ≤ e.next := Nat.not_le.mpr h.remaining
  have hfits := Nat.not_lt.mpr hcap
  unfold prepareCounted at hshot ⊢
  unfold wadiCount at hfits hshot ⊢
  simp only [carryOn, Eng.on_bind, Eng.on_get, Eng.on_act, Eng.on_pure, h.eval, h.unwaited, h.runs, h.noSentinel, h.noSuspect,
    h.noFallback, hmore, hread, hfin.no_skip, hfits, hshot, List.isEmpty_nil, Bool.not_true, Bool.false_and, Bool.or_self,
    Bool.false_eq_true, if_false, if_true]

/-! ### The evaluation that stands on its cell -/

theorem getCell_withEval (t : State) (cell : Nat) (e : Eval) :
    getCell (withEval t cell e) cell = { getCell t cell with eval := some e } := getCell_updCell_same _ _ _

theorem getLeaf_withEval (t : State) (cell : Nat) (e : Eval) (l : Leaf) :
    getLeaf (withEval t cell e) cell l = getLeaf t cell l := by
  rw [getLeaf, getCell_withEval]; rfl

theorem readsNext_withEval {s t : State} {w : Work} {table : List Byte} (hnew : (evalStarted s w table).reread = false)
    (hmore : 0 < (evalOps w.desc).evals) (hruns : engineRuns t w = true)
    (hsuspects : suspectsOf (getCell t w.desc.target) (evalOps w.desc).leaf = [])
    (hfallback : leafFallback t w.desc.target (evalOps w.desc).leaf = false) :
    ReadsNext (withEval t w.desc.target (evalStarted s w table)) w w.desc.target (evalStarted s w table) where
  eval := by rw [getCell_withEval]
  unwaited := by rw [hnew]; rfl
  runs := hruns
  noSentinel := rfl
  noSuspect := by rw [getCell_withEval]; exact hsuspects
  noFallback := hfallback
  remaining := hmore

/-- Settles O24: each clause is the law of the way in which the work of a TILE_EVALUATE begins. -/
theorem tileEvaluations : Obligations.TileEvaluations := by
  unfold Obligations.TileEvaluations
  intro s w hready
  have ends {t : State} (h : Eng.on (tileEvaluate w) s = (.ok (), t)) : Answers (.tileEvaluate w.ring w.index) s t :=
    runPiece_ok h ▸ tileEvaluate_answers hready
  refine ⟨fun hbusy => ends (tileEvaluate_of_evaluating hbusy), fun hidle hstate => ?_, fun table t hidle hused hchecks => ?_⟩
  · obtain ⟨_, hfound, _⟩ := id hready
    have hfail : runPiece s w (tileEvaluate w) = _ := runPiece_fail (tileEvaluate_of_not_valid hidle hstate)
    rw [hfound, Option.getD_some] at hfail
    exact hfail ▸ tileEvaluate_answers hready
  · have starts := tileEvaluate_of_checked hidle hused hchecks
    refine ⟨fun hreread => ends ?_, fun u hcarry => ends (starts.trans hcarry), ?_⟩
    · exact starts.trans (carry_of_carryOn (carryOn_of_reread (congrArg Cell.eval (getCell_withEval _ _ _)) hreread))
    · intro i u hnew hmore hruns hsuspects hfallback hread hvals hsteps _ _ _ hcap hshot
      have reads := readsNext_withEval hnew hmore hruns hsuspects hfallback
      rw [← getLeaf_withEval] at hread
      exact ends (starts.trans (carry_of_carryOn (carryOn_of_readsNext reads hread ⟨hvals, hsteps⟩ hcap hshot)))

end Sys2Proof.Machine
end

section
/-! ## Changes of the segment modes, slice errors and the patrol scrub (R344, R345, R353, R367, R369, R372)

For each command one law that says what it answers once it acts: a write of either half of MEM_MAP_LOCAL, the end of a change, an
error that strikes a line with valid sectors, and the read of a sector that the scrub reaches. The clauses of the statement are the
branches of these laws. -/

namespace Sys2Proof.Machine

theorem whenReg_on {s : State} {fn : Nat} {r : RegId} (f : State → State) (h : RegReady s fn r) :
    whenReg s fn r f = .next { f s with pending := s.pending } := by
  obtain ⟨hlive, hreaches⟩ := h
  simp only [whenReg, finish, hlive, hreaches, if_true]

/-- A command that acts where a register is reached answers what its effect makes of the state. -/
theorem answers_of_whenReg {c : Instr} {s t : State} {fn : Nat} {r : RegId} {f : State → State}
    (hexec : exec c s = whenReg s fn r f) (h : RegReady s fn r) (hf : f s = t) : Answers c s t := by
  rw [Answers, hexec, whenReg_on f h, hf]

/-- A command that acts while the device is live answers what its effect makes of the state. -/
theorem answers_of_whenLive {c : Instr} {s t : State} {f : State → State} (hexec : exec c s = whenLive s f)
    (hlive : live s = true) (hf : f s = t) : Answers c s t := by
  rw [Answers, hexec, whenLive_on f hlive, hf]

/-! ### Segment modes -/

theorem exec_mapLocalWrite (high : Bool) (v : W32) (s : State) :
    exec (.mapLocalWrite high v) s = execMapLocalWrite high v s := rfl

theorem exec_mapChangeDone (s : State) : exec .mapChangeDone s = execMapChangeDone s := rfl

/-- The modes that a write of the high half asks for, with the low half held or as it stands (R46). -/
def modesAsked (s : State) (v : W32) : Nat := lowOf s (rid .memMapLocalLo) + v.toNat * 2 ^ 32

/-- The segments whose mode differs from the one that a write of the high half asks for. -/
def segsAsked (s : State) (v : W32) : Nat := modesAsked s v ^^^ getPair s .memMapLocalLo .memMapLocalHi

theorem mapLocalWrite_low_answers {s : State} (v : W32) (h : RegReady s 0 (rid .memMapLocalLo)) :
    Answers (.mapLocalWrite false v) s
      (if getBit s (rid .memMapStat) 0 then mapRefused s (v.toNat + getReg s (rid .memMapLocalHi) * 2 ^ 32)
      else holdLow s (rid .memMapLocalLo) v.toNat) :=
  answers_of_whenReg (exec_mapLocalWrite _ _ _) h rfl

@[simp] theorem oasisUsed_dropLow (s : State) (r : RegId) : oasisUsed (dropLow s r) = oasisUsed s := rfl

@[simp] theorem overlapsOasis_dropLow (s : State) (r : RegId) (changed : Nat) :
    overlapsOasis (dropLow s r) changed = overlapsOasis s changed := rfl

/-- A change to the modes `m` begun. -/
def changeBegun (s : State) (m : Nat × Nat) : State :=
  setBit { dropLow s (rid .memMapLocalLo) with mapBusy := some m } (rid .memMapStat) 0 true

theorem mapLocalWrite_high_answers {s : State} (v : W32) (h : RegReady s 0 (rid .memMapLocalHi)) :
    Answers (.mapLocalWrite true v) s
      (if getBit s (rid .memMapStat) 0 then mapRefused s (modesAsked s v)
      else if segsAsked s v = 0 then dropLow s (rid .memMapLocalLo)
      else if 0 < oasisUsed s ∧ overlapsOasis s (segsAsked s v) = true then
        mapRefused (dropLow s (rid .memMapLocalLo)) (modesAsked s v)
      else changeBegun s (lowOf s (rid .memMapLocalLo), v.toNat)) := by
  refine answers_of_whenReg (exec_mapLocalWrite _ _ _) h ?_
  simp only [if_true, Bool.not_true, Bool.false_eq_true, if_false, Bool.and_eq_true, decide_eq_true_eq]
  rw [oasisUsed_dropLow, overlapsOasis_dropLow, modesAsked, segsAsked, modesAsked, changeBegun]

/-- A change may begin where no oasis is in use, or none of its segments overlaps the oasis (R345). -/
theorem oasis_untouched {s : State} {changed : Nat} (h : oasisUsed s = 0 ∨ overlapsOasis s changed = false) :
    ¬ (0 < oasisUsed s ∧ overlapsOasis s changed = true) := by
  rintro ⟨hused, hoverlaps⟩
  rcases h with hunused | hapart
  · omega
  · exact Bool.false_ne_true (hapart.symm.trans hoverlaps)

/-- The lines that a change of the modes leaves: those with lost sectors, and those of the other segments (R344, R353). -/
def staysAtMapChange (s : State) (l : Nat × Line) : Bool :=
  l.2.lost != 0 || !flag (changedSegs s) (unmapPa s (l.1 / 2 ^ 28) (l.1 % 2 ^ 28 * 256) / 2 ^ 34)

/-- The state in which the modes `m` have come to hold. -/
def modesSet (s : State) (m : Nat × Nat) : State :=
  setBit (setReg (setReg { s with lines := s.lines.filter (staysAtMapChange s), mapBusy := none } (rid .memMapLocalLo) m.1)
    (rid .memMapLocalHi) m.2) (rid .memMapStat) 0 false

theorem issueHeld4_of_none {s : State} (h : s.heldAccess = []) : issueHeld4 s = { s with heldAccess := [] } := by
  rw [issueHeld4, h, List.foldl_nil]

theorem mapChangeDone_answers {s : State} {m : Nat × Nat} (hlive : live s = true) (hbusy : s.mapBusy = some m)
    (hheld : s.heldAccess = []) : Answers .mapChangeDone s { modesSet s m with heldAccess := [] } := by
  refine answers_of_whenLive (exec_mapChangeDone s) hlive ?_
  simp only [hbusy]
  exact issueHeld4_of_none hheld

theorem modesSet_lo (s : State) (m : Nat × Nat) : getReg (modesSet s m) (rid .memMapLocalLo) = m.1 % 2 ^ 32 := by
  rw [modesSet, setBit, setFld, getReg_setReg_ne _ _ _ _ (by decide), getReg_setReg_ne _ _ _ _ (by decide), getReg_setReg_same]

theorem modesSet_hi (s : State) (m : Nat × Nat) : getReg (modesSet s m) (rid .memMapLocalHi) = m.2 % 2 ^ 32 := by
  rw [modesSet, setBit, setFld, getReg_setReg_ne _ _ _ _ (by decide), getReg_setReg_same]

theorem modesSet_idle (s : State) (m : Nat × Nat) : getBit (modesSet s m) (rid .memMapStat) 0 = false :=
  getBit_setBit_same _ _ _ _ (by decide)

theorem mem_of_mem_modesSet_lines {s : State} {m : Nat × Nat} {l : Nat × Line} (h : l ∈ (modesSet s m).lines) : l ∈ s.lines :=
  (List.mem_filter.mp h).1

theorem mapModes : MapModes := by
  intro s v lo new changed
  refine ⟨fun hready => ?_, fun hready => ?_, fun m hlive hbusy hlo hhi hheld => ?_⟩
  · have low := mapLocalWrite_low_answers v hready
    refine ⟨fun hidle => ?_, fun hbusy => ?_⟩
    · rwa [hidle, if_neg Bool.false_ne_true] at low
    · rwa [if_pos hbusy] at low
  · have high := mapLocalWrite_high_answers v hready
    have hnew : modesAsked s v = new := rfl
    have hchanged : segsAsked s v = changed := rfl
    rw [hnew, hchanged] at high
    refine ⟨fun hbusy => ?_, fun hidle hsame => ?_, fun hidle hdiffers hfree => ?_, fun hidle hdiffers hused hoverlaps => ?_⟩
    · rwa [if_pos hbusy] at high
    · rwa [hidle, if_neg Bool.false_ne_true, if_pos hsame] at high
    · rwa [hidle, if_neg Bool.false_ne_true, if_neg hdiffers, if_neg (oasis_untouched hfree)] at high
    · rwa [hidle, if_neg Bool.false_ne_true, if_neg hdiffers, if_pos ⟨hused, hoverlaps⟩] at high
  · have hnewLo := (modesSet_lo s m).trans (Nat.mod_eq_of_lt hlo)
    have hnewHi := (modesSet_hi s m).trans (Nat.mod_eq_of_lt hhi)
    have hlines : ∀ l, l ∈ (modesSet s m).lines → l ∈ s.lines := fun _ => mem_of_mem_modesSet_lines
    exact ⟨_, mapChangeDone_answers hlive hbusy hheld, hnewLo, hnewHi, modesSet_idle s m, rfl, hlines, rfl, rfl, rfl⟩

/-! ### Errors of a slice -/

theorem exec_cacheSliceError (stack granule : Nat) (sectors : List Nat) (tagError : Bool) (s : State) :
    exec (.cacheSliceError stack granule sectors tagError) s = execCacheSliceError stack granule sectors tagError s := rfl

/-- The number of the line that an error of a slice strikes. -/
def struckKey (stack granule : Nat) : Nat := stack * 2 ^ 28 + granule % 2 ^ 28

/-- The counter of uncorrectable errors of a slice raised. -/
def sliceCounted (s : State) (stack : Nat) : State := addFld s (rid .memCacheErr stack) 16 16 1

/-- The event of an error of a slice. -/
def sliceEvent (s : State) (stack key dirty : Nat) : State :=
  emitFn s 0 0x050B 7 stack (leBytes 1 stack ++ leBytes 1 (lineSet key % 256) ++ leBytes 1 dirty)

/-- The sectors that an error of a slice strikes: with a tag error, all of the line. -/
def struckSectors (sectors : List Nat) (tagError : Bool) : Nat :=
  if tagError then 255 else sectors.foldl (fun m k => m ||| 2 ^ (k % 8)) 0

/-- Sectors of a granule left with a check that fails (R353). -/
def failSectors (b : Tab Nat) (stack granule : Nat) (ks : List Nat) : Tab Nat :=
  ks.foldl (fun b k => Tab.set 0 b (sectorKey stack (granule % 2 ^ 28 * 256 + 32 * k)) 3) b

theorem cacheSliceError_of_invalid {s : State} {stack granule : Nat} (sectors : List Nat) (tagError : Bool)
    (hlive : live s = true) (h : (Tab.get {} s.lines (struckKey stack granule)).valid = 0) :
    Answers (.cacheSliceError stack granule sectors tagError) s s :=
  answers_of_whenLive (exec_cacheSliceError _ _ _ _ _) hlive (if_pos (Or.inr h))

theorem cacheSliceError_answers {s : State} {stack granule : Nat} {l : Line} {lost : Nat} (sectors : List Nat) (tagError : Bool)
    (hlive : live s = true) (hstack : stack < 16) (hl : Tab.get {} s.lines (struckKey stack granule) = l) (hvalid : l.valid ≠ 0)
    (hlost : l.dirty &&& struckSectors sectors tagError = lost) :
    Answers (.cacheSliceError stack granule sectors tagError) s
      (if lost = 0 then
        sliceEvent (invalidate (sliceCounted s stack) (struckKey stack granule)) stack (struckKey stack granule) 0
      else if lost &&& Tab.get 0 s.detect (struckKey stack granule) = lost then
        sliceEvent { invalidate (sliceCounted s stack) (struckKey stack granule) with
          bad := failSectors s.bad stack granule ((List.range 8).filter (flag lost)) } stack (struckKey stack granule) 1
      else
        sliceEvent (raiseAlarm { sliceCounted s stack with
          lines := Tab.set {} s.lines (struckKey stack granule)
            { l with lost := l.lost ||| lost, valid := l.valid - (l.valid &&& lost), dirty := l.dirty - lost } } 4)
          stack (struckKey stack granule) 1) := by
  subst hl hlost
  exact answers_of_whenLive (exec_cacheSliceError _ _ _ _ _) hlive (if_neg (not_or.mpr ⟨Nat.not_le.mpr hstack, hvalid⟩))

theorem cacheSliceError_of_clean {s : State} {stack granule : Nat} (sectors : List Nat) (tagError : Bool) (hlive : live s = true)
    (hstack : stack < 16) (hvalid : (Tab.get {} s.lines (struckKey stack granule)).valid ≠ 0)
    (hclean : (Tab.get {} s.lines (struckKey stack granule)).dirty = 0) :
    Answers (.cacheSliceError stack granule sectors tagError) s
      (sliceEvent (invalidate (sliceCounted s stack) (struckKey stack granule)) stack (struckKey stack granule) 0) := by
  have hlost : (Tab.get {} s.lines (struckKey stack granule)).dirty &&& struckSectors sectors tagError = 0 := by
    rw [hclean, Nat.zero_and]
  have h := cacheSliceError_answers sectors tagError hlive hstack rfl hvalid hlost
  rwa [if_pos rfl] at h

/-- A tag error strikes every sector of a line that is wholly dirty. -/
theorem tagError_strikes_dirty {l : Line} (sectors : List Nat) (h : l.dirty = 255) :
    l.dirty &&& struckSectors sectors true = 255 := by
  rw [h, struckSectors, if_pos rfl, Nat.and_self]

theorem cacheSliceError_of_correction {s : State} {stack granule : Nat} {l : Line} (sectors : List Nat) (hlive : live s = true)
    (hstack : stack < 16) (hl : Tab.get {} s.lines (struckKey stack granule) = l) (hvalid : l.valid = 255) (hdirty : l.dirty = 255)
    (hclass : Tab.get 0 s.detect (struckKey stack granule) = 0) :
    Answers (.cacheSliceError stack granule sectors true) s
      (sliceEvent (raiseAlarm { sliceCounted s stack with
        lines := Tab.set {} s.lines (struckKey stack granule) { l with lost := l.lost ||| 255, valid := 0, dirty := 0 } } 4)
        stack (struckKey stack granule) 1) := by
  have hsome : l.valid ≠ 0 := by omega
  have h := cacheSliceError_answers sectors true hlive hstack hl hsome (tagError_strikes_dirty sectors hdirty)
  rwa [hclass, if_neg (by decide), if_neg (by decide), hvalid, hdirty, Nat.and_self, Nat.sub_self] at h

theorem cacheSliceError_of_detection {s : State} {stack granule : Nat} {l : Line} (sectors : List Nat) (hlive : live s = true)
    (hstack : stack < 16) (hl : Tab.get {} s.lines (struckKey stack granule) = l) (hvalid : l.valid = 255) (hdirty : l.dirty = 255)
    (hclass : Tab.get 0 s.detect (struckKey stack granule) = 255) :
    Answers (.cacheSliceError stack granule sectors true) s
      (sliceEvent { invalidate (sliceCounted s stack) (struckKey stack granule) with
        bad := failSectors s.bad stack granule (List.range 8) } stack (struckKey stack granule) 1) := by
  have hsome : l.valid ≠ 0 := by omega
  have h := cacheSliceError_answers sectors true hlive hstack hl hsome (tagError_strikes_dirty sectors hdirty)
  rwa [hclass] at h

theorem line_invalidate (s : State) (key : Nat) :
    Tab.get {} (invalidate s key).lines key =
      if (Tab.get {} s.lines key).lost = 0 then {}
      else { lost := (Tab.get {} s.lines key).lost, used := (Tab.get {} s.lines key).used } := by
  rw [invalidate, Tab.get_upd_same]

/-! ### The patrol scrub -/

theorem exec_patrolScrub (stack sector badBytes : Nat) (s : State) :
    exec (.patrolScrub stack sector badBytes) s = execPatrolScrub stack sector badBytes s := rfl

/-- The scrub at a sector: sector 0 begins a cycle. -/
def scrubAt (s : State) (stack sector : Nat) : State :=
  if sector = 0 then updStack s stack fun k => { k with scrubHits := [] } else s

@[simp] theorem scrubAt_bad (s : State) (stack sector : Nat) : (scrubAt s stack sector).bad = s.bad := by
  unfold scrubAt
  split <;> rfl

@[simp] theorem scrubAt_detect (s : State) (stack sector : Nat) : (scrubAt s stack sector).detect = s.detect := by
  unfold scrubAt
  split <;> rfl

@[simp] theorem sectorErrs_scrubAt (s : State) (stack sector la : Nat) :
    sectorErrs (scrubAt s stack sector) stack la = sectorErrs s stack la := by
  rw [sectorErrs, scrubAt_bad, sectorErrs]

@[simp] theorem sectorDetect_scrubAt (s : State) (stack sector la : Nat) :
    sectorDetect (scrubAt s stack sector) stack la = sectorDetect s stack la := by
  rw [sectorDetect, scrubAt_detect, sectorDetect]

theorem patrolScrub_of_critical {s : State} {stack : Nat} (sector badBytes : Nat) (hlive : live s = true)
    (h : (getStack s stack).thermal = .critical) : Answers (.patrolScrub stack sector badBytes) s s := by
  refine answers_of_whenLive (exec_patrolScrub _ _ _ _) hlive ?_
  simp only [h, or_true, if_true]

theorem patrolScrub_answers {s : State} {stack sector badBytes n : Nat} (hlive : live s = true) (hstack : stack < 16)
    (hsector : sector < 2 ^ 31) (hon : getBit s (rid .memScrubCfg stack) 8 = true) (hpresent : present s 13 stack = true)
    (hread : (getStack s stack).thermal ≠ .critical) (hn : max badBytes (sectorErrs s stack (sector * 32)) = n) :
    Answers (.patrolScrub stack sector badBytes) s
      (if n = 0 then scrubAt s stack sector
      else if !sectorDetect s stack (sector * 32) && decide (n ≤ 2) then correctSector (scrubAt s stack sector) stack (sector * 32)
      else reportSector { scrubAt s stack sector with bad := Tab.set 0 s.bad (sectorKey stack (sector * 32)) n }
        0 stack (sector * 32) 1) := by
  have hreached : ¬ (16 ≤ stack ∨ 2 ^ 31 ≤ sector ∨ getBit s (rid .memScrubCfg stack) 8 = false ∨ present s 13 stack = false
      ∨ (getStack s stack).thermal = .critical) := by
    rw [hon, hpresent]
    simp only [Bool.true_eq_false, hread, or_self, or_false, not_or, Nat.not_le]
    exact ⟨hstack, hsector⟩
  rw [← hn, ← sectorErrs_scrubAt s stack sector, ← sectorDetect_scrubAt s stack sector, ← scrubAt_bad s stack sector]
  exact answers_of_whenLive (exec_patrolScrub _ _ _ _) hlive (if_neg hreached)

/-- One or two erroneous bytes are corrected in a sector of the correction class (R367, R369). -/
theorem sector_correctable {s : State} {stack la n : Nat} (hfew : n ≤ 2) (hclass : sectorDetect s stack la = false) :
    (!sectorDetect s stack la && decide (n ≤ 2)) = true := by
  simp [hfew, hclass]

/-- More are not, nor are any in a sector of the detection class (R367, R369). -/
theorem sector_uncorrectable {s : State} {stack la n : Nat} (h : 2 < n ∨ sectorDetect s stack la = true) :
    ¬ (!sectorDetect s stack la && decide (n ≤ 2)) = true := by
  rcases h with hmany | hclass
  · simp [Nat.not_le.mpr hmany]
  · simp [hclass]

theorem sliceAndScrubErrors : SliceAndScrubErrors := by
  intro s stack granule hlive hstack key l counted event
  refine ⟨fun sectors tagError => cacheSliceError_of_clean sectors tagError hlive hstack,
    fun hnone => (line_invalidate counted key).trans (if_pos hnone),
    fun hsome => (line_invalidate counted key).trans (if_neg hsome),
    fun sectors => cacheSliceError_of_correction sectors hlive hstack rfl,
    fun sectors => cacheSliceError_of_detection sectors hlive hstack rfl,
    fun sectors tagError => cacheSliceError_of_invalid sectors tagError hlive, ?_⟩
  intro sector badBytes hsector hon hpresent s0 la n
  refine ⟨patrolScrub_of_critical sector badBytes hlive, fun hread => ?_⟩
  have scrub : Answers _ s _ := patrolScrub_answers (n := n) hlive hstack hsector hon hpresent hread rfl
  refine ⟨fun hclean => ?_, fun hsome hfew hclass => ?_, fun hsome hfails => ?_⟩
  · rwa [if_pos hclean] at scrub
  · rwa [if_neg (Nat.ne_of_gt hsome), if_pos (sector_correctable hfew hclass)] at scrub
  · rwa [if_neg (Nat.ne_of_gt hsome), if_neg (sector_uncorrectable hfails)] at scrub

/-- Settles O34: each clause is a branch of the law of its command. -/
theorem mapModesAndErrors : Obligations.MapModesAndErrors := ⟨mapModes, sliceAndScrubErrors⟩

end Sys2Proof.Machine
end

section
/-! ## The collective registers (R473)

One law says what a write of COL_GRP_BASE, COL_STAGE or COL_DIG answers; the clauses of the statement are its two branches, by
whether the function has an open bucket. -/

namespace Sys2Proof.Machine

theorem exec_collectiveConfigWrite (fn : Nat) (r : RegName) (v : W32) (s : State) :
    exec (.collectiveConfigWrite fn r v) s = execCollectiveConfigWrite fn r v s := rfl

/-- The registers that a function with an open bucket keeps (R473). -/
def collectiveRegs : List RegName := [.colGrpBaseLo, .colGrpBaseHi, .colStageLo, .colStageHi, .colDigLo, .colDigHi]

/-- Whether a function has an open bucket. -/
def hasOpenBucket (s : State) (fn : Nat) : Bool := s.buckets.any fun b => b.fn == fn

theorem hasOpenBucket_iff {s : State} {fn : Nat} : hasOpenBucket s fn = true ↔ ∃ b, b ∈ s.buckets ∧ b.fn = fn := by
  simp only [hasOpenBucket, List.any_eq_true, beq_iff_eq]

/-- The state `t` that a write in `s` leaves, with the count of digest records at 0 where the write set EN (Table 12-7). -/
def digestCountRestarted (s t : State) (fn : Nat) : State :=
  if getBit s (rid .colDigLo fn) 0 = false ∧ getBit t (rid .colDigLo fn) 0 = true then setReg t (rid .colDigIdx fn) 0 else t

theorem collectiveConfigWrite_answers {s : State} {fn : Nat} {r : RegName} (v : W32) (hready : RegReady s fn (rid r fn))
    (hr : r ∈ collectiveRegs) :
    Answers (.collectiveConfigWrite fn r v) s
      (if hasOpenBucket s fn = true then refusedWrite s fn 3 0 v.toNat
      else releaseStage (digestCountRestarted s (writePair s (rid r fn) v.toNat) fn)) :=
  answers_of_whenReg (exec_collectiveConfigWrite _ _ _ _) hready (if_neg (not_not_intro hr))

/-- Settles O49: each clause is a branch of the law of the write. -/
theorem collectiveRegisters : Obligations.CollectiveRegisters := by
  unfold Obligations.CollectiveRegisters
  intro s fn r v hready hr t
  have write := collectiveConfigWrite_answers v hready hr
  refine ⟨fun hopen => ?_, fun hclosed => ?_⟩
  · rwa [if_pos (hasOpenBucket_iff.mpr hopen)] at write
  · have hnone : ¬ hasOpenBucket s fn = true := fun h =>
      let ⟨b, hb, howner⟩ := hasOpenBucket_iff.mp h
      hclosed b hb howner
    rwa [if_neg hnone] at write

end Sys2Proof.Machine
end
